-- ==== Sys2Proof/Word.lean ====
section
/-! DEFINITION. The word and index types of the NL4. -/

namespace Sys2Proof

/-- One byte: of a frame, a record or a payload. -/
abbrev Byte := BitVec 8

/-- A 16-bit field: a ring index, a tag, a beacon number. -/
abbrev Half := BitVec 16

/-- A 32-bit word: a register, a time stamp, an admission number. -/
abbrev Word := BitVec 32

/-- A 64-bit host address (R163). -/
abbrev HostAddr := BitVec 64

/-- One of the four lines, 0 to 3. -/
abbrev Line := Fin 4

/-- A station record of a line: index `k` is address `k + 1`, so `0` to `29` are the stations
1 to 30 and `30` is the broadcast pseudo-station 31 (R74). -/
abbrev Station := Fin 31

/-- One of the 64 Transaction Table entries (R78). -/
abbrev EntryIx := Fin 64

/-- One of the 256 segments of the Payload Store (R115). -/
abbrev SegIx := Fin 256

/-- One of the eight immediate places (R135). -/
abbrev PlaceIx := Fin 8

end Sys2Proof
end

