-- ==== Sys2Proof/Syntax.lean ====
section
/-! DEFINITION. The commands the NL4 takes: one constructor per row of spec/opcode_table.json, with
the operands its rule names. -/

namespace Sys2Proof

/-- The two submission rings (R125). -/
inductive Ring
  | h
  | l
deriving DecidableEq, Repr

/-- The two rings the part writes (R145); each also names its coalesced cause (R156). -/
inductive HostRing
  | completion
  | indication
deriving DecidableEq, Repr

/-- The two words of CONFIG_ADDR (R172). -/
inductive AddrHalf
  | low
  | high
deriving DecidableEq, Repr

/-- A character as a receiver takes it at the end of its stop bit (R1). -/
structure LineChar where
  data : Byte
  framingError : Bool
deriving DecidableEq, Repr

/-- What the receiver heard in ECHO over one transmitted character's time (R43). -/
inductive Heard
  | nothing
  | char (c : LineChar)
deriving DecidableEq, Repr

/-- How a read of host memory ended: with its data, or with a bus error after some bytes (R165). -/
inductive BusRead
  | data (bytes : List Byte)
  | error (received : List Byte)
deriving DecidableEq, Repr

/-- How a write of host memory ended. `error placed` tells how much of it was placed before the
error: the number of leading bytes, or for the two-byte shadow write 0 none, 1 the low byte,
2 the high byte, modulo 3 (log 8). -/
inductive BusWriteEnd
  | done
  | error (placed : Nat)
deriving DecidableEq, Repr

/-- The commands. Which rule gives each its effect stands at its meaning. -/
inductive Instr
  | hardReset (asserted : Bool)
  | controlReset (value : Word)
  | controlStart (value : Word)
  | configAddrWrite (half : AddrHalf) (value : Word)
  | subTailWrite (ring : Ring) (value : Word)
  | hostHeadWrite (ring : HostRing) (value : Word)
  | notifyCauseWrite (value : Word)
  | notifyMaskWrite (value : Word)
  | registerWriteIgnored (offset : Nat) (width : Nat) (value : Word)
  | configReadEnd (result : BusRead)
  | prescalerCarry
  | fetchEnd (ring : Ring) (result : BusRead)
  | transact
  | abort
  | fence
  | lineControlStart
  | lineControlStop
  | lineControlDrain
  | lineControlSet
  | lineControlStatus
  | lineControlClear
  | stationControlAdd
  | stationControlRemove
  | stationControlQuery
  | timeRead
  | unknownKindRecord
  | readFailedCompletion
  | loadEnd (ring : Ring) (bytes : List Byte)
  | loadError (ring : Ring) (received : List Byte)
  | shadowWriteEnd (ring : Ring) (result : BusWriteEnd)
  | echoCheck (line : Line) (heard : Heard)
  | syncArrival (line : Line)
  | badFrame (line : Line) (char : LineChar)
  | sequenceBreak (line : Line)
  | discardEnd (line : Line)
  | validStationFrame (line : Line) (last : Byte)
  | responseWindowExpiry (line : Line)
  | guardExpiry (line : Line)
  | beaconPeriodExpiry (line : Line)
  | probeIntervalExpiry (line : Line)
  | jabberExpiry (line : Line)
  | releaseLingerExpiry (line : Line) (station : Station)
  | deadlineExpiry (entry : EntryIx)
  | retryHoldoffExpiry (entry : EntryIx)
  | collectHoldoffExpiry (entry : EntryIx)
  | collectIntervalExpiry (entry : EntryIx)
  | holdoffExpiry (ring : HostRing)
  | rearmGapExpiry (ring : HostRing)
  | replyCopyEnd (result : BusWriteEnd)
  | completionRecordWriteEnd (result : BusWriteEnd)
  | indicationWriteEnd (result : BusWriteEnd)
  | characterArrival (line : Line) (char : LineChar)
  | returnToMark (line : Line)
deriving DecidableEq, Repr

end Sys2Proof
end

