-- ==== Sys2Proof/WellFormed.lean ====
section
/-! DEFINITION. Which commands an agent of the NL4 can send: the checks on operands alone. -/

namespace Sys2Proof

/-- A read of `n` bytes ends with all of them, or with an error before the last. -/
def BusRead.ok (n : Nat) : BusRead → Bool
  | .data bytes => bytes.length == n
  | .error received => received.length < n

/-- A register write that R169 and R172 ignore: a wrong width or alignment, or IDENT, STATUS or
offset 0x2C. -/
def ignoredWrite (offset width : Nat) : Bool :=
  width != 4 || offset % 4 != 0 || offset == 0x00 || offset == 0x10 || offset == 0x2C

/-- The operands are ones the command can come with. -/
def Instr.wellFormed : Instr → Bool
  | .controlReset value => value.getLsbD 1
  | .controlStart value => !value.getLsbD 1
  | .registerWriteIgnored offset width _ => ignoredWrite offset width
  | .configReadEnd result => result.ok 128
  | .fetchEnd _ result => result.ok 64
  | .loadEnd _ bytes => bytes.length ≤ 248
  | .loadError _ received => received.length < 248
  | .releaseLingerExpiry _ station => station.val < 30
  | .hardReset _ | .configAddrWrite _ _ | .subTailWrite _ _ | .hostHeadWrite _ _
  | .notifyCauseWrite _ | .notifyMaskWrite _ | .prescalerCarry | .transact | .abort | .fence
  | .lineControlStart | .lineControlStop | .lineControlDrain | .lineControlSet
  | .lineControlStatus | .lineControlClear | .stationControlAdd | .stationControlRemove
  | .stationControlQuery | .timeRead | .unknownKindRecord | .readFailedCompletion
  | .shadowWriteEnd _ _ | .echoCheck _ _ | .syncArrival _ | .badFrame _ _ | .sequenceBreak _
  | .discardEnd _ | .validStationFrame _ _ | .responseWindowExpiry _ | .guardExpiry _
  | .beaconPeriodExpiry _ | .probeIntervalExpiry _ | .jabberExpiry _ | .deadlineExpiry _
  | .retryHoldoffExpiry _ | .collectHoldoffExpiry _ | .collectIntervalExpiry _
  | .holdoffExpiry _ | .rearmGapExpiry _ | .replyCopyEnd _ | .completionRecordWriteEnd _
  | .indicationWriteEnd _ | .characterArrival _ _ | .returnToMark _ => true

end Sys2Proof
end

