-- ==== Sys2Proof/Config.lean ====
section
/-! DEFINITION. What an implementation fixes and the spec leaves open. -/

namespace Sys2Proof

/-- FREE VALUE (log 7). How much of the n-th write that a halt or a reset stopped stands in host
memory: R165 and R171 say that 'some of its bytes' may and give no number. The model reads it
modulo the number of possibilities; nothing is known of it. -/
opaque Config.placedBytes : Nat → Nat

/-- FREE VALUE (log 5). What the n-th read that a halt stopped had received: R124, R138 and R144 keep
'the bytes read so far' and give neither their number nor their values. The model takes of it no more
bytes than the read asked for; nothing is known of it. -/
opaque Config.receivedBytes : Nat → List Byte

end Sys2Proof
end

