-- ==== Sys2Proof/Machine/Table.lean ====
section
/-! DEFINITION. A fixed number of like things, held as a list whose length is part of the type. -/

namespace Sys2Proof.Machine

/-- `n` cells numbered from 0. -/
structure Table (α : Type) (n : Nat) where
  cells : List α
  size_eq : cells.length = n
deriving DecidableEq, Repr

/-- `n` equal cells. -/
def Table.fill {α : Type} (n : Nat) (a : α) : Table α n :=
  ⟨List.replicate n a, by simp⟩

/-- The cell numbered `i`. -/
def Table.get {α : Type} {n : Nat} (t : Table α n) (i : Fin n) : α :=
  t.cells[i.val]'(by rw [t.size_eq]; exact i.isLt)

/-- The table with the cell numbered `i` replaced. -/
def Table.set {α : Type} {n : Nat} (t : Table α n) (i : Fin n) (a : α) : Table α n :=
  ⟨t.cells.set i.val a, by simp [t.size_eq]⟩

/-- The table with every cell changed by `f`. -/
def Table.map {α : Type} {n : Nat} (f : α → α) (t : Table α n) : Table α n :=
  ⟨t.cells.map f, by simp [t.size_eq]⟩

end Sys2Proof.Machine
end

