-- ==== Sys2Proof/Machine/State.lean ====
section
/-! DEFINITION. The state of the NL4 as plain data, block by block, and its value after reset. -/

namespace Sys2Proof.Machine

/-! ### Timers (R25) -/

/-- A timer: stopped, or running with a remaining length in microseconds. `expired` is stopped with
its expiry raised and not yet taken by the owner (log 3). -/
inductive Timer
  | stopped
  | running (left : Nat)
  | expired
deriving DecidableEq, Repr

/-! ### Device Control (R160 to R168) -/

/-- The device states (R160). -/
inductive DeviceState
  | idle
  | starting
  | running
  | halted
deriving DecidableEq, Repr

/-- The start error codes (R162). -/
inductive StartError
  | none
  | configReadError
  | badClock
  | badRingSize
  | badAperture
  | ringOutsideAperture
  | ringOverlap
deriving DecidableEq, Repr

/-- The halt causes (R166). -/
inductive HaltCause
  | none
  | ringReadError
  | ringWriteError
  | ringIndex
  | hostHead
deriving DecidableEq, Repr

/-- An aperture as the configuration block gives it (R163). -/
structure Aperture where
  base : HostAddr
  limit : HostAddr
  read : Bool
  write : Bool
deriving DecidableEq, Repr

/-- A ring in host memory: where it lies and how many records it has (R125, R145). -/
structure RingPlace where
  base : HostAddr
  size : Nat
deriving DecidableEq, Repr

/-- The settings of one coalesced cause (R156); the threshold is at least 1. -/
structure CauseSettings where
  threshold : Nat
  holdoff : Nat
deriving DecidableEq, Repr

/-- The configuration copy (R164). -/
structure ConfigCopy where
  ringH : RingPlace
  ringL : RingPlace
  completionRing : RingPlace
  indicationRing : RingPlace
  shadow : HostAddr
  aperture0 : Aperture
  aperture1 : Aperture
  aperture2 : Aperture
  aperture3 : Aperture
  clock : Nat
  strays : Bool
  completionCause : CauseSettings
  indicationCause : CauseSettings
  rearmGap : Nat
deriving DecidableEq, Repr

/-- Device Control's own state. `config` is `none` until a START passes (R168). -/
structure DeviceControl where
  state : DeviceState
  config : Option ConfigCopy
  startError : StartError
  haltCause : HaltCause
  configAddr : HostAddr
deriving DecidableEq, Repr

/-! ### Device Time (R22, R23) -/

/-- The prescaler count, device time, and the number of the present increment, counted without a
wrap, by which due times are ordered (R52, R104; log 4). -/
structure DeviceTime where
  prescaler : Nat
  now : Word
  increment : Nat
deriving DecidableEq, Repr

/-! ### Completions (R90, R91, R150, R151) -/

/-- The statuses of a completion (R151). -/
inductive Status
  | ok
  | refused
  | stationBusy
  | noResponse
  | deadline
  | aborted
  | tooLate
  | notFound
  | stationOffline
  | noStation
  | lineStopped
  | lineDraining
  | lineFault
  | collectLimit
  | tokenLost
  | badRecord
  | aperture
  | duplicateTag
  | wrongState
  | busy
  | superseded
  | hostReadError
  | hostWriteError
deriving DecidableEq, Repr

/-- The detail codes: the last ending an entry took (R91). -/
inductive Detail
  | none
  | noAnswer
  | badFrame
  | wrongAnswer
  | echoFault
  | cut
  | busy
  | reject
  | pending
  | unknownToken
  | defer
deriving DecidableEq, Repr

/-- The six flags of a completion (R90, R122). -/
structure CompletionFlags where
  mayHaveExecuted : Bool
  late : Bool
  truncated : Bool
  neverSent : Bool
  wasDeferred : Bool
  noAnswerExpected : Bool
deriving DecidableEq, Repr

/-! ### Admission Unit (R125 to R136) -/

/-- The kinds of resource a record may lack (R130). -/
inductive Resource
  | entry
  | segments
  | immediatePlace
  | controlPlace (line : Line)
  | loadEnd (entry : EntryIx)
deriving DecidableEq, Repr

/-- The states of a hold (R127). `loading` names the entry, and says whether its load is complete
and only its placement waits (R138). -/
inductive HoldState
  | empty
  | fetching
  | ready
  | waiting (lacks : List Resource)
  | loading (entry : EntryIx) (complete : Bool)
deriving DecidableEq, Repr

/-- The hold of a submission ring: its state, the record's bytes, the mark READ_FAILED (R127). -/
structure Hold where
  state : HoldState
  bytes : List Byte
  readFailed : Bool
deriving DecidableEq, Repr

/-- The shadow write state of a ring, with the head value being written (R128). -/
inductive ShadowState
  | idle
  | writing (value : Half)
  | writingPending (value : Half)
deriving DecidableEq, Repr

/-- What the Admission Unit holds for one submission ring (R125 to R128). -/
structure RingUnit where
  tail : Half
  head : Half
  hold : Hold
  shadow : ShadowState
deriving DecidableEq, Repr

/-- The accesses the Admission Unit asks of the Host Bus Port (R165). -/
inductive AdmissionAccess
  | fetch (r : Ring)
  | load (r : Ring)
  | shadow (r : Ring)
deriving DecidableEq, Repr

/-- A grant of the application stage: the ring, and whether ring L's hold was READY at it (R129). -/
structure Grant where
  ring : Ring
  lowReady : Bool
deriving DecidableEq, Repr

/-- A completion held in an immediate place (R135). `target` is the entry whose exchange an ABORT's
completion waits for (R96), or `none` once it stands in the retire queue. -/
structure Immediate where
  tag : Half
  ring : Ring
  kind : Byte
  status : Status
  result : List Byte
  target : Option EntryIx
deriving DecidableEq, Repr

/-- The Admission Unit. A place holding `none` is FREE. `asked` lists its accesses in flight in the
order it asked for them (R165, log 33). -/
structure Admission where
  h : RingUnit
  l : RingUnit
  stage : Option Grant
  credit : Nat
  counter : Word
  places : Table (Option Immediate) 8
  asked : List AdmissionAccess
deriving DecidableEq, Repr

/-! ### Release items and frames (R3 to R20) -/

/-- The kinds of a release item (R71). -/
inductive ReleaseKind
  | deferred
  | event
deriving DecidableEq, Repr

/-- A release item (R71). -/
structure ReleaseItem where
  kind : ReleaseKind
  token : Nat
deriving DecidableEq, Repr

/-- The master frame kinds (R9). -/
inductive MasterKind
  | poll
  | collect
  | probe
  | sync
  | beacon
  | eventFetch
deriving DecidableEq, Repr

/-- Who owns an exchange (R42). The station record's address is the exchange's own. -/
inductive Owner
  | entry (i : EntryIx)
  | station
  | beacon
deriving DecidableEq, Repr

/-- The frame in flight and its owner (R31, R42). `chars` is the whole frame as sent, `echoed` the
number of its characters that passed the echo check. The beacon fields are what a BEACON carries. -/
structure Exchange where
  kind : MasterKind
  owner : Owner
  station : Station
  seq : Bool
  flag : Bool
  token : Nat
  carried : Option ReleaseItem
  chars : List Byte
  echoed : Nat
  beaconTime : Word
  beaconNumber : Half
deriving DecidableEq, Repr

/-! ### Line Engines (R14, R31) -/

/-- The line states (R32). -/
inductive LineState
  | stopped
  | running
  | draining
  | stopping
  | faulted
deriving DecidableEq, Repr

/-- The fault causes of a line (R37). -/
inductive FaultCause
  | none
  | jabber
  | echo
deriving DecidableEq, Repr

/-- The exchange phases (R31). -/
inductive Phase
  | idle
  | transmit
  | listen
  | receive
  | guard
deriving DecidableEq, Repr

/-- The receiver states (R14). -/
inductive ReceiverState
  | off
  | echo
  | hunt
  | assemble
  | discard
deriving DecidableEq, Repr

/-- The thirteen line parameters (R39). -/
structure LineParams where
  rateCode : Nat
  responseWindow : Nat
  turnaroundGap : Nat
  lateGuard : Nat
  retryHoldoffBase : Nat
  defaultAttempts : Nat
  failureThreshold : Nat
  collectInterval : Nat
  collectLimit : Nat
  probeInterval : Nat
  beaconPeriod : Nat
  markValue : Nat
  releaseLinger : Nat
deriving DecidableEq, Repr

/-- The two ops that use a control place (R38). -/
inductive StopOp
  | stop
  | drain
deriving DecidableEq, Repr

/-- The control place of a line: empty, a pending STOP or DRAIN, or its completion awaiting posting
(R38). -/
inductive ControlPlace
  | empty
  | pending (op : StopOp) (tag : Half) (ring : Ring)
  | completed (op : StopOp) (tag : Half) (ring : Ring) (status : Status)
deriving DecidableEq, Repr

/-- A line engine (R31), with its receiver (R14). `rxBuffer` holds the characters of the sequence
being assembled, or of the last frame assembled, the sync character first. `rxLate` says that the
sequence's sync arrival came in a GUARD after a NO_ANSWER ending, `guardLate` that the present GUARD
is such a one (R47). `atSpace` says that the wire has stayed at space since a framing error (R1). -/
structure LineEngine where
  state : LineState
  faultCause : FaultCause
  phase : Phase
  current : Option Exchange
  params : LineParams
  control : ControlPlace
  receiver : ReceiverState
  rxBuffer : List Byte
  rxLate : Bool
  guardLate : Bool
  atSpace : Bool
  errors : Nat
  echoFaults : Nat
  credit : Nat
  eventRotation : Nat
  probeRotation : Nat
  beaconNumber : Half
  markCount : Nat
  beaconDue : Bool
  reprobeDue : Bool
  windowTimer : Timer
  guardTimer : Timer
  beaconTimer : Timer
  probeTimer : Timer
  jabberTimer : Timer
deriving DecidableEq, Repr

/-! ### Station Table (R59) -/

/-- The station states (R61). -/
inductive StationState
  | absent
  | unknown
  | online
  | suspect
  | offline
deriving DecidableEq, Repr

/-- A station record (R59), with the station's release linger timer (R73). `flushDue` is the release
flush due flag with the increment at which it was set (R52). -/
structure StationRecord where
  state : StationState
  seqBit : Bool
  failures : Nat
  attention : Bool
  statusWord : Option Half
  fifo : List EntryIx
  deferred : List EntryIx
  release : List ReleaseItem
  flushDue : Option Nat
  linger : Timer
deriving DecidableEq, Repr

/-! ### Transaction Table (R78) -/

/-- The entry states (R79). -/
inductive EntryState
  | free
  | loading
  | queued
  | exchange
  | retryWait
  | deferred
  | fenceWait
  | retiring
deriving DecidableEq, Repr

/-- The record kinds that hold an entry (R78). -/
inductive EntryKind
  | transact
  | fence
deriving DecidableEq, Repr

/-- What is fixed when an entry retires (R89). -/
structure Final where
  status : Status
  flags : CompletionFlags
deriving DecidableEq, Repr

/-- A Transaction Table entry (R78). `waitsFor` lists the entries a FENCE still waits for: the
waiting count is its length; `waitPlaced` is the count given at placement, which R99 reports
(log 14). -/
structure Entry where
  state : EntryState
  kind : EntryKind
  ring : Ring
  tag : Half
  admission : Word
  line : Line
  station : Option Station
  deferOk : Bool
  requestLength : Nat
  requestAddress : HostAddr
  replyBufferLength : Nat
  replyBufferAddress : HostAddr
  replyLimit : Nat
  deadline : Nat
  attemptLimit : Nat
  attemptsUsed : Nat
  collectAttemptsUsed : Nat
  collectsUsed : Nat
  deadlineTimer : Timer
  phaseTimer : Timer
  dueTime : Option Nat
  token : Option Nat
  everSent : Bool
  unansweredAttempt : Bool
  abortPending : Bool
  deadlinePassed : Bool
  wasDeferred : Bool
  lastEnding : Detail
  requestChain : List SegIx
  replyReservation : List SegIx
  replyTrueLength : Option Nat
  waitsFor : List EntryIx
  waitPlaced : Nat
  notOkCount : Nat
  final : Option Final
deriving DecidableEq, Repr

/-! ### Payload Store (R115) -/

/-- The bytes of the segments as (address, byte) pairs, address `64 * segment + offset`. -/
abbrev Memory := List Host.Cell

/-- The Payload Store: the free queue and the segments' bytes (R115, R116). -/
structure PayloadStore where
  freeQueue : List SegIx
  bytes : Memory
deriving DecidableEq, Repr

/-! ### Retire Unit (R145 to R149) -/

/-- The items of the retire queue (R146). -/
inductive RetireItem
  | entry (i : EntryIx)
  | immediate (p : PlaceIx)
  | lineControl (line : Line)
deriving DecidableEq, Repr

/-- An item with the time stamp fixed as it joined (R28). -/
structure QueuedItem where
  item : RetireItem
  stamp : Word
deriving DecidableEq, Repr

/-- What the Retire Unit is doing with the head item (R147 to R149). -/
inductive Posting
  | idle
  | copying
  | writing (copyFailed : Bool)
deriving DecidableEq, Repr

/-- The Retire Unit. -/
structure RetireUnit where
  queue : List QueuedItem
  posting : Posting
deriving DecidableEq, Repr

/-- The indices of a ring the part writes (R145). -/
structure WrittenRing where
  posted : Half
  hostHead : Half
deriving DecidableEq, Repr

/-! ### Indication Unit (R152 to R154) -/

/-- Why a station changed its state (R62). -/
inductive Reason
  | add
  | remove
  | sync
  | retireUncertain
  | failures
deriving DecidableEq, Repr

/-- The contents of an indication beyond its common fields (R154). -/
inductive IndicationBody
  | event (station : Nat) (number : Nat) (length : Nat) (inlineBytes : List Byte)
  | stray (addr : Byte) (kind : Nat) (length : Nat) (late : Bool) (inlineBytes : List Byte)
  | stationState (station : Nat) (old new : StationState) (reason : Reason) (word : Half)
  | mark (number : Half) (start : Word)
  | lineState (state : LineState) (cause : FaultCause)
deriving DecidableEq, Repr

/-- An indication record. `lost` is taken when its write begins (R153). -/
structure Indication where
  line : Line
  stamp : Word
  lost : Nat
  body : IndicationBody
deriving DecidableEq, Repr

/-- The Indication Unit (R152). -/
structure IndicationUnit where
  queue : List Indication
  lost : Nat
  writing : Bool
deriving DecidableEq, Repr

/-! ### Notification Unit (R156 to R159) -/

/-- A coalesced cause with its two timers (R156). -/
structure Coalesced where
  cause : Bool
  holdoff : Timer
  rearm : Timer
deriving DecidableEq, Repr

/-- The three enables of NOTIFY_MASK (R159). -/
structure NotifyMask where
  completion : Bool
  indication : Bool
  halt : Bool
deriving DecidableEq, Repr

/-- The Notification Unit. -/
structure Notification where
  completion : Coalesced
  indication : Coalesced
  halt : Bool
  mask : NotifyMask
deriving DecidableEq, Repr

/-- A write the part has placed in host memory (log 6). -/
structure BusWrite where
  addr : HostAddr
  bytes : List Byte
deriving DecidableEq, Repr

/-! ### The whole part -/

/-- The state of the NL4. `pending` is the queue of waiting commands, `busWrites` what the part has
placed in host memory, newest first, `freeSeq` the number of the next use of the free value. -/
structure State where
  pending : List Instr
  resetInput : Bool
  device : DeviceControl
  time : DeviceTime
  admission : Admission
  lines : Table LineEngine 4
  stations : Table (Table StationRecord 31) 4
  entries : Table Entry 64
  store : PayloadStore
  retire : RetireUnit
  cplRing : WrittenRing
  ind : IndicationUnit
  indRing : WrittenRing
  notify : Notification
  busWrites : List BusWrite
  freeSeq : Nat
deriving DecidableEq, Repr

/-- Why a step stops. The spec itself stops the part only by states (HALTED, FAULTED). -/
inductive Fault
  /-- Raised by the meanings of CONFIG_READ_END, FETCH_END and LOAD_END: the command says that a read
  ended without error and brings another number of bytes than was asked for, which no host bus can
  answer. Safe: no effect of the hardware is replaced. -/
  | illFormedOperand
deriving DecidableEq, Repr

/-- Why a step refuses a command. -/
inductive Refusal
  /-- Raised by exec for a command that has no meaning yet, by its mnemonic; no arm raises it. Safe. -/
  | notModelled (mnemonic : String)
deriving DecidableEq, Repr

/-! ### Reset values -/

/-- The default line parameters (R39). -/
def LineParams.defaults : LineParams where
  rateCode := 4
  responseWindow := 5000
  turnaroundGap := 200
  lateGuard := 5000
  retryHoldoffBase := 2000
  defaultAttempts := 3
  failureThreshold := 3
  collectInterval := 20
  collectLimit := 50
  probeInterval := 1000
  beaconPeriod := 0
  markValue := 1
  releaseLinger := 50

/-- A line engine after reset (R31, R14). -/
def LineEngine.reset : LineEngine where
  state := .stopped
  faultCause := .none
  phase := .idle
  current := none
  params := LineParams.defaults
  control := .empty
  receiver := .off
  rxBuffer := []
  rxLate := false
  guardLate := false
  atSpace := false
  errors := 0
  echoFaults := 0
  credit := 0
  eventRotation := 0
  probeRotation := 0
  beaconNumber := 0
  markCount := 0
  beaconDue := false
  reprobeDue := false
  windowTimer := .stopped
  guardTimer := .stopped
  beaconTimer := .stopped
  probeTimer := .stopped
  jabberTimer := .stopped

/-- The record of an address 1 to 30 after reset (R59). -/
def StationRecord.reset : StationRecord where
  state := .absent
  seqBit := false
  failures := 0
  attention := false
  statusWord := none
  fifo := []
  deferred := []
  release := []
  flushDue := none
  linger := .stopped

/-- The record of address 31 after reset (R74). -/
def StationRecord.broadcast : StationRecord :=
  { StationRecord.reset with state := .online }

/-- The broadcast pseudo-station, address 31 (R74). -/
def broadcastStation : Station := 30

/-- The station records of one line after reset (R59, R74). -/
def StationRecord.resetLine : Table StationRecord 31 :=
  (Table.fill 31 StationRecord.reset).set broadcastStation StationRecord.broadcast

/-- An entry after reset, and when it returns to FREE (R78). -/
def Entry.reset : Entry where
  state := .free
  kind := .transact
  ring := .h
  tag := 0
  admission := 0
  line := 0
  station := none
  deferOk := false
  requestLength := 0
  requestAddress := 0
  replyBufferLength := 0
  replyBufferAddress := 0
  replyLimit := 0
  deadline := 0
  attemptLimit := 1
  attemptsUsed := 0
  collectAttemptsUsed := 0
  collectsUsed := 0
  deadlineTimer := .stopped
  phaseTimer := .stopped
  dueTime := none
  token := none
  everSent := false
  unansweredAttempt := false
  abortPending := false
  deadlinePassed := false
  wasDeferred := false
  lastEnding := .none
  requestChain := []
  replyReservation := []
  replyTrueLength := none
  waitsFor := []
  waitPlaced := 0
  notOkCount := 0
  final := none

/-- An empty hold (R127). -/
def Hold.empty : Hold where
  state := .empty
  bytes := []
  readFailed := false

/-- A submission ring's unit after reset (R125 to R128). -/
def RingUnit.reset : RingUnit where
  tail := 0
  head := 0
  hold := Hold.empty
  shadow := .idle

/-- A coalesced cause after reset (R156). -/
def Coalesced.reset : Coalesced where
  cause := false
  holdoff := .stopped
  rearm := .stopped

/-- A written ring's indices after reset (R152, R155). -/
def WrittenRing.reset : WrittenRing where
  posted := 0
  hostHead := 0

/-- The machine right after a hard reset, its input released: every field at the value the spec
states (R168 and the blocks' own rules); log 6, 7, 9, 10 and 17 name the values the spec does not
state. -/
def State.reset : State where
  pending := []
  resetInput := false
  device :=
    { state := .idle, config := none, startError := .none, haltCause := .none, configAddr := 0 }
  time := { prescaler := 0, now := 0, increment := 0 }
  admission :=
    { h := RingUnit.reset, l := RingUnit.reset, stage := none, credit := 0, counter := 0,
      places := Table.fill 8 none, asked := [] }
  lines := Table.fill 4 LineEngine.reset
  stations := Table.fill 4 StationRecord.resetLine
  entries := Table.fill 64 Entry.reset
  store := { freeQueue := List.finRange 256, bytes := [] }
  retire := { queue := [], posting := .idle }
  cplRing := WrittenRing.reset
  ind := { queue := [], lost := 0, writing := false }
  indRing := WrittenRing.reset
  notify :=
    { completion := Coalesced.reset, indication := Coalesced.reset, halt := false,
      mask := { completion := false, indication := false, halt := false } }
  busWrites := []
  freeSeq := 0

end Sys2Proof.Machine
end

