-- ==== Sys2Proof/Machine/Ops.lean ====
section
/-! DEFINITION. The named operations over the state: reading and replacing one line, station, entry
or segment; timers; the byte order of host memory and of the line. -/

namespace Sys2Proof.Machine

/-! ### Reading and replacing parts of the state -/

/-- Line engine `l`. -/
def State.line (s : State) (l : Line) : LineEngine := s.lines.get l

/-- The state with line engine `l` replaced. -/
def State.setLine (s : State) (l : Line) (x : LineEngine) : State :=
  { s with lines := s.lines.set l x }

/-- The state with line engine `l` changed by `f`. -/
def State.modLine (s : State) (l : Line) (f : LineEngine → LineEngine) : State :=
  s.setLine l (f (s.line l))

/-- The record of station `a` on line `l`. -/
def State.station (s : State) (l : Line) (a : Station) : StationRecord := (s.stations.get l).get a

/-- The state with one station record replaced. -/
def State.setStation (s : State) (l : Line) (a : Station) (r : StationRecord) : State :=
  { s with stations := s.stations.set l ((s.stations.get l).set a r) }

/-- The state with one station record changed by `f`. -/
def State.modStation (s : State) (l : Line) (a : Station) (f : StationRecord → StationRecord) :
    State :=
  s.setStation l a (f (s.station l a))

/-- The state with every station record of line `l` changed by `f`. -/
def State.mapStations (s : State) (l : Line) (f : StationRecord → StationRecord) : State :=
  { s with stations := s.stations.set l ((s.stations.get l).map f) }

/-- Transaction Table entry `i`. -/
def State.entry (s : State) (i : EntryIx) : Entry := s.entries.get i

/-- The state with entry `i` replaced. -/
def State.setEntry (s : State) (i : EntryIx) (e : Entry) : State :=
  { s with entries := s.entries.set i e }

/-- The state with entry `i` changed by `f`. -/
def State.modEntry (s : State) (i : EntryIx) (f : Entry → Entry) : State :=
  s.setEntry i (f (s.entry i))

/-- The unit of a submission ring. -/
def Admission.unit (a : Admission) : Ring → RingUnit
  | .h => a.h
  | .l => a.l

/-- The Admission Unit with one ring's unit replaced. -/
def Admission.setUnit (a : Admission) (r : Ring) (u : RingUnit) : Admission :=
  match r with
  | .h => { a with h := u }
  | .l => { a with l := u }

/-- The unit of submission ring `r`. -/
def State.ringUnit (s : State) (r : Ring) : RingUnit := s.admission.unit r

/-- The read a hold has in flight (R127, R138). -/
def Hold.read (h : Hold) (r : Ring) : Option AdmissionAccess :=
  match h.state with
  | .fetching => some (.fetch r)
  | .loading _ false => some (.load r)
  | _ => none

/-- The change of a shadow write state is the begin of a write (R128). -/
def ShadowState.begins : ShadowState → ShadowState → Bool
  | .idle, .writing _ => true
  | .writingPending _, .writing _ => true
  | _, _ => false

/-- The change of a shadow write state is the end of a write (R128). -/
def ShadowState.ends : ShadowState → ShadowState → Bool
  | .writing _, .idle => true
  | .writingPending _, .writing _ => true
  | _, _ => false

/-- The order of the accesses asked when ring `r`'s unit goes from `u` to `v`: what ended leaves it,
what is begun joins at its end, a shadow write before a fetch of the same moment (R165, log 33). -/
def orderAsked (r : Ring) (u v : RingUnit) (asked : List AdmissionAccess) : List AdmissionAccess :=
  let readMoved := v.hold.read r != u.hold.read r
  (asked.filter fun a =>
      !(u.shadow.ends v.shadow && a == .shadow r) && !(readMoved && u.hold.read r == some a))
    ++ (if u.shadow.begins v.shadow then [.shadow r] else [])
    ++ (if readMoved then (v.hold.read r).toList else [])

/-- The state with the unit of ring `r` changed by `f`. -/
def State.modRing (s : State) (r : Ring) (f : RingUnit → RingUnit) : State :=
  let u := s.ringUnit r
  let a := s.admission.setUnit r (f u)
  { s with admission := { a with asked := orderAsked r u (f u) s.admission.asked } }

/-- The state with the hold of ring `r` changed by `f`. -/
def State.modHold (s : State) (r : Ring) (f : Hold → Hold) : State :=
  s.modRing r fun u => { u with hold := f u.hold }

/-- The other submission ring. -/
def otherRing : Ring → Ring
  | .h => .l
  | .l => .h

/-- The state with the completion held in place `p` replaced; `none` frees the place (R135). -/
def State.setPlace (s : State) (p : PlaceIx) (c : Option Immediate) : State :=
  { s with admission := { s.admission with places := s.admission.places.set p c } }

/-- The indices of a ring the part writes. -/
def State.writtenRing (s : State) : HostRing → WrittenRing
  | .completion => s.cplRing
  | .indication => s.indRing

/-- The state with the indices of a written ring replaced. -/
def State.setWrittenRing (s : State) (r : HostRing) (w : WrittenRing) : State :=
  match r with
  | .completion => { s with cplRing := w }
  | .indication => { s with indRing := w }

/-- A coalesced cause. -/
def Notification.coalesced (n : Notification) : HostRing → Coalesced
  | .completion => n.completion
  | .indication => n.indication

/-- The Notification Unit with one coalesced cause replaced. -/
def Notification.setCoalesced (n : Notification) (r : HostRing) (c : Coalesced) : Notification :=
  match r with
  | .completion => { n with completion := c }
  | .indication => { n with indication := c }

/-- The state with a coalesced cause changed by `f`. -/
def State.modCause (s : State) (r : HostRing) (f : Coalesced → Coalesced) : State :=
  { s with notify := s.notify.setCoalesced r (f (s.notify.coalesced r)) }

/-- The configuration in force. Before a START passes there is none (R168): every aperture is then
unused and nothing below is read, since no block works outside RUNNING (R160). -/
def ConfigCopy.absent : ConfigCopy where
  ringH := { base := 0, size := 0 }
  ringL := { base := 0, size := 0 }
  completionRing := { base := 0, size := 0 }
  indicationRing := { base := 0, size := 0 }
  shadow := 0
  aperture0 := { base := 0, limit := 0, read := false, write := false }
  aperture1 := { base := 0, limit := 0, read := false, write := false }
  aperture2 := { base := 0, limit := 0, read := false, write := false }
  aperture3 := { base := 0, limit := 0, read := false, write := false }
  clock := 0
  strays := false
  completionCause := { threshold := 1, holdoff := 0 }
  indicationCause := { threshold := 1, holdoff := 0 }
  rearmGap := 0

/-- The configuration copy. -/
def State.cfg (s : State) : ConfigCopy := s.device.config.getD ConfigCopy.absent

/-- The place of a submission ring. -/
def ConfigCopy.subRing (c : ConfigCopy) : Ring → RingPlace
  | .h => c.ringH
  | .l => c.ringL

/-- The place of a written ring. -/
def ConfigCopy.hostRing (c : ConfigCopy) : HostRing → RingPlace
  | .completion => c.completionRing
  | .indication => c.indicationRing

/-- The settings of a coalesced cause. -/
def ConfigCopy.cause (c : ConfigCopy) : HostRing → CauseSettings
  | .completion => c.completionCause
  | .indication => c.indicationCause

/-- The blocks work only in RUNNING (R160, R167): in any other device state an event leaves the
state as it is. -/
def State.whenRunning (s : State) (t : State) : State :=
  if s.device.state = .running then t else s

/-! ### Timers (R25) -/

/-- Starting a timer; a length of 0 raises the expiry at once (R25). -/
def Timer.start (length : Nat) : Timer :=
  if length = 0 then .expired else .running length

/-- One increment of device time at a timer (R25). -/
def Timer.tick : Timer → Timer
  | .running left => if left ≤ 1 then .expired else .running (left - 1)
  | t => t

/-- The timer is running. -/
def Timer.isRunning : Timer → Bool
  | .running _ => true
  | _ => false

/-! ### Byte order and fields of host memory -/

/-- A byte holding `n`. -/
def byteOf (n : Nat) : Byte := BitVec.ofNat 8 n

/-- A flag as a bit. -/
def bit (b : Bool) : Nat := if b then 1 else 0

/-- A 16-bit field, low byte first. -/
def le16 (v : Half) : List Byte := [v.extractLsb' 0 8, v.extractLsb' 8 8]

/-- A 32-bit field, low byte first. -/
def le32 (v : Word) : List Byte :=
  [v.extractLsb' 0 8, v.extractLsb' 8 8, v.extractLsb' 16 8, v.extractLsb' 24 8]

/-- The byte at an offset; a byte past the end reads 0 (only an ill-formed operand has none). -/
def byteAt (bytes : List Byte) (offset : Nat) : Byte := bytes.getD offset 0

/-- The 16-bit field at an offset. -/
def halfAt (bytes : List Byte) (offset : Nat) : Half :=
  byteAt bytes (offset + 1) ++ byteAt bytes offset

/-- The 32-bit field at an offset. -/
def wordAt (bytes : List Byte) (offset : Nat) : Word :=
  halfAt bytes (offset + 2) ++ halfAt bytes offset

/-- The 64-bit field at an offset. -/
def addrAt (bytes : List Byte) (offset : Nat) : HostAddr :=
  wordAt bytes (offset + 4) ++ wordAt bytes offset

/-- `bytes` filled with zeros to `n` bytes. -/
def padTo (n : Nat) (bytes : List Byte) : List Byte :=
  bytes ++ List.replicate (n - bytes.length) 0

/-! ### Choosing -/

/-- The first member with the least key. -/
def leastBy {α : Type} (key : α → Nat) : List α → Option α
  | [] => none
  | x :: xs =>
    match leastBy key xs with
    | none => some x
    | some y => if key y < key x then some y else some x

/-- Insertion by key, behind members with an equal key. -/
def insertByKey {α : Type} (key : α → Nat) (x : α) : List α → List α
  | [] => [x]
  | y :: ys => if key x < key y then x :: y :: ys else y :: insertByKey key x ys

/-- The list in the order of its keys, lowest first. -/
def sortByKey {α : Type} (key : α → Nat) : List α → List α
  | [] => []
  | x :: xs => insertByKey key x (sortByKey key xs)

/-! ### Memory of the Payload Store (R115, log 9) -/

/-- What an address that is not listed reads as (DESIGN CHOICE, log 9: the spec states no contents
and no unwritten byte is read, R116). -/
def Memory.unlisted : Byte := 0

/-- The byte at an address. -/
def Memory.read : Memory → Nat → Byte
  | [], _ => Memory.unlisted
  | (x, v) :: m, a => if x = a then v else Memory.read m a

/-- Writing one byte, keeping the canonical form. -/
def Memory.write : Memory → Nat → Byte → Memory
  | [], a, b => if b = Memory.unlisted then [] else [(a, b)]
  | (x, v) :: m, a, b =>
    if a < x then (if b = Memory.unlisted then (x, v) :: m else (a, b) :: (x, v) :: m)
    else if a = x then (if b = Memory.unlisted then m else (a, b) :: m)
    else (x, v) :: Memory.write m a b

/-- Addresses from `lo` on, strictly rising, no entry equal to what an unlisted address reads as. -/
def Memory.wfFrom : Nat → Memory → Bool
  | _, [] => true
  | lo, (a, v) :: m => decide (lo ≤ a) && (v != Memory.unlisted) && Memory.wfFrom (a + 1) m

/-- The canonical form. -/
def Memory.wf (m : Memory) : Bool := Memory.wfFrom 0 m

/-- Writing a run of bytes from an address on. -/
def Memory.writeRun : Memory → Nat → List Byte → Memory
  | m, _, [] => m
  | m, a, b :: bs => Memory.writeRun (Memory.write m a b) (a + 1) bs

/-- Reading a run of `n` bytes. -/
def Memory.readRun (m : Memory) (a : Nat) : Nat → List Byte
  | 0 => []
  | n + 1 => Memory.read m a :: Memory.readRun m (a + 1) n

/-- Filling a chain: byte `i` goes to segment `i / 64` of the chain at offset `i mod 64` (R119,
R121). Bytes past the chain's end are stored nowhere. -/
def Memory.writeChain : Memory → List SegIx → List Byte → Memory
  | m, [], _ => m
  | m, seg :: chain, bytes =>
    Memory.writeChain (Memory.writeRun m (64 * seg.val) (bytes.take 64)) chain (bytes.drop 64)

/-- The first `n` bytes a chain holds, in the order `writeChain` stored them (R120, R122). -/
def Memory.readChain (m : Memory) : List SegIx → Nat → List Byte
  | [], _ => []
  | seg :: chain, n =>
    Memory.readRun m (64 * seg.val) (min n 64) ++ Memory.readChain m chain (n - 64)

end Sys2Proof.Machine
end

