-- ==== Sys2Proof/Machine/Flags.lean ====
section
/-! DEFINITION. The codes and flag computations of the spec: statuses, details and states as their
codes, the flags of a completion, the STATUS register's fields, the interrupt output. -/

namespace Sys2Proof.Machine

/-- The code of a status (R151). -/
def Status.code : Status → Nat
  | .ok => 0
  | .refused => 1
  | .stationBusy => 2
  | .noResponse => 3
  | .deadline => 4
  | .aborted => 5
  | .tooLate => 6
  | .notFound => 7
  | .stationOffline => 8
  | .noStation => 9
  | .lineStopped => 10
  | .lineDraining => 11
  | .lineFault => 12
  | .collectLimit => 13
  | .tokenLost => 14
  | .badRecord => 15
  | .aperture => 16
  | .duplicateTag => 17
  | .wrongState => 18
  | .busy => 19
  | .superseded => 20
  | .hostReadError => 21
  | .hostWriteError => 22

/-- The code of a detail (R91). -/
def Detail.code : Detail → Nat
  | .none => 0
  | .noAnswer => 1
  | .badFrame => 2
  | .wrongAnswer => 3
  | .echoFault => 4
  | .cut => 5
  | .busy => 6
  | .reject => 7
  | .pending => 8
  | .unknownToken => 9
  | .defer => 10

/-- The code of a device state (R160). -/
def DeviceState.code : DeviceState → Nat
  | .idle => 0
  | .starting => 1
  | .running => 2
  | .halted => 3

/-- The code of a start error (R162). -/
def StartError.code : StartError → Nat
  | .none => 0
  | .configReadError => 1
  | .badClock => 2
  | .badRingSize => 3
  | .badAperture => 4
  | .ringOutsideAperture => 5
  | .ringOverlap => 6

/-- The code of a halt cause (R166). -/
def HaltCause.code : HaltCause → Nat
  | .none => 0
  | .ringReadError => 1
  | .ringWriteError => 2
  | .ringIndex => 3
  | .hostHead => 4

/-- The code of a line state (R40). -/
def LineState.code : LineState → Nat
  | .stopped => 0
  | .running => 1
  | .draining => 2
  | .stopping => 3
  | .faulted => 4

/-- The code of a fault cause (R40). -/
def FaultCause.code : FaultCause → Nat
  | .none => 0
  | .jabber => 1
  | .echo => 2

/-- The code of an exchange phase (R40). -/
def Phase.code : Phase → Nat
  | .idle => 0
  | .transmit => 1
  | .listen => 2
  | .receive => 3
  | .guard => 4

/-- The code of a station state (R77). -/
def StationState.code : StationState → Nat
  | .absent => 0
  | .unknown => 1
  | .online => 2
  | .suspect => 3
  | .offline => 4

/-- The code of a reason (11_formats_and_register_window.md). -/
def Reason.code : Reason → Nat
  | .add => 1
  | .remove => 2
  | .sync => 3
  | .retireUncertain => 4
  | .failures => 5

/-- The code of a master frame kind (R9). -/
def MasterKind.code : MasterKind → Nat
  | .poll => 1
  | .collect => 2
  | .probe => 3
  | .sync => 4
  | .beacon => 5
  | .eventFetch => 6

/-- The code of a ring in a completion record. -/
def ringCode : Ring → Nat
  | .h => 0
  | .l => 1

/-- The line's transmitter is on (R31, R32). -/
def LineState.isActive : LineState → Bool
  | .running => true
  | .draining => true
  | .stopping => true
  | .stopped => false
  | .faulted => false

/-- A completion with no flag set. -/
def CompletionFlags.clear : CompletionFlags where
  mayHaveExecuted := false
  late := false
  truncated := false
  neverSent := false
  wasDeferred := false
  noAnswerExpected := false

/-- The flags byte of a completion record. -/
def CompletionFlags.toByte (f : CompletionFlags) : Byte :=
  byteOf (bit f.mayHaveExecuted + 2 * bit f.late + 4 * bit f.truncated + 8 * bit f.neverSent
    + 16 * bit f.wasDeferred + 32 * bit f.noAnswerExpected)

/-- The reply was longer than the part could keep (R122). -/
def Entry.truncated (e : Entry) : Bool :=
  match e.replyTrueLength with
  | some n => decide (e.replyLimit < n)
  | none => false

/-- The final flags of an entry that retires with `status` (R90, R122). Only an accepted REPLY gives
an entry a reply true length (R121), so that is how a retirement on one is told. -/
def Entry.finalFlags (e : Entry) (status : Status) : CompletionFlags where
  mayHaveExecuted :=
    e.kind == .transact && e.unansweredAttempt && !e.wasDeferred && e.replyTrueLength.isNone
  late := status == .ok && e.kind == .transact && e.deadlinePassed
  truncated := e.truncated
  neverSent := e.kind == .transact && !e.everSent
  wasDeferred := e.wasDeferred
  noAnswerExpected := e.kind == .transact && e.station == some broadcastStation && status == .ok

/-- The interrupt output is active (R159); the pin itself is driven low while it is. -/
def State.interruptActive (s : State) : Bool :=
  (s.notify.completion.cause && s.notify.mask.completion)
    || (s.notify.indication.cause && s.notify.mask.indication)
    || (s.notify.halt && s.notify.mask.halt)

/-- The level of the interrupt pin: low while active (R159). -/
def State.interruptPinHigh (s : State) : Bool := !s.interruptActive

/-- The unseen count of a written ring (R145). -/
def WrittenRing.unseen (w : WrittenRing) : Nat := (w.posted - w.hostHead).toNat

end Sys2Proof.Machine
end

