-- ==== Sys2Proof/Machine/Frames.lean ====
section
/-! DEFINITION. Frames on the line: the CRC (R7), master frames (R9, R10), the receive checks (R16),
and which station frames answer which master frames (R18, R19). -/

namespace Sys2Proof.Machine

/-! ### The check value (R7) -/

/-- One bit into the check register, generator x^16 + x^12 + x^5 + 1. -/
def crcBit (r : Half) (b : Bool) : Half :=
  if r.getLsbD 15 != b then (r <<< 1) ^^^ 0x1021 else r <<< 1

/-- One byte into the check register, bit 7 first. -/
def crcByte (r : Half) (b : Byte) : Half :=
  [7, 6, 5, 4, 3, 2, 1, 0].foldl (fun r i => crcBit r (b.getLsbD i)) r

/-- The check value of a header and payload. -/
def crc (bytes : List Byte) : Half := bytes.foldl crcByte 0xFFFF

/-! ### Master frames (R3, R5, R9) -/

/-- The sync character. -/
def syncChar : Byte := 0xB4

/-- The CTRL byte: kind, SEQ, flag, release kind, direction (R5). -/
def ctrlByte (kind : Nat) (seq flag releaseEvent fromStation : Bool) : Byte :=
  byteOf (kind + 16 * bit seq + 32 * bit flag + 64 * bit releaseEvent + 128 * bit fromStation)

/-- RELEASE: the token of the carried item, or 0 for none (R6). -/
def releaseField : Option ReleaseItem → Nat
  | some item => item.token
  | none => 0

/-- The release kind bit: 1 for an event report, 0 for a deferred result or no item (R5). -/
def releaseKindBit : Option ReleaseItem → Bool
  | some item => item.kind == .event
  | none => false

/-- The characters of a frame: sync, header, payload, CRC low byte first (R3). -/
def frameChars (addr : Nat) (ctrl : Byte) (token release : Nat) (payload : List Byte) : List Byte :=
  let covered := [byteOf addr, ctrl, byteOf payload.length, byteOf token, byteOf release] ++ payload
  syncChar :: covered ++ le16 (crc covered)

/-- The characters of a master frame (R9). -/
def masterChars (kind : MasterKind) (addr : Nat) (seq flag : Bool) (token : Nat)
    (carried : Option ReleaseItem) (payload : List Byte) : List Byte :=
  frameChars addr (ctrlByte kind.code seq flag (releaseKindBit carried) false) token
    (releaseField carried) payload

/-! ### The receive checks (R15, R16) -/

/-- A valid station frame as it is handed over (R15). -/
structure StationFrame where
  addr : Byte
  kind : Nat
  seq : Bool
  attention : Bool
  length : Nat
  token : Nat
  payload : List Byte
deriving DecidableEq, Repr

/-- LEN of a sequence whose header is in the buffer, the sync character at its front. -/
def rxLength (buffer : List Byte) : Nat := (byteAt buffer 3).toNat

/-- Check 4, the CRC part: the two characters after the payload equal the check value (R7, R16). -/
def crcOk (buffer : List Byte) : Bool :=
  let n := 5 + rxLength buffer
  le16 (crc ((buffer.drop 1).take n)) == (buffer.drop (1 + n)).take 2

/-- The kind field of a buffered frame. -/
def rxKind (buffer : List Byte) : Nat := (byteAt buffer 2).toNat % 16

/-- Checks 4, 5 and 6 of R16 on a complete sequence. -/
def frameValid (buffer : List Byte) : Bool :=
  crcOk buffer && (byteAt buffer 2).getLsbD 7 && decide (8 ≤ rxKind buffer)
    && decide (rxKind buffer ≤ 14)

/-- The fields of a valid station frame in the receive buffer. -/
def parseFrame (buffer : List Byte) : StationFrame where
  addr := byteAt buffer 1
  kind := rxKind buffer
  seq := (byteAt buffer 2).getLsbD 4
  attention := (byteAt buffer 2).getLsbD 5
  length := rxLength buffer
  token := (byteAt buffer 4).toNat
  payload := (buffer.drop 6).take (rxLength buffer)

/-- What a character arrival does at the receiver (R14 to R16). -/
inductive Arrival
  /-- No character is taken: the receiver is OFF or in ECHO, or the wire has not yet returned to mark
  after a framing error (R1). -/
  | none
  /-- The sync character, in HUNT. -/
  | sync
  /-- The character makes the sequence fail a check; the receiver enters DISCARD. -/
  | badDiscard
  /-- The character completes a frame that fails check 4, 5 or 6; the receiver enters HUNT. -/
  | badComplete
  /-- Stored in ASSEMBLE. -/
  | stored
  /-- Dropped in DISCARD. -/
  | dropped
  /-- The character completes a valid station frame. -/
  | valid
deriving DecidableEq, Repr

/-- A character in ASSEMBLE, stored behind the buffer's characters. -/
def classifyAssemble (buffer : List Byte) : Arrival :=
  if buffer.length < 6 then .stored
  else if 248 < rxLength buffer then .badDiscard
  else if buffer.length = 8 + rxLength buffer then
    (if frameValid buffer then .valid else .badComplete)
  else .stored

/-- The classification of a character arrival. -/
def LineEngine.classify (ln : LineEngine) (c : LineChar) : Arrival :=
  if ln.atSpace then .none
  else
    match ln.receiver with
    | .off => .none
    | .echo => .none
    | .hunt => if c.data = syncChar ∧ c.framingError = false then .sync else .badDiscard
    | .assemble =>
      if c.framingError then .badDiscard else classifyAssemble (ln.rxBuffer ++ [c.data])
    | .discard => .dropped

/-! ### Answers (R18 to R20) -/

/-- The refusal codes (R12). -/
inductive RefuseCode
  | busy
  | reject
  | unknownToken
deriving DecidableEq, Repr

/-- What the part takes from an acceptable answer, beside its ATTENTION bit (R20). -/
inductive Answer
  | reply (payload : List Byte)
  | defer (token : Nat)
  | pending
  | refuse (code : RefuseCode)
  | status (word : Half)
  | event (number : Nat) (payload : List Byte)
  | noEvent
deriving DecidableEq, Repr

/-- A token that names something: 1 to 15 (R6). -/
def isToken (t : Nat) : Bool := decide (1 ≤ t) && decide (t ≤ 15)

/-- Acceptable answers to a POLL (R18, R19). -/
def answerToPoll (ex : Exchange) (f : StationFrame) : Option Answer :=
  if f.kind = 8 then
    (if f.seq = ex.seq ∧ f.token = 0 then some (.reply f.payload) else none)
  else if f.kind = 9 then
    (if ex.flag ∧ isToken f.token then some (.defer f.token) else none)
  else if f.kind = 11 ∧ f.length = 1 then
    (if byteAt f.payload 0 = 1 then some (.refuse .busy)
     else if byteAt f.payload 0 = 2 then some (.refuse .reject) else none)
  else none

/-- Acceptable answers to a COLLECT (R18, R19). -/
def answerToCollect (ex : Exchange) (f : StationFrame) : Option Answer :=
  if f.kind = 8 then (if f.token = ex.token then some (.reply f.payload) else none)
  else if f.kind = 10 then (if f.token = ex.token then some .pending else none)
  else if f.kind = 11 ∧ f.length = 1 ∧ byteAt f.payload 0 = 3 then some (.refuse .unknownToken)
  else none

/-- Acceptable answers to a PROBE or a SYNC (R18, R19). -/
def answerToProbe (f : StationFrame) : Option Answer :=
  if f.kind = 12 ∧ f.length = 2 then some (.status (halfAt f.payload 0)) else none

/-- Acceptable answers to an EVENT_FETCH (R18, R19). -/
def answerToFetch (f : StationFrame) : Option Answer :=
  if f.kind = 13 then (if isToken f.token then some (.event f.token f.payload) else none)
  else if f.kind = 14 then some .noEvent
  else none

/-- The acceptable answer a station frame is to the exchange, if it is one (R18). -/
def acceptable (ex : Exchange) (f : StationFrame) : Option Answer :=
  if f.addr.toNat = ex.station.val + 1 then
    match ex.kind with
    | .poll => answerToPoll ex f
    | .collect => answerToCollect ex f
    | .probe => answerToProbe f
    | .sync => answerToProbe f
    | .eventFetch => answerToFetch f
    | .beacon => none
  else none

/-- The endings of an exchange (R42 to R46). -/
inductive Ending
  | answer (a : Answer) (attention : Bool)
  | noAnswer
  | badFrame
  | wrongAnswer
  | echoFault (fullFrame : Bool)
  | sent
  | cut
deriving DecidableEq, Repr

/-- The ending is an ANSWER. -/
def Ending.isAnswer : Ending → Bool
  | .answer _ _ => true
  | _ => false

/-- The ending counts as a station failure (R64). -/
def Ending.isFailure : Ending → Bool
  | .noAnswer => true
  | .badFrame => true
  | .wrongAnswer => true
  | _ => false

end Sys2Proof.Machine
end

