-- ==== Sys2Proof/Machine/Formats.lean ====
section
/-! DEFINITION. The records the part writes into host memory, byte for byte
(11_formats_and_register_window.md), and where it writes them. -/

namespace Sys2Proof.Machine

/-! ### Completion records (R150) -/

/-- The fields of a completion record but its phase (R150). -/
structure Completion where
  kind : Byte
  ring : Ring
  tag : Half
  status : Status
  detail : Nat
  flags : CompletionFlags
  attemptsUsed : Nat
  collectsUsed : Nat
  trueLength : Nat
  stamp : Word
  result : List Byte
deriving DecidableEq, Repr

/-- Twelve zero bytes: an empty result area. -/
def zeroResult : List Byte := List.replicate 12 0

/-- The record kind code of an entry. -/
def EntryKind.code : EntryKind → Byte
  | .transact => 1
  | .fence => 3

/-- The result area of an entry's completion: zero but for a FENCE that retired OK (R99, R95). -/
def Entry.result (e : Entry) (status : Status) : List Byte :=
  if e.kind == .fence && status == .ok then
    padTo 12 (le16 (BitVec.ofNat 16 e.waitPlaced) ++ le16 (BitVec.ofNat 16 e.notOkCount))
  else zeroResult

/-- What was fixed when the entry retired. -/
def Entry.finalD (e : Entry) : Final :=
  e.final.getD { status := .ok, flags := CompletionFlags.clear }

/-- The completion of an entry; a failed reply copy replaces the status and puts the original
status in place of the detail (R148). -/
def Entry.completion (e : Entry) (stamp : Word) (copyFailed : Bool) : Completion where
  kind := e.kind.code
  ring := e.ring
  tag := e.tag
  status := if copyFailed then .hostWriteError else e.finalD.status
  detail := if copyFailed then e.finalD.status.code else e.lastEnding.code
  flags := e.finalD.flags
  attemptsUsed := e.attemptsUsed
  collectsUsed := e.collectsUsed
  trueLength := e.replyTrueLength.getD 0
  stamp := stamp
  result := e.result e.finalD.status

/-- A completion with every count 0, no flag and detail NONE (R134, R150). -/
def Completion.plain (kind : Byte) (ring : Ring) (tag : Half) (status : Status) (stamp : Word)
    (result : List Byte) : Completion where
  kind := kind
  ring := ring
  tag := tag
  status := status
  detail := 0
  flags := CompletionFlags.clear
  attemptsUsed := 0
  collectsUsed := 0
  trueLength := 0
  stamp := stamp
  result := result

/-- The completion of a retire queue item (R150). A place or control place that holds nothing has
no item in the queue (R146); the model then writes an empty completion. -/
def State.completionOf (s : State) (q : QueuedItem) (copyFailed : Bool) : Completion :=
  match q.item with
  | .entry i => (s.entry i).completion q.stamp copyFailed
  | .immediate p =>
    match s.admission.places.get p with
    | some c => Completion.plain c.kind c.ring c.tag c.status q.stamp c.result
    | none => Completion.plain 0 .h 0 .ok q.stamp zeroResult
  | .lineControl l =>
    match (s.line l).control with
    | .completed _ tag ring status => Completion.plain 4 ring tag status q.stamp zeroResult
    | _ => Completion.plain 4 .h 0 .ok q.stamp zeroResult

/-- The byte that carries the phase bit: 1 on even passes over the ring (R149). -/
def phaseByte (posted : Half) (size : Nat) : Byte :=
  if (posted.toNat / size) % 2 = 0 then 1 else 0

/-- The 32 bytes of a completion record. -/
def Completion.bytes (c : Completion) (phase : Byte) : List Byte :=
  [c.kind, byteOf (ringCode c.ring)] ++ le16 c.tag
    ++ [byteOf c.status.code, byteOf c.detail, c.flags.toByte, byteOf c.attemptsUsed,
        byteOf c.collectsUsed, byteOf c.trueLength, 0, 0]
    ++ le32 c.stamp ++ (padTo 12 c.result).take 12 ++ [0, 0, 0, phase]

/-! ### Indication records (R154) -/

/-- The kind code of an indication. -/
def IndicationBody.code : IndicationBody → Byte
  | .event .. => 1
  | .stray .. => 2
  | .stationState .. => 3
  | .mark .. => 4
  | .lineState .. => 5

/-- Bytes 8 to 14 of an indication record. -/
def IndicationBody.fields : IndicationBody → List Byte
  | .event station number length _ =>
    [byteOf station, byteOf number, byteOf length, byteOf (bit (decide (48 < length))), 0, 0, 0]
  | .stray addr kind length late _ =>
    [addr, byteOf kind, byteOf length, byteOf (bit (decide (48 < length)) + 2 * bit late), 0, 0, 0]
  | .stationState station old new reason word =>
    [byteOf station, byteOf old.code, byteOf new.code, byteOf reason.code] ++ le16 word ++ [0]
  | .mark number start => le32 start ++ le16 number ++ [0]
  | .lineState state cause => [byteOf state.code, byteOf cause.code, 0, 0, 0, 0, 0]

/-- The inline payload of an indication: at most 48 bytes. -/
def IndicationBody.payload : IndicationBody → List Byte
  | .event _ _ _ bytes => bytes
  | .stray _ _ _ _ bytes => bytes
  | _ => []

/-- The 64 bytes of an indication record. -/
def Indication.bytes (x : Indication) (phase : Byte) : List Byte :=
  [x.body.code, byteOf x.line.val] ++ le16 (BitVec.ofNat 16 x.lost) ++ le32 x.stamp
    ++ x.body.fields ++ (padTo 48 x.body.payload).take 48 ++ [phase]

/-! ### The accesses the part makes (R165) -/

/-- A write access: where and what. -/
structure WriteAccess where
  addr : HostAddr
  bytes : List Byte
deriving DecidableEq, Repr

/-- The address of a ring's slot for an index, with records of `width` bytes (R125, R149). -/
def RingPlace.slot (p : RingPlace) (index : Half) (width : Nat) : HostAddr :=
  p.base + BitVec.ofNat 64 (width * (index.toNat % p.size))

/-- The shadow field of a ring. -/
def ConfigCopy.shadowField (c : ConfigCopy) : Ring → HostAddr
  | .h => c.shadow
  | .l => c.shadow + 2

/-- The shadow head write in flight for a ring (R128). -/
def State.shadowAccess (s : State) (r : Ring) : Option WriteAccess :=
  match (s.ringUnit r).shadow with
  | .idle => none
  | .writing v => some { addr := s.cfg.shadowField r, bytes := le16 v }
  | .writingPending v => some { addr := s.cfg.shadowField r, bytes := le16 v }

/-- How many reply bytes posting copies to the host: none without a reply true length or for a
FENCE (R148). -/
def Entry.copyLength (e : Entry) : Nat :=
  match e.kind, e.replyTrueLength with
  | .transact, some n => min e.replyBufferLength n
  | _, _ => 0

/-- The reply copy of the head item (R122, R148). -/
def State.replyAccess (s : State) : Option WriteAccess :=
  match s.retire.queue with
  | { item := .entry i, stamp := _ } :: _ =>
    let e := s.entry i
    some { addr := e.replyBufferAddress,
           bytes := s.store.bytes.readChain e.replyReservation e.copyLength }
  | _ => none

/-- The completion record write of the head item (R149). -/
def State.completionAccess (s : State) (copyFailed : Bool) : Option WriteAccess :=
  match s.retire.queue with
  | q :: _ =>
    some { addr := s.cfg.completionRing.slot s.cplRing.posted 32,
           bytes := (s.completionOf q copyFailed).bytes
             (phaseByte s.cplRing.posted s.cfg.completionRing.size) }
  | [] => none

/-- The write of the head indication (R153). -/
def State.indicationAccess (s : State) : Option WriteAccess :=
  match s.ind.queue with
  | x :: _ =>
    some { addr := s.cfg.indicationRing.slot s.indRing.posted 64,
           bytes := x.bytes (phaseByte s.indRing.posted s.cfg.indicationRing.size) }
  | [] => none

end Sys2Proof.Machine
end

