-- ==== Sys2Proof/Machine/Notify.lean ====
section
/-! DEFINITION. The Notification Unit's shared operations (R156 to R158). -/

namespace Sys2Proof.Machine

/-- Setting a cause stops both its timers (R157). -/
def Coalesced.raise (c : Coalesced) : Coalesced :=
  { c with cause := true, holdoff := .stopped, rearm := .stopped }

/-- The posted count of a ring has increased and unseen is now `unseen` (R157). -/
def Coalesced.onPosted (c : Coalesced) (settings : CauseSettings) (unseen : Nat) : Coalesced :=
  if c.cause then c
  else
    let c1 := if unseen = 1 then { c with holdoff := Timer.start settings.holdoff } else c
    if settings.threshold ≤ unseen && !c1.rearm.isRunning then c1.raise else c1

/-- A cause cleared by a write of 1 is re-evaluated against its ring; a clear cause is left (R158). -/
def Coalesced.onClear (c : Coalesced) (settings : CauseSettings) (gap unseen : Nat) : Coalesced :=
  if c.cause then
    { cause := false,
      holdoff := if 1 ≤ unseen then Timer.start settings.holdoff else c.holdoff,
      rearm := if 1 ≤ unseen && settings.threshold ≤ unseen then Timer.start gap else c.rearm }
  else c

/-- A move of the host head that brings unseen to 0 stops both timers and leaves the cause (R155). -/
def Coalesced.onEmptied (c : Coalesced) : Coalesced :=
  { c with holdoff := .stopped, rearm := .stopped }

/-- The unseen count of ring `r`. -/
def State.unseen (s : State) (r : HostRing) : Nat := (s.writtenRing r).unseen

/-- A ring has room while unseen is less than its size (R145). -/
def State.hasRoom (s : State) (r : HostRing) : Bool :=
  decide (s.unseen r < (s.cfg.hostRing r).size)

/-- The posted count of ring `r` increases by 1 and the Notification Unit takes the increase (R149,
R153, R157). -/
def State.countPosted (s : State) (r : HostRing) : State :=
  let w := s.writtenRing r
  let t := s.setWrittenRing r { w with posted := w.posted + 1 }
  t.modCause r fun c => c.onPosted (t.cfg.cause r) (t.unseen r)

end Sys2Proof.Machine
end

