-- ==== Sys2Proof/Machine/Indicate.lean ====
section
/-! DEFINITION. The Indication Unit: giving an indication (R152) and beginning its write (R153). -/

namespace Sys2Proof.Machine

/-- Adds 1, staying at 65535 (R50, R152). -/
def saturate16 (n : Nat) : Nat := if n < 65535 then n + 1 else n

/-- An idle Indication Unit with a queued record and room in the ring begins to write the head
record, which takes the lost count (R153). -/
def State.beginIndication (s : State) : State :=
  if s.device.state = .running && !s.ind.writing && s.hasRoom .indication then
    match s.ind.queue with
    | [] => s
    | x :: rest =>
      { s with ind := { queue := { x with lost := s.ind.lost } :: rest, lost := 0, writing := true } }
  else s

/-- The unit takes a record that is given to it: it joins the queue, and an idle unit begins to write at
once (R153); or it is dropped and counted when the queue holds 8 (R152). -/
def State.takeIndication (s : State) (x : Indication) : State :=
  if s.ind.queue.length < 8 then
    State.beginIndication { s with ind := { s.ind with queue := s.ind.queue ++ [x] } }
  else { s with ind := { s.ind with lost := saturate16 s.ind.lost } }

/-- A source gives an indication, with the device time of this moment as its time stamp (R28, R152). It is
taken as the queue stands when the unit has begun what it may begin (R153). -/
def State.indicate (s : State) (l : Line) (body : IndicationBody) : State :=
  s.beginIndication.takeIndication { line := l, stamp := s.time.now, lost := 0, body := body }

/-- The number of a station's address, 1 to 31. -/
def addressOf (a : Station) : Nat := a.val + 1

/-- A change of a station's state is given as a STATION_STATE indication with the status word, 0 when
absent (R62). -/
def State.indicateStation (s : State) (l : Line) (a : Station) (old new : StationState)
    (reason : Reason) (word : Option Half) : State :=
  s.indicate l (.stationState (addressOf a) old new reason (word.getD 0))

/-- A change of a line's state is given as a LINE_STATE indication (R32). -/
def State.indicateLine (s : State) (l : Line) : State :=
  s.indicate l (.lineState (s.line l).state (s.line l).faultCause)

end Sys2Proof.Machine
end

