-- ==== Sys2Proof/Machine/Release.lean ====
section
/-! DEFINITION. The release list of a station and its linger timer (R71 to R73). -/

namespace Sys2Proof.Machine

/-- A time in milliseconds as microseconds of device time (R25). -/
def ms (n : Nat) : Nat := 1000 * n

/-- The list has become `items`; when that is empty the linger timer is stopped and the release flush
due flag cleared (R72). -/
def StationRecord.withRelease (r : StationRecord) (items : List ReleaseItem) : StationRecord :=
  if items.isEmpty then { r with release := [], linger := .stopped, flushDue := none }
  else { r with release := items }

/-- An item leaves the list, wherever it stands in it (R72). -/
def StationRecord.dropRelease (r : StationRecord) (item : ReleaseItem) : StationRecord :=
  r.withRelease (r.release.filter fun x => x != item)

/-- The list is emptied (R66, R68, R72, R76). -/
def StationRecord.clearRelease (r : StationRecord) : StationRecord := r.withRelease []

/-- An item is appended unless it is listed already; an append to an empty list while the line is
active starts the linger timer (R71, R73). A station that is ABSENT or OFFLINE takes none (R61,
log 18). -/
def StationRecord.appendRelease (r : StationRecord) (item : ReleaseItem) (active : Bool)
    (linger : Nat) : StationRecord :=
  if r.state = .absent ∨ r.state = .offline ∨ item ∈ r.release then r
  else if r.release.isEmpty && active then
    { r with release := [item], linger := Timer.start (ms linger) }
  else { r with release := r.release ++ [item] }

/-- An item is appended to the release list of station `a` of line `l`; the broadcast
pseudo-station's list never changes (R74). -/
def State.appendRelease (s : State) (l : Line) (a : Station) (item : ReleaseItem) : State :=
  if a = broadcastStation then s
  else
    s.modStation l a fun r =>
      r.appendRelease item (s.line l).state.isActive (s.line l).params.releaseLinger

end Sys2Proof.Machine
end

