-- ==== Sys2Proof/Machine/Retire.lean ====
section
/-! DEFINITION. Retirement (R89), the retire queue (R146) and the beginning of a posting (R147). -/

namespace Sys2Proof.Machine

/-! ### The retire queue -/

/-- An item joins the retire queue, with the device time of this moment as its time stamp (R28,
R146). -/
def State.enqueue (s : State) (item : RetireItem) : State :=
  { s with retire := { s.retire with queue := s.retire.queue ++ [{ item := item, stamp := s.time.now }] } }

/-- The posting of an item begins with a reply copy (R148). -/
def State.startsWithCopy (s : State) : RetireItem → Bool
  | .entry i => decide (0 < (s.entry i).copyLength)
  | _ => false

/-- An idle Retire Unit with a waiting head item and room in the completion ring begins to post that
item (R147). -/
def State.beginPosting (s : State) : State :=
  if s.device.state = .running && s.retire.posting == .idle && s.hasRoom .completion then
    match s.retire.queue with
    | [] => s
    | q :: _ =>
      { s with
        retire := { s.retire with
          posting := if s.startsWithCopy q.item then .copying else .writing false } }
  else s

/-! ### Retirement -/

/-- The record after entry `i` has left its lists (R89, step 1). -/
def StationRecord.unlink (r : StationRecord) (i : EntryIx) : StationRecord :=
  { r with fifo := r.fifo.filter (· != i), deferred := r.deferred.filter (· != i) }

/-- The entry after steps 2, 3 and 5 of R89: its timers stopped, its status and flags fixed, its token
given up, in RETIRING. -/
def Entry.retired (e : Entry) (status : Status) : Entry :=
  { e with
    state := .retiring
    deadlineTimer := .stopped
    phaseTimer := .stopped
    dueTime := none
    token := none
    waitsFor := []
    final := some { status := status, flags := e.finalFlags status } }

/-- Step 4 of R89: a token that is to be released goes to the station's release list. -/
def State.settleToken (s : State) (l : Line) (station : Option Station) (release : Option Nat) :
    State :=
  match station, release with
  | some a, some t => s.appendRelease l a { kind := .deferred, token := t }
  | _, _ => s

/-- Step 6 of R89: a retirement carrying MAY_HAVE_EXECUTED makes an ONLINE station 1 to 30 SUSPECT
(R67). -/
def State.makeSuspect (s : State) (l : Line) (station : Option Station) (mayHaveExecuted : Bool) :
    State :=
  match station with
  | some a =>
    if mayHaveExecuted && a != broadcastStation && (s.station l a).state == .online then
      (s.modStation l a fun r => { r with state := .suspect }).indicateStation l a .online .suspect
        .retireUncertain (s.station l a).statusWord
    else s
  | none => s

/-- The immediate place whose ABORT waits for entry `i` (R96). -/
def State.abortPlace (s : State) (i : EntryIx) : Option PlaceIx :=
  (List.finRange 8).find? fun p =>
    match s.admission.places.get p with
    | some c => c.target == some i
    | none => false

/-- Step 7 of R89: the ABORT's completion that waits in `place` enters the retire queue directly after
the target, OK when the target retired ABORTED and TOO_LATE otherwise (R96). -/
def State.finishAbort (s : State) (place : Option PlaceIx) (status : Status) : State :=
  match place with
  | some p =>
    match s.admission.places.get p with
    | some c =>
      (s.setPlace p (some { c with
        target := none, status := if status = .aborted then .ok else .tooLate })).enqueue
        (.immediate p)
    | none => s
  | none => s

/-- Step 1 of R89: entry `i` leaves the list of its station that it is in. -/
def State.unlinkEntry (s : State) (i : EntryIx) : State :=
  match (s.entry i).station with
  | some a => s.modStation (s.entry i).line a fun r => r.unlink i
  | none => s

/-- Steps 1 to 7 of R89 for entry `i`; `abort` is the place of an ABORT that waits on it. -/
def State.retireCore (s : State) (i : EntryIx) (status : Status) (release : Option Nat)
    (abort : Option PlaceIx) : State :=
  let e := s.entry i
  let s1 := s.unlinkEntry i
  let s2 := s1.setEntry i (e.retired status)
  let s3 := s2.settleToken e.line e.station release
  let s4 := s3.enqueue (.entry i)
  let s5 := s4.makeSuspect e.line e.station (e.finalFlags status).mayHaveExecuted
  s5.finishAbort abort status

/-- A FENCE's entry when it counts the retirement of entry `i` with `status` (R98). -/
def Entry.countRetired (e : Entry) (i : EntryIx) (status : Status) : Entry :=
  { e with
    waitsFor := e.waitsFor.filter (· != i)
    notOkCount := if status = .ok then e.notOkCount else e.notOkCount + 1 }

/-- The FENCE `j` counts the retirement of entry `i`, and retires when it waits for no more (R98,
R99). -/
def State.countAtFence (status : Status) (i : EntryIx) (s : State) (j : EntryIx) : State :=
  let t := s.modEntry j fun e => e.countRetired i status
  if (t.entry j).waitsFor.isEmpty then t.retireCore j .ok none none else t

/-- The FENCEs that wait for entry `i`, lowest admission number first (R98, log 13). -/
def State.fencesOn (s : State) (i : EntryIx) : List EntryIx :=
  sortByKey (fun j => (s.entry j).admission.toNat)
    ((List.finRange 64).filter fun j =>
      (s.entry j).state == .fenceWait && (s.entry j).waitsFor.contains i)

/-- Entry `i` retires with `status`; `release` is the token that goes to the station's release list and
`abort` the place of an ABORT that waits on it (R89). An entry that is FREE or RETIRING already is not
touched (R89, R93). -/
def State.retireFor (s : State) (i : EntryIx) (status : Status) (release : Option Nat)
    (abort : Option PlaceIx) : State :=
  if (s.entry i).state = .free ∨ (s.entry i).state = .retiring then s
  else
    let t := s.retireCore i status release abort
    (t.fencesOn i).foldl (State.countAtFence status i) t

/-- Entry `i` retires with `status`, and an ABORT that waits on it completes (R89). -/
def State.retireEntry (s : State) (i : EntryIx) (status : Status) (release : Option Nat) : State :=
  s.retireFor i status release (s.abortPlace i)

/-- Entries retire one after the other, each with the token `release` names for it. -/
def State.retireAll (s : State) (status : Status) (keepToken : Bool) (is : List EntryIx) : State :=
  is.foldl (fun t i => t.retireEntry i status (if keepToken then (t.entry i).token else none)) s

end Sys2Proof.Machine
end

