-- ==== Sys2Proof/Machine/Endings.lean ====
section
/-! DEFINITION. What the ending of an exchange does to its station record (R63 to R72) and to the
entry that owns it (R82 to R97, R103 to R112). -/

namespace Sys2Proof.Machine

/-! ### The entry that owns the exchange -/

/-- What becomes of an entry when it has taken an ending. -/
inductive Fate
  /-- It retires; `release` is the token given to the release list. -/
  | retire (status : Status) (release : Option Nat)
  /-- It is QUEUED as head again, with no holdoff (R88). -/
  | requeue
  /-- RETRY_WAIT, with the holdoff for the given number of attempts (R87, R110). -/
  | retryWait (attempts : Nat)
  /-- It joins the deferred list under a token (R84, R104). -/
  | deferUnder (token : Nat)
  /-- DEFERRED, its collect interval running again (R108). -/
  | waitCollect
  /-- DEFERRED and due at once (R88, R112). -/
  | dueCollect
deriving DecidableEq, Repr

/-- The length of a retry holdoff: base, 2, 4, then 8 times base (R87, R110). -/
def holdoffLength (base attempts : Nat) : Nat := base * 2 ^ (min attempts 4 - 1)

/-- An entry's counts, flags and last ending after an ending of its POLL (R83 to R88, R91). -/
def Entry.afterPoll (e : Entry) : Ending → Entry
  | .answer (.reply payload) _ =>
    { e with replyTrueLength := some payload.length, lastEnding := .none }
  | .answer (.defer _) _ => { e with wasDeferred := true, lastEnding := .defer }
  | .answer (.refuse .reject) _ => { e with lastEnding := .reject }
  | .answer (.refuse .busy) _ => { e with lastEnding := .busy }
  | .answer _ _ => e
  | .noAnswer => { e with unansweredAttempt := true, lastEnding := .noAnswer }
  | .badFrame => { e with unansweredAttempt := true, lastEnding := .badFrame }
  | .wrongAnswer => { e with unansweredAttempt := true, lastEnding := .wrongAnswer }
  | .echoFault fullFrame =>
    { e with
      attemptsUsed := e.attemptsUsed - 1
      unansweredAttempt := e.unansweredAttempt || fullFrame
      lastEnding := .echoFault }
  | .sent => { e with lastEnding := .none }
  | .cut => { e with unansweredAttempt := true, lastEnding := .cut }

/-- A failed attempt of a POLL (R87). -/
def Entry.failedAttempt (e : Entry) (status : Status) : Fate :=
  if e.attemptsUsed < e.attemptLimit then .retryWait e.attemptsUsed else .retire status none

/-- The fate of an entry after an ending of its POLL: an accepted REPLY or SENT retires it OK; an
accepted DEFER defers it; else a pending ABORT or a passed deadline decides before the ending's own
outcome (R83 to R88, R92, R94, R96, R97). -/
def Entry.pollFate (e : Entry) : Ending → Fate
  | .answer (.reply _) _ => .retire .ok none
  | .sent => .retire .ok none
  | .answer (.defer t) _ =>
    if e.abortPending then .retire .aborted (some t)
    else if e.deadlinePassed then .retire .deadline (some t)
    else .deferUnder t
  | ending =>
    if e.abortPending then .retire .aborted none
    else if e.deadlinePassed then .retire .deadline none
    else
      match ending with
      | .answer (.refuse .reject) _ => .retire .refused none
      | .answer (.refuse .busy) _ => e.failedAttempt .stationBusy
      | .noAnswer => e.failedAttempt .noResponse
      | .badFrame => e.failedAttempt .noResponse
      | .wrongAnswer => e.failedAttempt .noResponse
      | _ => .requeue

/-- An entry's counts and last ending after an ending of its COLLECT (the table before R107, R107 to R112,
R88). Each PENDING sets collect attempts used to 0, whatever becomes of the entry (R108, R110). -/
def Entry.afterCollect (e : Entry) : Ending → Entry
  | .answer (.reply payload) _ =>
    { e with replyTrueLength := some payload.length, lastEnding := .none }
  | .answer .pending _ =>
    { e with collectsUsed := e.collectsUsed + 1, collectAttemptsUsed := 0, lastEnding := .pending }
  | .answer (.refuse .unknownToken) _ => { e with lastEnding := .unknownToken }
  | .answer _ _ => e
  | .noAnswer => { e with lastEnding := .noAnswer }
  | .badFrame => { e with lastEnding := .badFrame }
  | .wrongAnswer => { e with lastEnding := .wrongAnswer }
  | .echoFault _ =>
    { e with collectAttemptsUsed := e.collectAttemptsUsed - 1, lastEnding := .echoFault }
  | .sent => e
  | .cut => { e with collectAttemptsUsed := e.collectAttemptsUsed - 1, lastEnding := .cut }

/-- A failed collect attempt (R110). -/
def Entry.failedCollect (e : Entry) : Fate :=
  if e.collectAttemptsUsed < e.attemptLimit then .retryWait e.collectAttemptsUsed
  else .retire .noResponse e.token

/-- The fate of an entry after an ending of its COLLECT (R107 to R112, R94, R96, R97). -/
def Entry.collectFate (e : Entry) (collectLimit : Nat) : Ending → Fate
  | .answer (.reply _) _ => .retire .ok e.token
  | .answer (.refuse .unknownToken) _ =>
    if e.abortPending then .retire .aborted none
    else if e.deadlinePassed then .retire .deadline none
    else .retire .tokenLost none
  | ending =>
    if e.abortPending then .retire .aborted e.token
    else if e.deadlinePassed then .retire .deadline e.token
    else
      match ending with
      | .answer .pending _ =>
        if e.collectsUsed = collectLimit then .retire .collectLimit e.token else .waitCollect
      | .noAnswer => e.failedCollect
      | .badFrame => e.failedCollect
      | .wrongAnswer => e.failedCollect
      | _ => .dueCollect

/-- The reply bytes go from the receive buffer into the entry's reservation, as far as the reply
limit (R121). -/
def State.copyReply (s : State) (i : EntryIx) (payload : List Byte) : State :=
  { s with
    store := { s.store with
      bytes := s.store.bytes.writeChain (s.entry i).replyReservation
        (payload.take (s.entry i).replyLimit) } }

/-- The record when entry `i` moves from the FIFO to the tail of the deferred list (R84, R104). -/
def StationRecord.deferWork (r : StationRecord) (i : EntryIx) : StationRecord :=
  { r with fifo := r.fifo.filter (· != i), deferred := r.deferred ++ [i] }

/-- The entry moves from the FIFO to the tail of the deferred list of its station. A broadcast is never
deferred, and the deferred list of address 31 never changes (R74, R92). -/
def State.moveToDeferred (s : State) (i : EntryIx) : State :=
  match (s.entry i).station with
  | some a =>
    if a = broadcastStation then s
    else s.modStation (s.entry i).line a fun r => r.deferWork i
  | none => s

/-- The entry is DEFERRED under token `t` (R84, R104). -/
def State.deferEntry (s : State) (i : EntryIx) (t : Nat) : State :=
  let e := s.entry i
  (s.moveToDeferred i).setEntry i
    { e with
      state := .deferred
      token := some t
      collectAttemptsUsed := 0
      collectsUsed := 0
      dueTime := none
      phaseTimer := Timer.start (ms (s.line e.line).params.collectInterval) }

/-- The entry takes its fate. -/
def State.takeFate (s : State) (i : EntryIx) : Fate → State
  | .retire status release => s.retireEntry i status release
  | .requeue => s.modEntry i fun e => { e with state := .queued }
  | .retryWait attempts =>
    s.modEntry i fun e =>
      { e with
        state := .retryWait
        phaseTimer :=
          Timer.start (holdoffLength (s.line e.line).params.retryHoldoffBase attempts) }
  | .deferUnder t => s.deferEntry i t
  | .waitCollect =>
    s.modEntry i fun e =>
      { e with
        state := .deferred
        dueTime := none
        phaseTimer := Timer.start (ms (s.line e.line).params.collectInterval) }
  | .dueCollect =>
    s.modEntry i fun e =>
      { e with state := .deferred, phaseTimer := .stopped, dueTime := some s.time.increment }

/-- The reply of an ending, if it brings one. -/
def Ending.replyPayload : Ending → Option (List Byte)
  | .answer (.reply payload) _ => some payload
  | _ => none

/-- The reply an ending brings is copied for its entry (R46, R121). -/
def State.keepReply (s : State) (i : EntryIx) (ending : Ending) : State :=
  match ending.replyPayload with
  | some payload => s.copyReply i payload
  | none => s

/-- An entry takes the ending of its POLL (R83 to R88). -/
def State.pollEnding (s : State) (i : EntryIx) (ending : Ending) : State :=
  let e := (s.entry i).afterPoll ending
  (s.setEntry i e).takeFate i (e.pollFate ending)

/-- An entry takes the ending of its COLLECT (R107 to R112). -/
def State.collectEnding (s : State) (i : EntryIx) (ending : Ending) : State :=
  let e := (s.entry i).afterCollect ending
  (s.setEntry i e).takeFate i (e.collectFate (s.line e.line).params.collectLimit ending)

/-- An entry in EXCHANGE takes the ending of the exchange it owns (R63, step 4). -/
def State.entryEnding (s : State) (i : EntryIx) (kind : MasterKind) (ending : Ending) : State :=
  if (s.entry i).state = .exchange then
    (if kind = .collect then (s.keepReply i ending).collectEnding i ending
    else (s.keepReply i ending).pollEnding i ending)
  else s

/-! ### The station record -/

/-- Step 1 of R63: an ANSWER removes the item the master frame carried (R72). -/
def StationRecord.takeRelease (r : StationRecord) (carried : Option ReleaseItem) (ending : Ending) :
    StationRecord :=
  match carried with
  | some item => if ending.isAnswer then r.dropRelease item else r
  | none => r

/-- Step 2 of R63: the failure count, and OFFLINE at the threshold (R64). Of the exchanges to an
OFFLINE station, which are re-probes, no failure is counted. -/
def StationRecord.takeFailures (r : StationRecord) (threshold : Nat) (ending : Ending) :
    StationRecord :=
  if ending.isAnswer then { r with failures := 0 }
  else if ending.isFailure && r.state != .offline && r.state != .absent then
    if threshold ≤ r.failures + 1 then { r with failures := threshold, state := .offline }
    else { r with failures := r.failures + 1 }
  else r

/-- Attention after an answer that may set it but not clear it (R69). -/
def StationRecord.seeAttention (r : StationRecord) (attention : Bool) : StationRecord :=
  { r with attention := r.attention || attention }

/-- The record when a SYNC was answered by STATUS, but for its state (R68, items 1 and 2). -/
def StationRecord.synced (r : StationRecord) (seq purge attention : Bool) (word : Half) :
    StationRecord :=
  let r1 := { r with seqBit := seq, statusWord := some word }
  if purge then { r1.clearRelease with attention := attention } else r1.seeAttention attention

/-- A SYNC answered by STATUS (R68). -/
def State.takeSync (s : State) (l : Line) (a : Station) (ex : Exchange) (attention : Bool)
    (word : Half) : State :=
  let old := (s.station l a).state
  let s1 := s.modStation l a fun r => r.synced ex.seq ex.flag attention word
  if old = .unknown ∨ old = .suspect ∨ old = .offline then
    (s1.modStation l a fun r => { r with state := .online }).indicateStation l a old .online .sync
      (some word)
  else s1

/-- An EVENT: posted unless its release is still owed, and then owed (R70). -/
def State.takeEvent (s : State) (l : Line) (a : Station) (number : Nat) (payload : List Byte)
    (attention : Bool) : State :=
  let item : ReleaseItem := { kind := .event, token := number }
  let s1 := s.modStation l a fun r => { r with attention := attention }
  if item ∈ (s.station l a).release then s1
  else
    (s1.indicate l (.event (addressOf a) number payload.length (payload.take 48))).appendRelease l a
      item

/-- An answer that changes the record's attention alone, if that (R69). -/
def State.takeAttention (s : State) (l : Line) (a : Station) (attention : Bool) : State :=
  s.modStation l a fun r => r.seeAttention attention

/-- The station has taken the request of a POLL: its sequence bit is inverted (R65). -/
def State.takeExecuted (s : State) (l : Line) (a : Station) (attention : Bool) : State :=
  s.modStation l a fun r => { r.seeAttention attention with seqBit := !r.seqBit }

/-- What the record takes from the answer to a POLL (R65, R69). -/
def State.takePoll (s : State) (l : Line) (a : Station) (attention : Bool) : Answer → State
  | .reply _ => s.takeExecuted l a attention
  | .defer _ => s.takeExecuted l a attention
  | _ => s.takeAttention l a attention

/-- What the record takes from the answer to a PROBE (R63, R69). -/
def State.takeProbe (s : State) (l : Line) (a : Station) (attention : Bool) : Answer → State
  | .status word => s.modStation l a fun r => { r.seeAttention attention with statusWord := some word }
  | _ => s.takeAttention l a attention

/-- What the record takes from the answer to an EVENT_FETCH (R69, R70). -/
def State.takeFetch (s : State) (l : Line) (a : Station) (attention : Bool) : Answer → State
  | .event number payload => s.takeEvent l a number payload attention
  | .noEvent => s.modStation l a fun r => { r with attention := false }
  | _ => s.takeAttention l a attention

/-- What the record takes from the answer to a SYNC (R68). -/
def State.takeSynced (s : State) (l : Line) (a : Station) (ex : Exchange) (attention : Bool) :
    Answer → State
  | .status word => s.takeSync l a ex attention word
  | _ => s.takeAttention l a attention

/-- Step 3 of R63: what the record takes from an acceptable answer (R65, R68 to R70). -/
def State.takeContent (s : State) (l : Line) (a : Station) (ex : Exchange) (answer : Answer)
    (attention : Bool) : State :=
  match ex.kind with
  | .poll => s.takePoll l a attention answer
  | .sync => s.takeSynced l a ex attention answer
  | .probe => s.takeProbe l a attention answer
  | .eventFetch => s.takeFetch l a attention answer
  | .collect => s.takeAttention l a attention
  | .beacon => s.takeAttention l a attention

/-- The entries the OFFLINE cascade retires, in its order: the owner of the ending exchange, then the
FIFO, then the deferred list (R66, R101). -/
def StationRecord.cascadeOrder (r : StationRecord) (owner : Owner) : List EntryIx :=
  match owner with
  | .entry i =>
    (if i ∈ r.fifo ∨ i ∈ r.deferred then [i] else [])
      ++ r.fifo.filter (· != i) ++ r.deferred.filter (· != i)
  | _ => r.fifo ++ r.deferred

/-- The OFFLINE cascade (R66). -/
def State.offlineCascade (s : State) (l : Line) (a : Station) (owner : Owner) (old : StationState) :
    State :=
  let s1 := s.retireAll .stationOffline false ((s.station l a).cascadeOrder owner)
  let s2 := s1.modStation l a fun r => { r.clearRelease with attention := false }
  s2.indicateStation l a old .offline .failures (s2.station l a).statusWord

/-- Step 3 of R63, for an ANSWER. -/
def State.takeAnswer (s : State) (l : Line) (ex : Exchange) (ending : Ending) : State :=
  match ending with
  | .answer answer attention => s.takeContent l ex.station ex answer attention
  | _ => s

/-- Step 4 of R63, for an exchange owned by an entry. -/
def State.ownerTakes (s : State) (ex : Exchange) (ending : Ending) : State :=
  match ex.owner with
  | .entry i => s.entryEnding i ex.kind ending
  | _ => s

/-- The station record takes the ending of an exchange to a station 1 to 30, in the five steps of
R63. -/
def State.stationEnding (s : State) (l : Line) (ex : Exchange) (ending : Ending) : State :=
  let a := ex.station
  let s1 := s.modStation l a fun r => r.takeRelease ex.carried ending
  let old := (s1.station l a).state
  let s2 := s1.modStation l a fun r =>
    r.takeFailures (s.line l).params.failureThreshold ending
  let s4 := (s2.takeAnswer l ex ending).ownerTakes ex ending
  if (s2.station l a).state = .offline ∧ old ≠ .offline then s4.offlineCascade l a ex.owner old
  else s4

end Sys2Proof.Machine
end

