-- ==== Sys2Proof/Machine/Arbiter.lean ====
section
/-! DEFINITION. The line arbiter: candidates, choice and grant (R42, R51 to R57). -/

namespace Sys2Proof.Machine

/-- An exchange is in flight from its grant to its ending (R36). -/
def LineEngine.inFlight (ln : LineEngine) : Bool :=
  ln.phase == .transmit || ln.phase == .listen || ln.phase == .receive

/-- An entry that is work of a line: in any state other than FREE and RETIRING (R35, R40). -/
def Entry.isWorkOf (e : Entry) (l : Line) : Bool :=
  e.state != .free && e.state != .retiring && e.line == l

/-- How many Transaction Table entries the line holds (R35, R40). -/
def State.workCount (s : State) (l : Line) : Nat :=
  ((List.finRange 64).filter fun i => (s.entry i).isWorkOf l).length

/-- The stations 1 to 30. -/
def realStations : List Station := (List.finRange 31).filter (· != broadcastStation)

/-! ### Candidates (R52) -/

/-- A candidate of the arbiter. -/
inductive Candidate
  | beacon
  | collect (i : EntryIx)
  | head (a : Station) (i : EntryIx)
  | eventFetch (a : Station)
  | reprobe
  | flush (a : Station)
deriving DecidableEq, Repr

/-- Category 2: the due collect that became due first, the lowest admission number among those due at
one increment. -/
def State.dueCollect (s : State) (l : Line) : Option Candidate :=
  (leastBy (fun i => (s.entry i).dueTime.getD 0 * 2 ^ 32 + (s.entry i).admission.toNat)
    ((List.finRange 64).filter fun i =>
      (s.entry i).state == .deferred && (s.entry i).line == l
        && (s.entry i).dueTime.isSome)).map .collect

/-- The QUEUED head of a station's FIFO when it came from ring `r`. -/
def State.queuedHead (s : State) (l : Line) (r : Ring) (a : Station) : Option (Station × EntryIx) :=
  match (s.station l a).fifo with
  | i :: _ => if (s.entry i).state = .queued ∧ (s.entry i).ring = r then some (a, i) else none
  | [] => none

/-- Categories 3 and 5: the head of ring `r` with the lowest admission number. -/
def State.ringHead (s : State) (l : Line) (r : Ring) : Option Candidate :=
  (leastBy (fun x => (s.entry x.2).admission.toNat)
    ((List.finRange 31).filterMap (s.queuedHead l r))).map fun x => .head x.1 x.2

/-- The first station after address `rotation` that satisfies `p`, counting upward and round (R52,
R56). -/
def nextAfter (rotation : Nat) (p : Station → Bool) : Option Station :=
  match realStations.find? fun a => decide (rotation < addressOf a) && p a with
  | some a => some a
  | none => realStations.find? p

/-- Category 4: the next station with attention set. -/
def State.fetchCandidate (s : State) (l : Line) : Option Candidate :=
  (nextAfter (s.line l).eventRotation fun a => (s.station l a).attention).map .eventFetch

/-- Category 7: the release flush that became due first, the lowest address among equals. -/
def State.flushCandidate (s : State) (l : Line) : Option Candidate :=
  (leastBy (fun a => (s.station l a).flushDue.getD 0 * 32 + a.val)
    (realStations.filter fun a => (s.station l a).flushDue.isSome)).map .flush

/-- The first candidate that exists. -/
def firstOf : List (Option Candidate) → Option Candidate
  | [] => none
  | some c :: _ => some c
  | none :: rest => firstOf rest

/-- The candidate granted: a ring L head when the fairness credit stands at 8, else the first of the
seven categories (R52, R54). -/
def State.choose (s : State) (l : Line) : Option Candidate :=
  let low := s.ringHead l .l
  if 8 ≤ (s.line l).credit ∧ low.isSome then low
  else
    firstOf
      [ if (s.line l).beaconDue then some .beacon else none,
        s.dueCollect l,
        s.ringHead l .h,
        s.fetchCandidate l,
        low,
        if (s.line l).reprobeDue then some .reprobe else none,
        s.flushCandidate l ]

/-! ### The grant (R42) -/

/-- The fairness credit after a grant (R54): 0 after a ring L head, up by 1 to at most 8 after
categories 1 to 4 when a ring L head waited. -/
def State.creditAfter (s : State) (l : Line) (c : Candidate) : Nat :=
  let credit := (s.line l).credit
  let more := if (s.ringHead l .l).isSome ∧ credit < 8 then credit + 1 else credit
  match c with
  | .head _ i => if (s.entry i).ring = .l then 0 else more
  | .beacon => more
  | .collect _ => more
  | .eventFetch _ => more
  | .reprobe => credit
  | .flush _ => credit

/-- TRANSMIT begins with the exchange: the receiver enters ECHO and drops what it was taking in (R14,
R42). -/
def LineEngine.transmit (ln : LineEngine) (ex : Exchange) : LineEngine :=
  { ln with
    phase := .transmit
    current := some ex
    receiver := .echo
    rxLate := false
    jabberTimer := .stopped }

/-- A grant of a master frame to a station restarts its linger timer and clears its flush due flag
while it is owed a release (R73). -/
def StationRecord.granted (r : StationRecord) (linger : Nat) : StationRecord :=
  if r.release.isEmpty then r
  else { r with linger := Timer.start (ms linger), flushDue := none }

/-- A frame to a station 1 to 30, carrying its oldest release item (R55). -/
def State.sendToStation (s : State) (l : Line) (a : Station) (kind : MasterKind) (owner : Owner)
    (seq flag : Bool) (token : Nat) (payload : List Byte) : State :=
  let carried := (s.station l a).release.head?
  let ex : Exchange :=
    { kind := kind, owner := owner, station := a, seq := seq, flag := flag, token := token,
      carried := carried,
      chars := masterChars kind (addressOf a) seq flag token carried payload,
      echoed := 0, beaconTime := 0, beaconNumber := 0 }
  (s.modLine l fun ln => ln.transmit ex).modStation l a fun r =>
    r.granted (s.line l).params.releaseLinger

/-- A frame to address 31: no SEQ, no flag, no release item (R9, R10, R92). -/
def State.sendBroadcast (s : State) (l : Line) (kind : MasterKind) (owner : Owner)
    (payload : List Byte) : State :=
  let ex : Exchange :=
    { kind := kind, owner := owner, station := broadcastStation, seq := false, flag := false,
      token := 0, carried := none,
      chars := masterChars kind 31 false false 0 none payload,
      echoed := 0, beaconTime := s.time.now, beaconNumber := (s.line l).beaconNumber }
  s.modLine l fun ln => ln.transmit ex

/-- The request payload of an entry, from its request chain (R120). -/
def State.requestPayload (s : State) (i : EntryIx) : List Byte :=
  s.store.bytes.readChain (s.entry i).requestChain (s.entry i).requestLength

/-- A POLL is granted to a FIFO head (R82, R92). -/
def State.grantPoll (s : State) (l : Line) (a : Station) (i : EntryIx) : State :=
  let payload := s.requestPayload i
  let t := s.modEntry i fun e =>
    { e with state := .exchange, attemptsUsed := e.attemptsUsed + 1, everSent := true }
  if a = broadcastStation then t.sendBroadcast l .poll (.entry i) payload
  else
    t.sendToStation l a .poll (.entry i) (s.station l a).seqBit (s.entry i).deferOk 0 payload

/-- A SYNC on a station's behalf, SEQ the inverse of its sequence bit (R53, R56). -/
def State.grantSync (s : State) (l : Line) (a : Station) (purge : Bool) : State :=
  s.sendToStation l a .sync .station (!(s.station l a).seqBit) purge 0 []

/-- A COLLECT is granted to a due entry (R106). -/
def State.grantCollect (s : State) (l : Line) (i : EntryIx) : State :=
  match (s.entry i).station with
  | some a =>
    let t := s.modEntry i fun e =>
      { e with
        state := .exchange, collectAttemptsUsed := e.collectAttemptsUsed + 1, dueTime := none }
    t.sendToStation l a .collect (.entry i) false false ((s.entry i).token.getD 0) []
  | none => s

/-- The next OFFLINE station of the line after its probe rotation (R56). -/
def State.nextOffline (s : State) (l : Line) : Option Station :=
  nextAfter (s.line l).probeRotation fun a => (s.station l a).state == .offline

/-- A FIFO head is granted: a SYNC first when its station is UNKNOWN or SUSPECT (R53). -/
def State.grantHead (s : State) (l : Line) (a : Station) (i : EntryIx) : State :=
  if a ≠ broadcastStation ∧ (s.station l a).state = .unknown then s.grantSync l a true
  else if a ≠ broadcastStation ∧ (s.station l a).state = .suspect then s.grantSync l a false
  else s.grantPoll l a i

/-- A BEACON is granted: device time and the line's beacon number, low byte first (R10, R57). -/
def State.grantBeacon (s : State) (l : Line) : State :=
  (s.modLine l fun ln => { ln with beaconDue := false }).sendBroadcast l .beacon .beacon
    (le32 s.time.now ++ le16 (s.line l).beaconNumber)

/-- A re-probe is granted: a SYNC with PURGE to the next OFFLINE station; with none, only the flag is
cleared (R56). -/
def State.grantReprobe (s : State) (l : Line) : State :=
  let t := s.modLine l fun ln => { ln with reprobeDue := false }
  match s.nextOffline l with
  | some a =>
    (t.modLine l fun ln => { ln with probeRotation := addressOf a }).grantSync l a true
  | none => t

/-- The grant of a candidate (R42). -/
def State.grant (s : State) (l : Line) (c : Candidate) : State :=
  let t := s.modLine l fun ln => { ln with credit := s.creditAfter l c }
  match c with
  | .beacon => t.grantBeacon l
  | .collect i => t.grantCollect l i
  | .head a i => t.grantHead l a i
  | .eventFetch a =>
    (t.modLine l fun ln => { ln with eventRotation := addressOf a }).sendToStation l a .eventFetch
      .station false false 0 []
  | .reprobe => t.grantReprobe l
  | .flush a => t.sendToStation l a .probe .station false false 0 []

/-- A grant may be made at an evaluation (R51), but for the line state. -/
def LineEngine.mayGrant (ln : LineEngine) : Bool := ln.phase == .idle && ln.receiver == .hunt

/-- One evaluation (R51). -/
def State.evaluateOnce (s : State) (l : Line) : State :=
  if (s.line l).mayGrant then
    match s.choose l with
    | some c => s.grant l c
    | none => s
  else s

/-- The arbiter is evaluated; where a re-probe found no OFFLINE station it is evaluated again at once
(R56). -/
def State.evaluate (s : State) (l : Line) : State := (s.evaluateOnce l).evaluateOnce l

end Sys2Proof.Machine
end

