-- ==== Sys2Proof/Machine/LineOps.lean ====
section
/-! DEFINITION. The line engine's shared operations: the ending of an exchange (R46 to R48), coming to
rest (R36), a fault (R37), and what a line does when an event has changed its work (R35, R51). -/

namespace Sys2Proof.Machine

/-! ### Coming to rest -/

/-- The TRANSACT entries a line cascade reaches: QUEUED, EXCHANGE, RETRY_WAIT or DEFERRED (R36, R37,
R100). -/
def Entry.isSwept (e : Entry) (l : Line) : Bool :=
  e.kind == .transact && e.line == l
    && (e.state == .queued || e.state == .exchange || e.state == .retryWait || e.state == .deferred)

/-- The entries of a line cascade in order of admission number (R100). -/
def State.sweptEntries (s : State) (l : Line) : List EntryIx :=
  sortByKey (fun i => (s.entry i).admission.toNat)
    ((List.finRange 64).filter fun i => (s.entry i).isSwept l)

/-- A line cascade: every such entry retires, its token appended to the release list (R100). -/
def State.lineCascade (s : State) (l : Line) (status : Status) : State :=
  s.retireAll status true (s.sweptEntries l)

/-- A pending STOP or DRAIN completes: its completion enters the retire queue and still holds the
control place (R38). -/
def State.completeControl (s : State) (l : Line) (status : Status) : State :=
  match (s.line l).control with
  | .pending op tag ring =>
    (s.modLine l fun ln => { ln with control := .completed op tag ring status }).enqueue
      (.lineControl l)
  | _ => s

/-- A line at rest: transmitter off, receiver OFF, phase IDLE, every timer stopped, the due flags
clear (R36, R37). -/
def LineEngine.atRest (ln : LineEngine) (state : LineState) (cause : FaultCause) : LineEngine :=
  { ln with
    state := state
    faultCause := cause
    phase := .idle
    current := none
    receiver := .off
    rxLate := false
    guardLate := false
    beaconDue := false
    reprobeDue := false
    windowTimer := .stopped
    guardTimer := .stopped
    beaconTimer := .stopped
    probeTimer := .stopped
    jabberTimer := .stopped }

/-- The line comes to rest; every release linger timer of it stops and the flush due flags are
cleared (R36, R37, R73). -/
def State.restLine (s : State) (l : Line) (state : LineState) (cause : FaultCause) : State :=
  (s.modLine l fun ln => ln.atRest state cause).mapStations l fun r =>
    { r with linger := .stopped, flushDue := none }

/-- A line with no exchange in flight enters STOPPED: its entries retire LINE_STOPPED, its STOP or
DRAIN completes OK (R36). -/
def State.stopLine (s : State) (l : Line) : State :=
  ((((s.lineCascade l .lineStopped).completeControl l .ok).restLine l .stopped .none)).indicateLine l

/-! ### The ending of an exchange -/

/-- A BEACON's ending: SENT counts it, and gives a MARK when the mark count reaches the mark value
(R58). -/
def State.beaconEnding (s : State) (l : Line) (ex : Exchange) (ending : Ending) : State :=
  if ending = .sent then
    let s1 := s.modLine l fun ln => { ln with beaconNumber := ln.beaconNumber + 1 }
    if (s.line l).params.markValue ≤ (s.line l).markCount + 1 then
      (s1.modLine l fun ln => { ln with markCount := 0 }).indicate l
        (.mark ex.beaconNumber ex.beaconTime)
    else s1.modLine l fun ln => { ln with markCount := ln.markCount + 1 }
  else s

/-- An ending is delivered once to the exchange's owner (R46); the ending of an exchange to address 31
reaches no station record (R63, R74). -/
def State.deliver (s : State) (l : Line) (ex : Exchange) (ending : Ending) : State :=
  match ex.owner with
  | .beacon => s.beaconEnding l ex ending
  | .entry i =>
    if ex.station = broadcastStation then s.entryEnding i ex.kind ending
    else s.stationEnding l ex ending
  | .station => if ex.station = broadcastStation then s else s.stationEnding l ex ending

/-- An exchange in flight ends CUT (R37, R46). -/
def State.cutExchange (s : State) (l : Line) : State :=
  match (s.line l).current with
  | some ex => if (s.line l).inFlight then s.deliver l ex .cut else s
  | none => s

/-- The line faults (R37). -/
def State.faultLine (s : State) (l : Line) (cause : FaultCause) : State :=
  let s1 := s.cutExchange l
  let s2 := s1.restLine l .faulted cause
  let s3 := s2.lineCascade l .lineFault
  (s3.completeControl l .lineFault).indicateLine l

/-- GUARD begins, with the late guard added after a NO_ANSWER ending; an ending other than ECHO_FAULT
sets the echo fault count to 0 (R46 to R48). -/
def LineEngine.enterGuard (ln : LineEngine) (ending : Ending) : LineEngine :=
  let late := ending == .noAnswer
  { ln with
    phase := .guard
    windowTimer := .stopped
    guardLate := late
    guardTimer :=
      Timer.start (ln.params.turnaroundGap + if late then ln.params.lateGuard else 0)
    echoFaults :=
      match ending with
      | .echoFault _ => ln.echoFaults + 1
      | _ => 0 }

/-- One count in the line error counter, which stays at 65535 (R50). -/
def State.countError (s : State) (l : Line) : State :=
  s.modLine l fun ln => { ln with errors := saturate16 ln.errors }

/-! ### What follows a change of the line's work -/

/-- A STOPPING line with no exchange in flight enters STOPPED; so does a DRAINING line that holds no
entry; a line that may grant has its arbiter evaluated (R35, R36, R51). -/
def State.settleLine (s : State) (l : Line) : State :=
  match (s.line l).state with
  | .running => s.evaluate l
  | .draining =>
    if (s.line l).inFlight then s
    else if s.workCount l = 0 then s.stopLine l
    else s.evaluate l
  | .stopping => if (s.line l).inFlight then s else s.stopLine l
  | .stopped => s
  | .faulted => s

/-- The exchange in flight ends (R46): delivered to its owner, then GUARD, or the ECHO fault at the
eighth echo fault in a row (R48), and then what the line does next. -/
def State.endExchange (s : State) (l : Line) (ending : Ending) : State :=
  match (s.line l).current with
  | some ex =>
    let s1 := s.deliver l ex ending
    let s2 := s1.modLine l fun ln => ln.enterGuard ending
    if 8 ≤ (s2.line l).echoFaults then s2.faultLine l .echo else s2.settleLine l
  | none => s

end Sys2Proof.Machine
end

