-- ==== Sys2Proof/Machine/Port.lean ====
section
/-! DEFINITION. The Host Bus Port (R163, R165): apertures, the writes it places, and the halt
(R166, R167). -/

namespace Sys2Proof.Machine

/-! ### Apertures (R163) -/

/-- An aperture with both permissions clear is unused. -/
def Aperture.inUse (a : Aperture) : Bool := a.read || a.write

/-- The first host address an aperture covers: its base with the low 12 bits taken as 0. -/
def Aperture.first (a : Aperture) : Nat := a.base.toNat / 4096 * 4096

/-- The last host address an aperture covers: its limit with the low 12 bits taken as 0xFFF. -/
def Aperture.last (a : Aperture) : Nat := a.limit.toNat / 4096 * 4096 + 4095

/-- The range of `length` bytes from `addr` lies within the aperture: every byte of it is covered. A
range that wraps past the top of the address space does not (R132). -/
def Aperture.covers (a : Aperture) (addr : HostAddr) (length : Nat) : Bool :=
  a.inUse && decide (a.first ≤ addr.toNat) && decide (addr.toNat + length ≤ a.last + 1)

/-- The four apertures. -/
def ConfigCopy.apertures (c : ConfigCopy) : List Aperture :=
  [c.aperture0, c.aperture1, c.aperture2, c.aperture3]

/-- A range lies within one aperture that grants reading. -/
def ConfigCopy.mayRead (c : ConfigCopy) (addr : HostAddr) (length : Nat) : Bool :=
  c.apertures.any fun a => a.read && a.covers addr length

/-- A range lies within one aperture that grants writing. -/
def ConfigCopy.mayWrite (c : ConfigCopy) (addr : HostAddr) (length : Nat) : Bool :=
  c.apertures.any fun a => a.write && a.covers addr length

/-- How an access ends when the port has checked its range: an aperture refusal is taken as a bus
error of the same access, with nothing issued (R165). -/
def State.checkedRead (s : State) (addr : HostAddr) (length : Nat) (result : BusRead) : BusRead :=
  if s.cfg.mayRead addr length then result else .error []

/-- As `checkedRead`, for a write. -/
def State.checkedWrite (s : State) (w : WriteAccess) (result : BusWriteEnd) : BusWriteEnd :=
  if s.cfg.mayWrite w.addr w.bytes.length then result else .error 0

/-! ### What the part places in host memory (log 6) -/

/-- The state after bytes have been placed in host memory. -/
def State.placed (s : State) (addr : HostAddr) (bytes : List Byte) : State :=
  if bytes.isEmpty then s else { s with busWrites := { addr := addr, bytes := bytes } :: s.busWrites }

/-- The leading bytes of a record write that did not end well: never the last, which carries the
phase bit and is placed last (R171, log 8). -/
def State.placedRecordPart (s : State) (w : WriteAccess) (amount : Nat) : State :=
  s.placed w.addr (w.bytes.take (min amount (w.bytes.length - 1)))

/-- What a shadow write that did not end well leaves: nothing, or one of its two bytes (R171,
log 8). -/
def State.placedShadowPart (s : State) (w : WriteAccess) (amount : Nat) : State :=
  if amount % 3 = 1 then s.placed w.addr (w.bytes.take 1)
  else if amount % 3 = 2 then s.placed (w.addr + 1) (w.bytes.drop 1)
  else s

/-- The accesses of the part that write host memory (R165). -/
inductive WriteId
  | shadow (r : Ring)
  | reply
  | completion
  | indication
deriving DecidableEq, Repr

/-- What a halt or a reset leaves of the shadow write of ring `r`: a free value decides (log 7). -/
def State.stopShadow (s : State) (skip : Option WriteId) (n : Nat) (r : Ring) : State :=
  match s.shadowAccess r with
  | some w => if skip = some (.shadow r) then s else s.placedShadowPart w (Config.placedBytes n)
  | none => s

/-- What a halt or a reset leaves of the posting in flight (R147): any leading part of a reply copy,
or of a completion record all but its phase byte; a free value decides (log 7). -/
def State.stopPosting (s : State) (skip : Option WriteId) (n : Nat) : State :=
  match s.retire.posting with
  | .idle => s
  | .copying =>
    match s.replyAccess with
    | some w =>
      if skip = some .reply then s
      else s.placed w.addr (w.bytes.take (Config.placedBytes n % (w.bytes.length + 1)))
    | none => s
  | .writing copyFailed =>
    match s.completionAccess copyFailed with
    | some w =>
      if skip = some .completion then s
      else s.placedRecordPart w (Config.placedBytes n % w.bytes.length)
    | none => s

/-- What a halt or a reset leaves of the indication write in flight (R153, log 7). -/
def State.stopIndication (s : State) (skip : Option WriteId) (n : Nat) : State :=
  if s.ind.writing then
    match s.indicationAccess with
    | some w =>
      if skip = some .indication then s
      else s.placedRecordPart w (Config.placedBytes n % w.bytes.length)
    | none => s
  else s

/-- Every write in flight stops where it stands (R165, R168); `skip` is the access whose own error
stops the part, and whose placed bytes are therefore known. -/
def State.stopWrites (s : State) (skip : Option WriteId) : State :=
  let n := s.freeSeq
  let s1 := s.stopShadow skip n .h
  let s2 := s1.stopShadow skip (n + 1) .l
  let s3 := s2.stopPosting skip (n + 2)
  let s4 := s3.stopIndication skip (n + 3)
  { s4 with freeSeq := n + 4 }

/-! ### Reads of the Admission Unit (R119, R127) -/

/-- Where the fetch of ring `r` reads: the slot of index head (R127). -/
def State.fetchAddress (s : State) (r : Ring) : HostAddr :=
  (s.cfg.subRing r).slot (s.ringUnit r).head 64

/-- The fetch of ring `r` may read its slot (R165). -/
def State.fetchAllowed (s : State) (r : Ring) : Bool := s.cfg.mayRead (s.fetchAddress r) 64

/-- The request range of an entry may be read: it lies within one aperture that grants reading (R132,
R165). -/
def State.loadAllowed (s : State) (i : EntryIx) : Bool :=
  s.cfg.mayRead (s.entry i).requestAddress (s.entry i).requestLength

/-- Request bytes go into the entry's request chain (R119). -/
def State.storeRequest (s : State) (i : EntryIx) (bytes : List Byte) : State :=
  { s with
    store := { s.store with bytes := s.store.bytes.writeChain (s.entry i).requestChain bytes } }

/-- What a halt leaves of the read of ring `r`: a fetch leaves in the hold, and a load in its entry's
request chain, the bytes read so far; a free value says which (R124, R138, R144, log 5). A read that the
port refuses was never issued and has read nothing (R165). -/
def State.stopRead (s : State) (n : Nat) (r : Ring) : State :=
  match (s.ringUnit r).hold.state with
  | .fetching =>
    if s.fetchAllowed r then
      s.modHold r fun h => { h with bytes := (Config.receivedBytes n).take 64 }
    else s
  | .loading i false =>
    if s.loadAllowed i then
      s.storeRequest i ((Config.receivedBytes n).take (s.entry i).requestLength)
    else s
  | _ => s

/-- Every read in flight stops where it stands (R144, R165); `failed` is the ring whose own fetch error
stops the part, and whose received bytes are therefore known. -/
def State.stopReads (s : State) (failed : Option Ring) : State :=
  let n := s.freeSeq
  let s1 := if failed = some .h then s else s.stopRead n .h
  let s2 := if failed = some .l then s1 else s1.stopRead (n + 1) .l
  { s2 with freeSeq := n + 2 }

/-- What raises a halt cause (R166): the host by a register write, the end of a fetch, or the end of a
write. -/
inductive HaltSource
  | host
  | fetch (r : Ring)
  | write (w : WriteId)
deriving DecidableEq, Repr

/-- The ring whose fetch raised the halt. -/
def HaltSource.failedFetch : HaltSource → Option Ring
  | .fetch r => some r
  | _ => none

/-- The write that raised the halt. -/
def HaltSource.failedWrite : HaltSource → Option WriteId
  | .write w => some w
  | _ => none

/-- A halt cause taken in RUNNING (R166, R167): HALTED, the cause recorded, the HALT cause set, every
access stopped; everything else keeps its value. In any other state it changes nothing. -/
def State.halt (s : State) (cause : HaltCause) (source : HaltSource) : State :=
  if s.device.state = .running then
    let t := (s.stopWrites source.failedWrite).stopReads source.failedFetch
    { t with
      device := { t.device with state := .halted, haltCause := cause }
      notify := { t.notify with halt := true } }
  else s

/-! ### The order of the Admission Unit's accesses (R165, log 33) -/

/-- An access asked before another of the same block ends before it (R165), but that of two loads either
may end first (R138), and that no read waits for a shadow write (R128). -/
def AdmissionAccess.holdsUp : AdmissionAccess → AdmissionAccess → Bool
  | .load _, .load _ => false
  | .shadow _, .fetch _ => false
  | .shadow _, .load _ => false
  | _, _ => true

/-- Access `a` may end now: nothing asked before it holds it up (R165). -/
def State.inTurn (s : State) (a : AdmissionAccess) : Bool :=
  (s.admission.asked.takeWhile (· != a)).all fun b => !b.holdsUp a

end Sys2Proof.Machine
end

