-- ==== Sys2Proof/Machine/Operands.lean ====
section
/-! DEFINITION. The fields of the structures the part reads from host memory: the submission record
with checks 1 to 6 (R131, R170), the parameter block (R39), the configuration block (R162, R163). -/

namespace Sys2Proof.Machine

/-! ### The submission record -/

/-- The record kind value a record carries. -/
def recKindByte (b : List Byte) : Byte := byteAt b 0

/-- The record kind as a number: 1 TRANSACT, 2 ABORT, 3 FENCE, 4 LINE_CONTROL, 5 STATION_CONTROL,
6 TIME_READ. -/
def recKind (b : List Byte) : Nat := (byteAt b 0).toNat

/-- The line byte. -/
def recLineNumber (b : List Byte) : Nat := (byteAt b 1).toNat

/-- The line, once check 2 has passed. -/
def recLine (b : List Byte) : Line := Fin.ofNat 4 (recLineNumber b)

/-- The tag. -/
def recTag (b : List Byte) : Half := halfAt b 2

/-- The station byte. -/
def recStationNumber (b : List Byte) : Nat := (byteAt b 4).toNat

/-- The station, once check 3 has passed. -/
def recStation (b : List Byte) : Station := Fin.ofNat 31 (recStationNumber b - 1)

/-- The op byte of a LINE_CONTROL or STATION_CONTROL. -/
def recOp (b : List Byte) : Nat := (byteAt b 5).toNat

/-- DEFER_OK. -/
def recDeferOk (b : List Byte) : Bool := (byteAt b 6).getLsbD 0

/-- The attempts field. -/
def recAttempts (b : List Byte) : Nat := (byteAt b 7).toNat

/-- The deadline in milliseconds. -/
def recDeadline (b : List Byte) : Nat := (halfAt b 8).toNat

/-- The request length. -/
def recRequestLength (b : List Byte) : Nat := (halfAt b 10).toNat

/-- The reply buffer length. -/
def recReplyLength (b : List Byte) : Nat := (halfAt b 12).toNat

/-- The target ring byte of an ABORT. -/
def recTargetRingNumber (b : List Byte) : Nat := (byteAt b 14).toNat

/-- The target ring of an ABORT, once check 4 has passed. -/
def recTargetRing (b : List Byte) : Ring := if recTargetRingNumber b = 0 then .h else .l

/-- The target tag of an ABORT. -/
def recTargetTag (b : List Byte) : Half := halfAt b 16

/-- The request address. -/
def recRequestAddress (b : List Byte) : HostAddr := addrAt b 24

/-- The reply buffer address. -/
def recReplyAddress (b : List Byte) : HostAddr := addrAt b 32

/-- The bits of a record's byte that its kind uses; all others are zero fields (R170). -/
def usedBits (kind op offset : Nat) : Byte :=
  if offset = 0 ∨ offset = 2 ∨ offset = 3 then 0xFF
  else
    match kind with
    | 1 =>
      if offset = 6 then 0x01
      else if offset = 1 ∨ offset = 4 ∨ (7 ≤ offset ∧ offset ≤ 13) ∨ (24 ≤ offset ∧ offset ≤ 39)
      then 0xFF else 0
    | 2 => if offset = 14 ∨ offset = 16 ∨ offset = 17 then 0xFF else 0
    | 3 => if offset = 1 then 0xFF else 0
    | 4 =>
      if offset = 1 ∨ offset = 5 ∨ (op = 4 ∧ 40 ≤ offset ∧ offset ≤ 61) then 0xFF else 0
    | 5 => if offset = 1 ∨ offset = 4 ∨ offset = 5 then 0xFF else 0
    | _ => 0

/-- Check 6: every zero field holds zero (R131, R170). -/
def zeroFieldsOk (b : List Byte) : Bool :=
  (List.range 64).all fun i => (byteAt b i &&& ~~~(usedBits (recKind b) (recOp b) i)) == 0

/-- Check 2. -/
def lineOk (b : List Byte) : Bool := decide (recLineNumber b ≤ 3)

/-- Check 3. -/
def stationOk (b : List Byte) : Bool :=
  decide (1 ≤ recStationNumber b) && decide (recStationNumber b ≤ 31)

/-- Checks 1 to 6 of R131, those that concern the record alone. -/
def shapeOk (b : List Byte) : Bool :=
  match recKind b with
  | 1 =>
    lineOk b && stationOk b && decide (recRequestLength b ≤ 248) && decide (recAttempts b ≤ 8)
      && zeroFieldsOk b
  | 2 => decide (recTargetRingNumber b ≤ 1) && zeroFieldsOk b
  | 3 => lineOk b && zeroFieldsOk b
  | 4 => lineOk b && decide (1 ≤ recOp b) && decide (recOp b ≤ 6) && zeroFieldsOk b
  | 5 =>
    lineOk b && stationOk b && decide (1 ≤ recOp b) && decide (recOp b ≤ 3) && zeroFieldsOk b
  | 6 => zeroFieldsOk b
  | _ => false

/-- The record is a LINE_CONTROL that the row for `op` applies: its op is `op`, or is none of the six
(such a record fails check 4 whichever row applies it, log 15). -/
def isLineControl (op : Nat) (b : List Byte) : Bool :=
  recKind b == 4 && (recOp b == op || recOp b == 0 || decide (6 < recOp b))

/-- The record is a STATION_CONTROL that the row for `op` applies (log 15). -/
def isStationControl (op : Nat) (b : List Byte) : Bool :=
  recKind b == 5 && (recOp b == op || recOp b == 0 || decide (3 < recOp b))

/-! ### The parameter block of a SET -/

/-- The thirteen parameters of the block. -/
def recParams (b : List Byte) : LineParams where
  rateCode := (byteAt b 40).toNat
  defaultAttempts := (byteAt b 41).toNat
  responseWindow := (halfAt b 42).toNat
  turnaroundGap := (halfAt b 44).toNat
  lateGuard := (halfAt b 46).toNat
  retryHoldoffBase := (halfAt b 48).toNat
  failureThreshold := (byteAt b 50).toNat
  collectLimit := (byteAt b 51).toNat
  collectInterval := (halfAt b 52).toNat
  probeInterval := (halfAt b 54).toNat
  beaconPeriod := (halfAt b 56).toNat
  markValue := (halfAt b 58).toNat
  releaseLinger := (halfAt b 60).toNat

/-- `lo ≤ n ≤ hi`. -/
def inRange (lo hi n : Nat) : Bool := decide (lo ≤ n) && decide (n ≤ hi)

/-- Every parameter lies in its range (R39). -/
def LineParams.inRange (p : LineParams) : Bool :=
  Machine.inRange 0 7 p.rateCode && Machine.inRange 100 65535 p.responseWindow
    && Machine.inRange 20 5000 p.turnaroundGap && Machine.inRange 0 65535 p.lateGuard
    && Machine.inRange 100 65535 p.retryHoldoffBase && Machine.inRange 1 8 p.defaultAttempts
    && Machine.inRange 1 15 p.failureThreshold && Machine.inRange 1 65535 p.collectInterval
    && Machine.inRange 1 255 p.collectLimit && Machine.inRange 10 65535 p.probeInterval
    && Machine.inRange 0 65535 p.beaconPeriod && Machine.inRange 1 65535 p.markValue
    && Machine.inRange 1 1000 p.releaseLinger

/-! ### The configuration block -/

/-- Aperture `n` of the block. -/
def blockAperture (b : List Byte) (n : Nat) : Aperture where
  base := addrAt b (48 + 16 * n)
  limit := addrAt b (56 + 16 * n)
  read := (byteAt b (112 + n)).getLsbD 0
  write := (byteAt b (112 + n)).getLsbD 1

/-- The configuration the block gives. A threshold of 0 is taken as 1 (R156). -/
def blockConfig (b : List Byte) : ConfigCopy where
  ringH := { base := addrAt b 0, size := (halfAt b 32).toNat }
  ringL := { base := addrAt b 8, size := (halfAt b 34).toNat }
  completionRing := { base := addrAt b 16, size := (halfAt b 36).toNat }
  indicationRing := { base := addrAt b 24, size := (halfAt b 38).toNat }
  shadow := addrAt b 40
  aperture0 := blockAperture b 0
  aperture1 := blockAperture b 1
  aperture2 := blockAperture b 2
  aperture3 := blockAperture b 3
  clock := (byteAt b 116).toNat
  strays := (byteAt b 117).getLsbD 0
  completionCause :=
    { threshold := max 1 (byteAt b 118).toNat, holdoff := (halfAt b 120).toNat }
  indicationCause :=
    { threshold := max 1 (byteAt b 119).toNat, holdoff := (halfAt b 122).toNat }
  rearmGap := (byteAt b 124).toNat

/-- A ring size that check 2 takes: a power of two, 16 to 4096. -/
def ringSizeOk (n : Nat) : Bool :=
  [16, 32, 64, 128, 256, 512, 1024, 2048, 4096].contains n

/-- Check 3 for one aperture: one in use has its base not above its limit, after rounding (R163). -/
def Aperture.ordered (a : Aperture) : Bool := !a.inUse || decide (a.first ≤ a.last)

/-- The five shared structures as (address, length), in the order of R163. -/
def ConfigCopy.structures (c : ConfigCopy) : List (HostAddr × Nat) :=
  [(c.ringH.base, c.ringH.size * 64), (c.ringL.base, c.ringL.size * 64),
   (c.completionRing.base, c.completionRing.size * 32),
   (c.indicationRing.base, c.indicationRing.size * 64), (c.shadow, 4)]

/-- Check 4: each structure lies within an aperture with the permission it needs (R163). -/
def ConfigCopy.placedOk (c : ConfigCopy) : Bool :=
  c.mayRead c.ringH.base (c.ringH.size * 64) && c.mayRead c.ringL.base (c.ringL.size * 64)
    && c.mayWrite c.completionRing.base (c.completionRing.size * 32)
    && c.mayWrite c.indicationRing.base (c.indicationRing.size * 64) && c.mayWrite c.shadow 4

/-- Two ranges share no byte. -/
def rangesApart (x y : HostAddr × Nat) : Bool :=
  decide (x.1.toNat + x.2 ≤ y.1.toNat) || decide (y.1.toNat + y.2 ≤ x.1.toNat)

/-- Each range lies apart from every later one. -/
def allApart : List (HostAddr × Nat) → Bool
  | [] => true
  | x :: xs => xs.all (rangesApart x) && allApart xs

/-- The first check of R162 that the configuration fails, if one does. -/
def ConfigCopy.startCheck (c : ConfigCopy) : StartError :=
  if !inRange 4 64 c.clock then .badClock
  else if !(ringSizeOk c.ringH.size && ringSizeOk c.ringL.size && ringSizeOk c.completionRing.size
      && ringSizeOk c.indicationRing.size) then .badRingSize
  else if !(c.apertures.all Aperture.ordered) then .badAperture
  else if !c.placedOk then .ringOutsideAperture
  else if !(allApart c.structures) then .ringOverlap
  else .none

end Sys2Proof.Machine
end

