-- ==== Sys2Proof/Machine/Admission.lean ====
section
/-! DEFINITION. The Admission Unit's shared operations (R125 to R139). -/

namespace Sys2Proof.Machine

/-! ### Holds, heads and shadow writes -/

/-- An EMPTY hold whose ring has a tail different from its head enters FETCHING (R127). -/
def RingUnit.beginFetch (u : RingUnit) : RingUnit :=
  if u.hold.state = .empty ∧ u.tail ≠ u.head then
    { u with hold := { state := .fetching, bytes := [], readFailed := false } }
  else u

/-- A head has increased to `head`: a shadow write begins, or a further one is pending (R128). -/
def ShadowState.advance (sh : ShadowState) (head : Half) : ShadowState :=
  match sh with
  | .idle => .writing head
  | .writing v => .writingPending v
  | .writingPending v => .writingPending v

/-- The record leaves the hold: the head increases, the shadow write follows, the next fetch begins
(R128). -/
def RingUnit.leave (u : RingUnit) : RingUnit :=
  RingUnit.beginFetch
    { u with
      head := u.head + 1
      hold := Hold.empty
      shadow := u.shadow.advance (u.head + 1) }

/-- The record of ring `r` leaves its hold (R128). -/
def State.leaveHold (s : State) (r : Ring) : State := s.modRing r RingUnit.leave

/-- A return of a resource at one hold: WAITING for it becomes READY (R130). -/
def Hold.onReturn (h : Hold) (x : Resource) : Hold :=
  match h.state with
  | .waiting lacks => if x ∈ lacks then { h with state := .ready } else h
  | _ => h

/-- A resource has returned (R130). -/
def State.returned (s : State) (x : Resource) : State :=
  (s.modHold .h fun h => h.onReturn x).modHold .l fun h => h.onReturn x

/-! ### The application stage (R129) -/

/-- The hold of ring `r` is READY. -/
def State.isReady (s : State) (r : Ring) : Bool := (s.ringUnit r).hold.state == .ready

/-- The ring the arbiter chooses among the READY holds (R129). -/
def ringChoice (highReady lowReady : Bool) (credit : Nat) : Option Ring :=
  match highReady, lowReady with
  | true, false => some .h
  | false, true => some .l
  | true, true => if credit < 8 then some .h else some .l
  | false, false => none

/-- The stage, when free, is granted to a READY hold (R129). -/
def State.grantStage (s : State) : State :=
  if s.device.state = .running ∧ s.admission.stage = none then
    match ringChoice (s.isReady .h) (s.isReady .l) s.admission.credit with
    | some r =>
      { s with admission := { s.admission with stage := some { ring := r, lowReady := s.isReady .l } } }
    | none => s
  else s

/-- What the part begins of itself when an event has been taken: a grant of the application stage, a
posting, an indication write (R129, R147, R153). -/
def State.wake (s : State) : State := s.grantStage.beginPosting.beginIndication

/-- The ring credit after a grant that ended in application (R129). -/
def creditApplied (g : Grant) (credit : Nat) : Nat :=
  match g.ring with
  | .h => if g.lowReady ∧ credit < 8 then credit + 1 else credit
  | .l => 0

/-- The grant ends in application: the stage is free and the credit moves (R129). -/
def State.applied (s : State) (g : Grant) : State :=
  { s with
    admission := { s.admission with
      stage := none, credit := creditApplied g s.admission.credit } }

/-- The applied record takes its admission number: the counter increases (R136). -/
def State.numbered (s : State) : State :=
  { s with admission := { s.admission with counter := s.admission.counter + 1 } }

/-- The record is set aside: its hold is WAITING for what it lacks, the stage is free (R130). -/
def State.setAside (s : State) (g : Grant) (lacks : List Resource) : State :=
  let t := s.modHold g.ring fun h => { h with state := .waiting lacks }
  { t with admission := { t.admission with stage := none } }

/-- The record is applied and leaves its hold. -/
def State.applyAndLeave (s : State) (g : Grant) : State := (s.numbered.applied g).leaveHold g.ring

/-- The record in the granted hold, when its kind is the one the command applies and it does not carry
READ_FAILED: `f` applies it, and the part goes on. Any other moment is no such moment of application,
and changes nothing (log 2). -/
def State.onGranted (s : State) (isKind : List Byte → Bool)
    (f : Grant → List Byte → State) : State :=
  match s.admission.stage with
  | some g =>
    let h := (s.ringUnit g.ring).hold
    if h.state = .ready ∧ h.readFailed = false ∧ isKind h.bytes then (f g h.bytes).wake else s
  | none => s

/-! ### Immediate places (R135) -/

/-- A FREE immediate place (the lowest-numbered, log 21). -/
def State.freePlace (s : State) : Option PlaceIx :=
  (List.finRange 8).find? fun p => (s.admission.places.get p).isNone

/-- The completion of a record of ring `r`. -/
def immediateOf (r : Ring) (b : List Byte) (status : Status) (result : List Byte)
    (target : Option EntryIx) : Immediate where
  tag := recTag b
  ring := r
  kind := recKindByte b
  status := status
  result := padTo 12 result
  target := target

/-- A completion is placed in immediate place `p` and enters the retire queue (R135). -/
def State.placeImmediate (s : State) (p : PlaceIx) (c : Immediate) : State :=
  (s.setPlace p (some c)).enqueue (.immediate p)

/-- The record completes at once through an immediate place, with the effect `f` on the part: the new
state, the status and the result area. Without a FREE place it is set aside (R130, R134). -/
def State.completeNow (s : State) (g : Grant) (b : List Byte)
    (f : State → State × Status × List Byte) : State :=
  match s.freePlace with
  | none => s.setAside g [.immediatePlace]
  | some p =>
    let out := f s
    (out.1.placeImmediate p (immediateOf g.ring b out.2.1 out.2.2 none)).applyAndLeave g

/-- The record is rejected (R131, R134): nothing else of the part changes. -/
def State.reject (s : State) (g : Grant) (b : List Byte) (status : Status) : State :=
  s.completeNow g b fun t => (t, status, [])

/-! ### Entries and segments -/

/-- The FREE entry with the lowest index (R137). -/
def State.freeEntry (s : State) : Option EntryIx :=
  (List.finRange 64).find? fun i => (s.entry i).state == .free

/-- The occupied entry of a ring that holds a tag (R80, R133, R140). -/
def State.findTag (s : State) (r : Ring) (tag : Half) : Option EntryIx :=
  (List.finRange 64).find? fun i =>
    (s.entry i).state != .free && (s.entry i).ring == r && (s.entry i).tag == tag

/-- How many segments hold `n` bytes (R117). -/
def segmentsFor (n : Nat) : Nat := (n + 63) / 64

/-- An entry's segments are appended to the free queue, the request chain first, and the entry becomes
FREE (R119, R123, R149). -/
def State.freeEntryAt (s : State) (i : EntryIx) : State :=
  let e := s.entry i
  { s with
    store := { s.store with freeQueue := s.store.freeQueue ++ e.requestChain ++ e.replyReservation }
    entries := s.entries.set i Entry.reset }

/-- The returns that the freeing of entry `i` is (R123, R130): the entry, and segments when it held
any. -/
def State.returnedEntry (s : State) (heldSegments : Bool) : State :=
  let t := s.returned .entry
  if heldSegments then t.returned .segments else t

/-- The entry holds at least one segment. -/
def Entry.holdsSegments (e : Entry) : Bool :=
  !(e.requestChain.isEmpty && e.replyReservation.isEmpty)

/-! ### Placement (R81, R138) -/

/-- A loaded entry is placed: retired at once when its line or station cannot take it, else appended
to its station's FIFO with its deadline timer started (R81). Only an entry in LOADING is placed. -/
def State.placeEntry (s : State) (i : EntryIx) : State :=
  let e := s.entry i
  match e.state, e.station with
  | .loading, some a =>
    match (s.line e.line).state with
    | .stopping => s.retireEntry i .lineStopped none
    | .stopped => s.retireEntry i .lineStopped none
    | .faulted => s.retireEntry i .lineFault none
    | _ =>
      if (s.station e.line a).state = .offline then s.retireEntry i .stationOffline none
      else
        (s.modStation e.line a fun r => { r with fifo := r.fifo ++ [i] }).setEntry i
          { e with
            state := .queued
            deadlineTimer := if e.deadline = 0 then .stopped else Timer.start (ms e.deadline) }
  | _, _ => s

/-- The entry of ring `r` is placed, its record leaves the hold, and the end of its load is a return
(R128, R138). -/
def State.placeLoaded (s : State) (r : Ring) (i : EntryIx) : State :=
  ((s.placeEntry i).leaveHold r).returned (.loadEnd i)

/-- A load of the other ring that was complete and waited for this one is placed now (R138). -/
def State.placeOther (s : State) (r : Ring) : State :=
  match (s.ringUnit (otherRing r)).hold.state with
  | .loading j true => s.placeLoaded (otherRing r) j
  | _ => s

/-- An entry of the other ring for the same line and station is LOADING with a lower admission number
(R138). -/
def State.mustWait (s : State) (r : Ring) (i : EntryIx) : Bool :=
  match (s.ringUnit (otherRing r)).hold.state with
  | .loading j _ =>
    (s.entry j).state == .loading && (s.entry j).line == (s.entry i).line
      && (s.entry j).station == (s.entry i).station
      && decide ((s.entry j).admission.toNat < (s.entry i).admission.toNat)
  | _ => false

/-- The load of ring `r`'s entry is complete (R138). -/
def State.loadDone (s : State) (r : Ring) (i : EntryIx) : State :=
  if s.mustWait r i then s.modHold r fun h => { h with state := .loading i true }
  else ((s.placeLoaded r i).placeOther r).settleLine (s.entry i).line

/-- The load ends with an error: the segments return, the entry is FREE, the record stays in the hold
marked READ_FAILED (R119, R139). -/
def State.loadFailed (s : State) (r : Ring) (i : EntryIx) : State :=
  let e := s.entry i
  let t := (s.freeEntryAt i).modHold r fun h => { h with state := .ready, readFailed := true }
  (((t.returnedEntry e.holdsSegments).returned (.loadEnd i)).placeOther r).settleLine e.line

end Sys2Proof.Machine
end

