-- ==== Sys2Proof/Machine/Bus.lean ====
section
/-! DEFINITION. The ends of the part's accesses in host memory (R165): fetches (R127), request loads
(R119, R138, R139), shadow writes (R128), reply copies (R148), completion records (R149) and indication
records (R153). The end of an access that is not in flight, or not in turn
(R165, log 33), is no event (log 2). -/

namespace Sys2Proof.Machine

/-! ### Reads -/

/-- The record has been copied whole into the hold (R127). -/
def State.fetched (s : State) (r : Ring) (bytes : List Byte) : State :=
  (s.modHold r fun _ => { state := .ready, bytes := bytes, readFailed := false }).wake

/-- The fetch failed: the hold keeps what it received, the part halts (R127, R144). -/
def State.fetchFailed (s : State) (r : Ring) (received : List Byte) : State :=
  (s.modHold r fun h => { h with bytes := received }).halt .ringReadError (.fetch r)

/-- FETCH_END (R127, R165). -/
def execFetchEnd (ring : Ring) (result : BusRead) (s : State) : Host.Outcome State Fault Refusal :=
  if s.device.state = .running ∧ (s.ringUnit ring).hold.state = .fetching
      ∧ s.inTurn (.fetch ring) then
    match s.checkedRead (s.fetchAddress ring) 64 result with
    | .data bytes =>
      if bytes.length = 64 then .next (s.fetched ring bytes) else .fault .illFormedOperand
    | .error received => .next (s.fetchFailed ring received)
  else .next s

/-- The load of ring `r` that may end now: its entry (R138, R165). -/
def State.loadOf (s : State) (r : Ring) : Option EntryIx :=
  match (s.ringUnit r).hold.state with
  | .loading i false => if s.device.state = .running ∧ s.inTurn (.load r) then some i else none
  | _ => none

/-- LOAD_END (R138). A range that the port refuses fails the load (R139, R165). -/
def execLoadEnd (ring : Ring) (bytes : List Byte) (s : State) : Host.Outcome State Fault Refusal :=
  match s.loadOf ring with
  | some i =>
    if s.loadAllowed i then
      (if bytes.length = (s.entry i).requestLength then
        .next ((s.storeRequest i bytes).loadDone ring i).wake
      else .fault .illFormedOperand)
    else .next (s.loadFailed ring i).wake
  | none => .next s

/-- LOAD_ERROR, with the bytes that had been read (R119, R139). -/
def execLoadError (ring : Ring) (received : List Byte) (s : State) :
    Host.Outcome State Fault Refusal :=
  .next
    (match s.loadOf ring with
    | some i =>
      if s.loadAllowed i then
        ((s.storeRequest i (received.take (s.entry i).requestLength)).loadFailed ring i).wake
      else (s.loadFailed ring i).wake
    | none => s)

/-! ### Writes -/

/-- A shadow write has ended without error: a further write of the head as it now stands begins, or the
state is IDLE (R128). -/
def RingUnit.shadowDone (u : RingUnit) : RingUnit :=
  match u.shadow with
  | .writingPending _ => { u with shadow := .writing u.head }
  | _ => { u with shadow := .idle }

/-- SHADOW_WRITE_END (R128). -/
def execShadowWriteEnd (ring : Ring) (result : BusWriteEnd) (s : State) :
    Host.Outcome State Fault Refusal :=
  .next (s.whenRunning
    (match s.shadowAccess ring, s.inTurn (.shadow ring) with
    | some w, true =>
      match s.checkedWrite w result with
      | .done => (s.placed w.addr w.bytes).modRing ring RingUnit.shadowDone
      | .error n => (s.placedShadowPart w n).halt .ringWriteError (.write (.shadow ring))
    | _, _ => s))

/-- The Retire Unit goes on to the record write (R148, R149). -/
def State.beginRecord (s : State) (copyFailed : Bool) : State :=
  { s with retire := { s.retire with posting := .writing copyFailed } }

/-- REPLY_COPY_END (R148). -/
def execReplyCopyEnd (result : BusWriteEnd) (s : State) : Host.Outcome State Fault Refusal :=
  .next (s.whenRunning
    (match s.retire.posting, s.replyAccess with
    | .copying, some w =>
      match s.checkedWrite w result with
      | .done => (s.placed w.addr w.bytes).beginRecord false
      | .error n => (s.placed w.addr (w.bytes.take n)).beginRecord true
    | _, _ => s))

/-- Step 3 of R149 for an item, each freeing a return (R130). -/
def State.freeItem (s : State) : RetireItem → State
  | .entry i => (s.freeEntryAt i).returnedEntry (s.entry i).holdsSegments
  | .immediate p => (s.setPlace p none).returned .immediatePlace
  | .lineControl l => (s.modLine l fun ln => { ln with control := .empty }).returned (.controlPlace l)

/-- Steps 2 to 4 of R149: the count, the freeing, and the item leaves the queue. -/
def State.posted (s : State) (q : QueuedItem) : State :=
  let t := (s.countPosted .completion).freeItem q.item
  { t with retire := { queue := t.retire.queue.tail, posting := .idle } }

/-- COMPLETION_RECORD_WRITE_END (R149). -/
def execCompletionRecordWriteEnd (result : BusWriteEnd) (s : State) :
    Host.Outcome State Fault Refusal :=
  .next (s.whenRunning
    (match s.retire.posting, s.retire.queue with
    | .writing copyFailed, q :: _ =>
      match s.completionAccess copyFailed with
      | some w =>
        match s.checkedWrite w result with
        | .done => ((s.placed w.addr w.bytes).posted q).wake
        | .error n => (s.placedRecordPart w n).halt .ringWriteError (.write .completion)
      | none => s
    | _, _ => s))

/-- The head indication has been written: it is counted and leaves the queue (R153). -/
def State.indicationWritten (s : State) : State :=
  let t := s.countPosted .indication
  { t with ind := { t.ind with queue := t.ind.queue.tail, writing := false } }

/-- INDICATION_WRITE_END (R153). -/
def execIndicationWriteEnd (result : BusWriteEnd) (s : State) : Host.Outcome State Fault Refusal :=
  .next (s.whenRunning
    (if s.ind.writing then
      match s.indicationAccess with
      | some w =>
        match s.checkedWrite w result with
        | .done => ((s.placed w.addr w.bytes).indicationWritten).wake
        | .error n => (s.placedRecordPart w n).halt .ringWriteError (.write .indication)
      | none => s
    else s))

end Sys2Proof.Machine
end

