-- ==== Sys2Proof/Machine/Control.lean ====
section
/-! DEFINITION. The commands at Device Control and the register writes: resets (R168), START (R161,
R162, R164), the ring indices (R126, R155), the notification registers (R158, R159), and the writes
the window ignores (R169, R172). -/

namespace Sys2Proof.Machine

/-! ### Reset and START -/

/-- What a reset leaves (R168): every block at its reset values, every access in flight abandoned. What
the host memory holds, and the commands still waiting, are outside the part and are kept. -/
def State.resetBlocks (s : State) (configAddr : HostAddr) (input : Bool) : State :=
  let t := if s.device.state = .running then s.stopWrites none else s
  { State.reset with
    pending := s.pending
    resetInput := input
    device := { State.reset.device with configAddr := configAddr }
    busWrites := t.busWrites
    freeSeq := t.freeSeq }

/-- A register write, dropped while the hard reset input is asserted (R168). -/
def State.onWrite (s t : State) : State := if s.resetInput then s else t

/-- A START taken in IDLE (R161). -/
def State.start (s : State) : State :=
  if s.device.state = .idle then
    { s with device := { s.device with state := .starting, startError := .none } }
  else s

/-- A write of `value` to CONTROL: RESET before START; with both bits clear it does nothing (R161). -/
def State.controlWrite (s : State) (value : Word) : State :=
  if value.getLsbD 1 then s.resetBlocks s.device.configAddr false
  else if value.getLsbD 0 then s.start
  else s

/-- HARD_RESET: the input takes the level `asserted` (R168, log 17). -/
def execHardReset (asserted : Bool) (s : State) : Host.Outcome State Fault Refusal :=
  .next (s.resetBlocks 0 asserted)

/-- CONTROL_RESET (R161, R168). -/
def execControlReset (value : Word) (s : State) : Host.Outcome State Fault Refusal :=
  .next (s.onWrite (s.controlWrite value))

/-- CONTROL_START (R161). -/
def execControlStart (value : Word) (s : State) : Host.Outcome State Fault Refusal :=
  .next (s.onWrite (s.controlWrite value))

/-- The address with one of its words replaced (R172). -/
def replaceHalf (addr : HostAddr) (half : AddrHalf) (value : Word) : HostAddr :=
  match half with
  | .low => addr.extractLsb' 32 32 ++ value
  | .high => value ++ addr.extractLsb' 0 32

/-- CONFIG_ADDR_WRITE: taken in IDLE, dropped in every other state (R161, R172). -/
def execConfigAddrWrite (half : AddrHalf) (value : Word) (s : State) :
    Host.Outcome State Fault Refusal :=
  .next (s.onWrite
    (if s.device.state = .idle then
      { s with
        device := { s.device with configAddr := replaceHalf s.device.configAddr half value } }
    else s))

/-- The START fails (R162): IDLE with a start error code, nothing of the block kept. -/
def State.startFailed (s : State) (e : StartError) : State :=
  { s with device := { s.device with state := .idle, startError := e } }

/-- The START passes (R164): RUNNING on the copy of the block, the ring credit and the admission number
counter at 0. -/
def State.startPassed (s : State) (c : ConfigCopy) : State :=
  { s with
    device := { s.device with state := .running, config := some c }
    admission := { s.admission with credit := 0, counter := 0 } }

/-- The configuration block has been read: its checks decide (R162). -/
def State.takeBlock (s : State) (bytes : List Byte) : State :=
  match (blockConfig bytes).startCheck with
  | .none => s.startPassed (blockConfig bytes)
  | e => s.startFailed e

/-- CONFIG_READ_END (R162). The read is not checked against any aperture. -/
def execConfigReadEnd (result : BusRead) (s : State) : Host.Outcome State Fault Refusal :=
  if s.device.state = .starting then
    match result with
    | .data bytes =>
      if bytes.length = 128 then .next (s.takeBlock bytes) else .fault .illFormedOperand
    | .error _ => .next (s.startFailed .configReadError)
  else .next s

/-! ### Ring indices -/

/-- The new index a write gives: bits 0 to 15 (R172). -/
def indexOf (value : Word) : Half := value.extractLsb' 0 16

/-- The two index errors of a tail write (R126). -/
def RingUnit.tailError (u : RingUnit) (size : Nat) (tail : Half) : Bool :=
  decide (size < (tail - u.head).toNat) || (u.hold.state != .empty && tail == u.head)

/-- A tail write in RUNNING (R126). -/
def State.writeTail (s : State) (r : Ring) (tail : Half) : State :=
  if (s.ringUnit r).tailError (s.cfg.subRing r).size tail then s.halt .ringIndex .host
  else s.modRing r fun u => RingUnit.beginFetch { u with tail := tail }

/-- SUB_TAIL_WRITE (R126, R172). -/
def execSubTailWrite (ring : Ring) (value : Word) (s : State) :
    Host.Outcome State Fault Refusal :=
  .next (s.onWrite (s.whenRunning (s.writeTail ring (indexOf value))))

/-- A host head write in RUNNING (R155). -/
def State.writeHead (s : State) (r : HostRing) (head : Half) : State :=
  let w := s.writtenRing r
  if w.unseen < (head - w.hostHead).toNat then s.halt .hostHead .host
  else if head = w.hostHead then s
  else
    let t := s.setWrittenRing r { w with hostHead := head }
    (if t.unseen r = 0 then t.modCause r Coalesced.onEmptied else t).wake

/-- HOST_HEAD_WRITE (R155, R172). -/
def execHostHeadWrite (ring : HostRing) (value : Word) (s : State) :
    Host.Outcome State Fault Refusal :=
  .next (s.onWrite (s.whenRunning (s.writeHead ring (indexOf value))))

/-! ### The notification registers -/

/-- A clearing request for one cause (R158). -/
def State.clearCause (s : State) (r : HostRing) (request : Bool) : State :=
  if request then s.modCause r fun c => c.onClear (s.cfg.cause r) s.cfg.rearmGap (s.unseen r) else s

/-- NOTIFY_CAUSE_WRITE: bits 0 and 1 are the clearing requests (R158, R172). -/
def execNotifyCauseWrite (value : Word) (s : State) : Host.Outcome State Fault Refusal :=
  .next (s.onWrite (s.whenRunning
    ((s.clearCause .completion (value.getLsbD 0)).clearCause .indication (value.getLsbD 1))))

/-- The three enables of a NOTIFY_MASK word (R159). -/
def maskOf (value : Word) : NotifyMask where
  completion := value.getLsbD 0
  indication := value.getLsbD 1
  halt := value.getLsbD 2

/-- NOTIFY_MASK_WRITE: taken in every state but HALTED (R159, R167). -/
def execNotifyMaskWrite (value : Word) (s : State) : Host.Outcome State Fault Refusal :=
  .next (s.onWrite
    (if s.device.state = .halted then s
    else { s with notify := { s.notify with mask := maskOf value } }))

/-- REGISTER_WRITE_IGNORED (R169, R172). -/
def execRegisterWriteIgnored (_offset _width : Nat) (_value : Word) (s : State) :
    Host.Outcome State Fault Refusal :=
  .next s

end Sys2Proof.Machine
end

