-- ==== Sys2Proof/Machine/Receiver.lean ====
section
/-! DEFINITION. The receiver of a line and what its results do at the line engine (R14 to R17, R44,
R45, R47), and the echo check (R43). -/

namespace Sys2Proof.Machine

/-- The jabber timer's length for a rate code: 300 character times in microseconds, rounded up
(R27). -/
def jabberLength : Nat → Nat
  | 0 => 312500
  | 1 => 156250
  | 2 => 78125
  | 3 => 52084
  | 4 => 26042
  | 5 => 13021
  | 6 => 6511
  | _ => 3256

/-- The receiver leaves HUNT for ASSEMBLE or DISCARD, which starts the jabber timer; from ASSEMBLE to
DISCARD it keeps running (R49). -/
def LineEngine.leaveHunt (ln : LineEngine) (dest : ReceiverState) : LineEngine :=
  { ln with
    receiver := dest
    jabberTimer :=
      if ln.receiver = .hunt then Timer.start (jabberLength ln.params.rateCode)
      else ln.jabberTimer }

/-- The receiver enters HUNT, which stops the jabber timer (R49). -/
def LineEngine.enterHunt (ln : LineEngine) : LineEngine :=
  { ln with receiver := .hunt, jabberTimer := .stopped }

/-- The wire stays at space after a framing error until it returns to mark (R1). -/
def LineEngine.noteFraming (ln : LineEngine) (c : LineChar) : LineEngine :=
  { ln with atSpace := ln.atSpace || c.framingError }

/-- The receiver entered HUNT: an IDLE line's arbiter is evaluated (R51). -/
def State.wakeIdle (s : State) (l : Line) : State :=
  if (s.line l).phase = .idle then s.settleLine l else s

/-- The receiver hands over a BAD_FRAME: the ending of an exchange in RECEIVE, else a bad stray; it
counts once in the line error counter either way (R44, R45, R47, R50). -/
def State.handBad (s : State) (l : Line) : State :=
  if (s.line l).phase = .receive then (s.countError l).endExchange l .badFrame
  else s.countError l

/-- A sync arrival: ASSEMBLE begins, and in LISTEN the response window stops and RECEIVE begins; in
GUARD after a NO_ANSWER the sequence is marked LATE (R14, R44, R47). -/
def State.syncSeen (s : State) (l : Line) : State :=
  s.modLine l fun ln =>
    let r := ln.leaveHunt .assemble
    { r with
      rxBuffer := [syncChar]
      rxLate := ln.phase == .guard && ln.guardLate
      phase := if ln.phase = .listen then .receive else ln.phase
      windowTimer := if ln.phase = .listen then .stopped else ln.windowTimer }

/-- Every character taken in ASSEMBLE is stored behind the sync character (R14). -/
def LineEngine.store (ln : LineEngine) (c : LineChar) : LineEngine :=
  if ln.receiver = .assemble then { ln with rxBuffer := ln.rxBuffer ++ [c.data] } else ln

/-- The sequence fails a check before its frame is complete, or breaks: DISCARD (R14 to R16). -/
def State.rxFail (s : State) (l : Line) : State :=
  (s.modLine l fun ln => ln.leaveHunt .discard).handBad l

/-- A complete frame fails check 4, 5 or 6: HUNT (R15, R16). -/
def State.rxBadComplete (s : State) (l : Line) : State :=
  ((s.modLine l fun ln => ln.enterHunt).handBad l).wakeIdle l

/-- The token test on a DEFER (R103): no deferred entry of the station holds the token, and its
release item is not listed unless the POLL carried it. -/
def State.tokenTest (s : State) (l : Line) (ex : Exchange) (t : Nat) : Bool :=
  let r := s.station l ex.station
  let item : ReleaseItem := { kind := .deferred, token := t }
  (r.deferred.all fun i => (s.entry i).token != some t)
    && (!r.release.contains item || ex.carried == some item)

/-- The ending a valid station frame gives the exchange in RECEIVE (R45). -/
def State.classifyAnswer (s : State) (l : Line) (ex : Exchange) (f : StationFrame) : Ending :=
  match acceptable ex f with
  | some (.defer t) =>
    if s.tokenTest l ex t then .answer (.defer t) f.attention else .wrongAnswer
  | some a => .answer a f.attention
  | none => .wrongAnswer

/-- A valid stray is given as a STRAY indication when strays are enabled, else dropped (R47). -/
def State.stray (s : State) (l : Line) (f : StationFrame) (late : Bool) : State :=
  if s.cfg.strays then
    s.indicate l (.stray f.addr f.kind f.length late (f.payload.take 48))
  else s

/-- A valid station frame is handed over (R45, R47). -/
def State.handValid (s : State) (l : Line) (f : StationFrame) : State :=
  match (s.line l).phase, (s.line l).current with
  | .receive, some ex =>
    let ending := s.classifyAnswer l ex f
    if ending = .wrongAnswer then (s.countError l).endExchange l .wrongAnswer
    else s.endExchange l ending
  | _, _ => (s.stray l f (s.line l).rxLate).wakeIdle l

/-- The character that completes a valid station frame: it is stored, the receiver enters HUNT and the
frame is handed over (R15). -/
def State.rxValid (s : State) (l : Line) (last : Byte) : State :=
  let t := s.modLine l fun ln => { ln.enterHunt with rxBuffer := ln.rxBuffer ++ [last] }
  t.handValid l (parseFrame (t.line l).rxBuffer)

/-! ### The echo check (R43) -/

/-- The echo check passes: the same eight data bits were heard, with no framing error (R43). -/
def echoPasses (sent : Byte) : Heard → Bool
  | .nothing => false
  | .char c => c.data == sent && !c.framingError

/-- The frame has passed its echo check on every character: a broadcast or BEACON ends SENT, any other
frame goes to LISTEN with the response window started (R14, R44). -/
def State.transmitEnd (s : State) (l : Line) (ex : Exchange) : State :=
  let t := s.modLine l fun ln => ln.enterHunt
  if ex.station = broadcastStation then t.endExchange l .sent
  else
    t.modLine l fun ln =>
      { ln with phase := .listen, windowTimer := Timer.start ln.params.responseWindow }

/-- The echo check failed: one count, no further character, ECHO_FAULT, marked FULL_FRAME on the last
character (R43). -/
def State.echoFailed (s : State) (l : Line) (fullFrame : Bool) : State :=
  ((s.modLine l fun ln => ln.enterHunt).countError l).endExchange l (.echoFault fullFrame)

/-- What the part hears of a character it sends: nothing while the wire stays at space after a framing
error, since the receiver then takes no start bit (R1). -/
def LineEngine.hears (ln : LineEngine) (heard : Heard) : Heard :=
  if ln.atSpace then .nothing else heard

/-- What was heard may leave the wire at space (R1). -/
def State.noteHeard (s : State) (l : Line) (heard : Heard) : State :=
  match heard with
  | .char c => s.modLine l fun ln => ln.noteFraming c
  | .nothing => s

/-- One transmitted character has ended on a line in TRANSMIT (R43). -/
def State.checkEcho (s : State) (l : Line) (ex : Exchange) (echo : Heard) : State :=
  let heard := (s.line l).hears echo
  let isLast := decide (ex.chars.length ≤ ex.echoed + 1)
  let t := s.noteHeard l heard
  if echoPasses (byteAt ex.chars ex.echoed) heard then
    let ex' := { ex with echoed := ex.echoed + 1 }
    let t' := t.modLine l fun ln => { ln with current := some ex' }
    if isLast then t'.transmitEnd l ex' else t'
  else t.echoFailed l isLast

end Sys2Proof.Machine
end

