-- ==== Sys2Proof/Machine/Expiries.lean ====
section
/-! DEFINITION. The expiries of the part's timers (R25). An expiry is an event only while the timer has
one outstanding; any other such command changes nothing (log 2, log 3). -/

namespace Sys2Proof.Machine

/-- The expiry of a timer is taken in RUNNING, when it is outstanding. -/
def State.onExpiry (s : State) (timer : Timer) (t : State) : State :=
  s.whenRunning (if timer = .expired then t else s)

/-! ### Line timers -/

/-- The response window expires in LISTEN: NO_ANSWER (R44). -/
def State.windowExpired (s : State) (l : Line) : State :=
  let t := s.modLine l fun ln => { ln with windowTimer := .stopped }
  if (s.line l).phase = .listen then t.endExchange l .noAnswer else t

/-- RESPONSE_WINDOW_EXPIRY (R44). -/
def execResponseWindowExpiry (line : Line) (s : State) : Host.Outcome State Fault Refusal :=
  .next (s.onExpiry (s.line line).windowTimer (s.windowExpired line).wake)

/-- The guard timer expires in GUARD: the current exchange becomes none, the line enters IDLE and its
arbiter is evaluated (R47). -/
def State.guardExpired (s : State) (l : Line) : State :=
  if (s.line l).phase = .guard then
    (s.modLine l fun ln =>
      { ln with guardTimer := .stopped, current := none, guardLate := false, phase := .idle }).settleLine
      l
  else s.modLine l fun ln => { ln with guardTimer := .stopped }

/-- GUARD_EXPIRY (R47). -/
def execGuardExpiry (line : Line) (s : State) : Host.Outcome State Fault Refusal :=
  .next (s.onExpiry (s.line line).guardTimer (s.guardExpired line).wake)

/-- A period timer starts again; a period of 0 keeps it stopped (R57). -/
def periodTimer (period : Nat) : Timer :=
  if period = 0 then .stopped else Timer.start (ms period)

/-- The beacon period expires (R57). -/
def State.beaconExpired (s : State) (l : Line) : State :=
  (s.modLine l fun ln =>
    { ln with beaconDue := true, beaconTimer := periodTimer ln.params.beaconPeriod }).settleLine l

/-- BEACON_PERIOD_EXPIRY (R57). -/
def execBeaconPeriodExpiry (line : Line) (s : State) : Host.Outcome State Fault Refusal :=
  .next (s.onExpiry (s.line line).beaconTimer (s.beaconExpired line).wake)

/-- A station of the line is OFFLINE. -/
def State.anyOffline (s : State) (l : Line) : Bool :=
  realStations.any fun a => (s.station l a).state == .offline

/-- The probe interval expires: restarted, and on a RUNNING line with an OFFLINE station a re-probe is
due (R56, R35). -/
def State.probeExpired (s : State) (l : Line) : State :=
  (s.modLine l fun ln =>
    { ln with
      probeTimer := Timer.start (ms ln.params.probeInterval)
      reprobeDue := ln.reprobeDue || (ln.state == .running && s.anyOffline l) }).settleLine l

/-- PROBE_INTERVAL_EXPIRY (R56). -/
def execProbeIntervalExpiry (line : Line) (s : State) : Host.Outcome State Fault Refusal :=
  .next (s.onExpiry (s.line line).probeTimer (s.probeExpired line).wake)

/-- The jabber timer expires: one count, and the line faults with JABBER (R49). -/
def State.jabberExpired (s : State) (l : Line) : State := (s.countError l).faultLine l .jabber

/-- JABBER_EXPIRY (R49). -/
def execJabberExpiry (line : Line) (s : State) : Host.Outcome State Fault Refusal :=
  .next (s.onExpiry (s.line line).jabberTimer (s.jabberExpired line).wake)

/-- The release linger timer of a station expires: its flush is due as of this increment (R73, R52), the
one at which the expiry is taken (DESIGN CHOICE, log 36). -/
def State.lingerExpired (s : State) (l : Line) (a : Station) : State :=
  (s.modStation l a fun r =>
    { r with linger := .stopped, flushDue := some s.time.increment }).settleLine l

/-- RELEASE_LINGER_EXPIRY (R73). -/
def execReleaseLingerExpiry (line : Line) (station : Station) (s : State) :
    Host.Outcome State Fault Refusal :=
  .next (s.onExpiry (s.station line station).linger (s.lingerExpired line station).wake)

/-! ### Entry timers -/

/-- The deadline of an entry expires (R93). -/
def State.deadlineExpired (s : State) (i : EntryIx) : State :=
  let e := s.entry i
  let t := s.modEntry i fun e => { e with deadlineTimer := .stopped }
  match e.state with
  | .exchange => t.modEntry i fun e => { e with deadlinePassed := true }
  | .queued => (t.retireEntry i .deadline e.token).settleLine e.line
  | .retryWait => (t.retireEntry i .deadline e.token).settleLine e.line
  | .deferred => (t.retireEntry i .deadline e.token).settleLine e.line
  | _ => t

/-- DEADLINE_EXPIRY (R93). -/
def execDeadlineExpiry (entry : EntryIx) (s : State) : Host.Outcome State Fault Refusal :=
  .next (s.onExpiry (s.entry entry).deadlineTimer (s.deadlineExpired entry).wake)

/-- The retry holdoff of a FIFO head expires: QUEUED again, and a candidate (R87). -/
def State.retryHoldoffExpired (s : State) (i : EntryIx) : State :=
  (s.modEntry i fun e => { e with phaseTimer := .stopped, state := .queued }).settleLine
    (s.entry i).line

/-- RETRY_HOLDOFF_EXPIRY, of an entry waiting to send its POLL again (R87). -/
def execRetryHoldoffExpiry (entry : EntryIx) (s : State) : Host.Outcome State Fault Refusal :=
  .next (s.onExpiry (s.entry entry).phaseTimer
    (if (s.entry entry).state = .retryWait ∧ (s.entry entry).token = none then
      (s.retryHoldoffExpired entry).wake
    else s))

/-- The entry is DEFERRED and due as of this increment (R105, R111). Where the expiry has stood
outstanding across a further increment the due time is the increment at which the expiry is taken, not
the one at which the phase timer came to 0 (DESIGN CHOICE, log 36: the spec leaves it open). -/
def State.becomeDue (s : State) (i : EntryIx) : State :=
  (s.modEntry i fun e =>
    { e with phaseTimer := .stopped, state := .deferred, dueTime := some s.time.increment }).settleLine
    (s.entry i).line

/-- COLLECT_HOLDOFF_EXPIRY, of an entry waiting to send its COLLECT again: DEFERRED and due at once
(R111). -/
def execCollectHoldoffExpiry (entry : EntryIx) (s : State) : Host.Outcome State Fault Refusal :=
  .next (s.onExpiry (s.entry entry).phaseTimer
    (if (s.entry entry).state = .retryWait ∧ (s.entry entry).token ≠ none then (s.becomeDue entry).wake
    else s))

/-- COLLECT_INTERVAL_EXPIRY: a DEFERRED entry becomes due (R105). -/
def execCollectIntervalExpiry (entry : EntryIx) (s : State) : Host.Outcome State Fault Refusal :=
  .next (s.onExpiry (s.entry entry).phaseTimer
    (if (s.entry entry).state = .deferred then (s.becomeDue entry).wake else s))

/-! ### Notification timers -/

/-- HOLDOFF_EXPIRY: the cause is set (R157). -/
def execHoldoffExpiry (ring : HostRing) (s : State) : Host.Outcome State Fault Refusal :=
  .next (s.onExpiry (s.notify.coalesced ring).holdoff (s.modCause ring Coalesced.raise))

/-- The re-arm gap expires: the cause is set if unseen is at or above the threshold (R157). -/
def Coalesced.onGap (c : Coalesced) (settings : CauseSettings) (unseen : Nat) : Coalesced :=
  if settings.threshold ≤ unseen then c.raise else { c with rearm := .stopped }

/-- REARM_GAP_EXPIRY (R157). -/
def execRearmGapExpiry (ring : HostRing) (s : State) : Host.Outcome State Fault Refusal :=
  .next (s.onExpiry (s.notify.coalesced ring).rearm
    (s.modCause ring fun c => c.onGap (s.cfg.cause ring) (s.unseen ring)))

end Sys2Proof.Machine
end

