-- ==== Sys2Proof/Machine/LineControl.lean ====
section
/-! DEFINITION. The six LINE_CONTROL records at their line (R33 to R41, R142). -/

namespace Sys2Proof.Machine

/-- The granted record is a LINE_CONTROL for `op`: `f` takes it at its line once its shape is good; else
it is rejected BAD_RECORD (R131, R142). -/
def State.lineControl (s : State) (op : Nat)
    (f : State → Grant → List Byte → Line → State) : State :=
  s.whenRunning
    (s.onGranted (isLineControl op) fun g b =>
      if shapeOk b then f s g b (recLine b) else s.reject g b .badRecord)

/-! ### START (R33) -/

/-- The line engine as START leaves it. -/
def LineEngine.started (ln : LineEngine) : LineEngine :=
  { ln with
    state := .running
    faultCause := .none
    phase := .idle
    receiver := .hunt
    echoFaults := 0
    credit := 0
    beaconNumber := 0
    markCount := 0
    beaconTimer :=
      if ln.params.beaconPeriod = 0 then .stopped else Timer.start (ms ln.params.beaconPeriod)
    probeTimer := Timer.start (ms ln.params.probeInterval) }

/-- START starts the linger timer of a station with a release list that is not empty (R33, R73). -/
def StationRecord.started (linger : Nat) (r : StationRecord) : StationRecord :=
  if r.release.isEmpty then r else { r with linger := Timer.start (ms linger) }

/-- A line in STOPPED or FAULTED takes START; any other line changes nothing (R33). -/
def State.startLine (s : State) (l : Line) : State × Status × List Byte :=
  if (s.line l).state.isActive then (s, .wrongState, [])
  else
    let t := (s.modLine l LineEngine.started).mapStations l
      (StationRecord.started (s.line l).params.releaseLinger)
    ((t.indicateLine l).settleLine l, .ok, [])

/-- LINE_CONTROL_START (R33, R142). -/
def execLineControlStart (s : State) : Host.Outcome State Fault Refusal :=
  .next (s.lineControl 1 fun s g b l => s.completeNow g b fun t => t.startLine l)

/-! ### STOP (R34) -/

/-- The line enters STOPPING with the STOP in its control place, and STOPPED at once when no exchange is
in flight (R34, R36, R57). -/
def State.enterStopping (s : State) (l : Line) (tag : Half) (ring : Ring) : State :=
  ((s.modLine l fun ln =>
    { ln with
      state := .stopping
      control := .pending .stop tag ring
      beaconDue := false
      reprobeDue := false
      beaconTimer := .stopped }).indicateLine l).settleLine l

/-- The completion of a superseded DRAIN (R34, R150). -/
def supersededDrain (tag : Half) (ring : Ring) : Immediate where
  tag := tag
  ring := ring
  kind := 4
  status := .superseded
  result := zeroResult
  target := none

/-- A STOP at a DRAINING line supersedes the DRAIN, given an immediate place for its completion (R34,
R142). The superseded DRAIN's item joins the retire queue before the entries that the STOP retires in the
same command (DESIGN CHOICE, log 35: R146 lets either be first). -/
def State.stopDraining (s : State) (g : Grant) (b : List Byte) (l : Line) : State :=
  match (s.line l).control with
  | .pending _ tag ring =>
    match s.freePlace with
    | some p =>
      ((s.placeImmediate p (supersededDrain tag ring)).enterStopping l (recTag b) g.ring).applyAndLeave
        g
    | none => s.setAside g [.immediatePlace]
  | .empty => (s.enterStopping l (recTag b) g.ring).applyAndLeave g
  | .completed _ _ _ _ => s.setAside g [.controlPlace l]

/-- A STOP at line `l` (R34, R38, R142). -/
def State.takeStop (s : State) (g : Grant) (b : List Byte) (l : Line) : State :=
  match (s.line l).state with
  | .running =>
    if (s.line l).control = .empty then (s.enterStopping l (recTag b) g.ring).applyAndLeave g
    else s.setAside g [.controlPlace l]
  | .draining => s.stopDraining g b l
  | _ => s.completeNow g b fun t => (t, .wrongState, [])

/-- LINE_CONTROL_STOP (R34, R142). -/
def execLineControlStop (s : State) : Host.Outcome State Fault Refusal :=
  .next (s.lineControl 2 State.takeStop)

/-! ### DRAIN (R35) -/

/-- The line enters DRAINING with the DRAIN in its control place, and STOPPED at once when it holds no
entry and no exchange is in flight (R35). -/
def State.enterDraining (s : State) (l : Line) (tag : Half) (ring : Ring) : State :=
  ((s.modLine l fun ln =>
    { ln with
      state := .draining
      control := .pending .drain tag ring
      reprobeDue := false }).indicateLine l).settleLine l

/-- A DRAIN at line `l` (R35, R38, R142). -/
def State.takeDrain (s : State) (g : Grant) (b : List Byte) (l : Line) : State :=
  if (s.line l).state = .running then
    (if (s.line l).control = .empty then (s.enterDraining l (recTag b) g.ring).applyAndLeave g
    else s.setAside g [.controlPlace l])
  else s.completeNow g b fun t => (t, .wrongState, [])

/-- LINE_CONTROL_DRAIN (R35, R142). -/
def execLineControlDrain (s : State) : Host.Outcome State Fault Refusal :=
  .next (s.lineControl 3 State.takeDrain)

/-! ### SET (R39) -/

/-- A new failure threshold at a station record (R39). -/
def StationRecord.newThreshold (threshold : Nat) (r : StationRecord) : StationRecord :=
  match r.state with
  | .absent => r
  | .offline => { r with failures := threshold }
  | .unknown => { r with failures := 0 }
  | .online => { r with failures := 0 }
  | .suspect => { r with failures := 0 }

/-- The parameters of line `l` are replaced; a changed threshold reaches its stations (R39). -/
def State.replaceParams (s : State) (l : Line) (p : LineParams) : State :=
  let t := s.modLine l fun ln => { ln with params := p }
  if p.failureThreshold = (s.line l).params.failureThreshold then t
  else t.mapStations l (StationRecord.newThreshold p.failureThreshold)

/-- A SET at line `l` (R39). -/
def State.setParams (s : State) (l : Line) (p : LineParams) : State × Status × List Byte :=
  if (s.line l).state.isActive then (s, .wrongState, [])
  else if p.inRange then (s.replaceParams l p, .ok, [])
  else (s, .badRecord, [])

/-- LINE_CONTROL_SET (R39, R142). -/
def execLineControlSet (s : State) : Host.Outcome State Fault Refusal :=
  .next (s.lineControl 4 fun s g b l => s.completeNow g b fun t => t.setParams l (recParams b))

/-! ### STATUS and CLEAR (R40, R41) -/

/-- How many stations of the line are OFFLINE. -/
def State.offlineCount (s : State) (l : Line) : Nat :=
  (realStations.filter fun a => (s.station l a).state == .offline).length

/-- The sample of a line engine (R40). -/
def State.lineSample (s : State) (l : Line) : List Byte :=
  let ln := s.line l
  [byteOf ln.state.code, byteOf (if ln.state = .faulted then ln.faultCause.code else 0)]
    ++ le16 (BitVec.ofNat 16 ln.errors)
    ++ [byteOf ln.echoFaults, byteOf (s.workCount l)]
    ++ le16 ln.beaconNumber ++ le16 (BitVec.ofNat 16 ln.markCount)
    ++ [byteOf (s.offlineCount l), byteOf ln.phase.code]

/-- LINE_CONTROL_STATUS (R40, R142). -/
def execLineControlStatus (s : State) : Host.Outcome State Fault Refusal :=
  .next (s.lineControl 5 fun s g b l => s.completeNow g b fun t => (t, .ok, t.lineSample l))

/-- LINE_CONTROL_CLEAR: the counter's former value, and the counter at 0 (R41, R142). -/
def execLineControlClear (s : State) : Host.Outcome State Fault Refusal :=
  .next (s.lineControl 6 fun s g b l =>
    s.completeNow g b fun t =>
      (t.modLine l fun ln => { ln with errors := 0 }, .ok,
        le16 (BitVec.ofNat 16 (t.line l).errors)))

end Sys2Proof.Machine
end

