-- ==== Sys2Proof/Machine/LineEvents.lean ====
section
/-! DEFINITION. The events of the wire at a line: the echo of a transmitted character (R43), arriving
characters by what they do at the receiver (R14 to R16), breaks and idle counts (R14). A command names
what the arrival does; one that the line's state does not make of it is no such event and changes
nothing (log 2). -/

namespace Sys2Proof.Machine

/-- A character arrival in RUNNING that the receiver takes as `kind`. -/
def State.onArrival (s : State) (l : Line) (c : LineChar) (kind : Arrival) (t : State) : State :=
  s.whenRunning (if (s.line l).classify c = kind then t else s)

/-- ECHO_CHECK: one character of the frame in TRANSMIT has ended (R43). -/
def execEchoCheck (line : Line) (heard : Heard) (s : State) : Host.Outcome State Fault Refusal :=
  .next (s.whenRunning
    (match (s.line line).phase, (s.line line).current with
    | .transmit, some ex => (s.checkEcho line ex heard).wake
    | _, _ => s))

/-- The sync character without a framing error. -/
def goodSync : LineChar := { data := syncChar, framingError := false }

/-- SYNC_ARRIVAL (R14, R44). -/
def execSyncArrival (line : Line) (s : State) : Host.Outcome State Fault Refusal :=
  .next (s.onArrival line goodSync .sync (s.syncSeen line))

/-- A character that makes its sequence fail check 1 or 3, or breaks it by a framing error: it is
stored where it came in ASSEMBLE, and the receiver enters DISCARD (R14 to R16). -/
def State.badCharacter (s : State) (l : Line) (c : LineChar) : State :=
  (s.modLine l fun ln => (ln.store c).noteFraming c).rxFail l

/-- A character that completes a frame failing check 4, 5 or 6 (R15, R16). -/
def State.badLast (s : State) (l : Line) (c : LineChar) : State :=
  (s.modLine l fun ln => ln.store c).rxBadComplete l

/-- BAD_FRAME (R16). -/
def execBadFrame (line : Line) (char : LineChar) (s : State) : Host.Outcome State Fault Refusal :=
  .next (s.onArrival line char ((s.line line).classify char)
    (match (s.line line).classify char with
    | .badDiscard => (s.badCharacter line char).wake
    | .badComplete => (s.badLast line char).wake
    | _ => s))

/-- CHARACTER_ARRIVAL: stored in ASSEMBLE, or dropped in DISCARD (R14). -/
def execCharacterArrival (line : Line) (char : LineChar) (s : State) :
    Host.Outcome State Fault Refusal :=
  .next (s.whenRunning
    (match (s.line line).classify char with
    | .stored => s.modLine line fun ln => ln.store char
    | .dropped => s.modLine line fun ln => ln.noteFraming char
    | _ => s))

/-- VALID_STATION_FRAME: its last character arrives (R15, R45, R47). -/
def execValidStationFrame (line : Line) (last : Byte) (s : State) :
    Host.Outcome State Fault Refusal :=
  .next (s.onArrival line { data := last, framingError := false } .valid
    (s.rxValid line last).wake)

/-- SEQUENCE_BREAK: 30 bit times without a start bit in ASSEMBLE (R14). -/
def execSequenceBreak (line : Line) (s : State) : Host.Outcome State Fault Refusal :=
  .next (s.whenRunning
    (if (s.line line).receiver = .assemble then (s.rxFail line).wake else s))

/-- DISCARD_END: 30 idle bit times in DISCARD, counted with the line at mark (R14). -/
def execDiscardEnd (line : Line) (s : State) : Host.Outcome State Fault Refusal :=
  .next (s.whenRunning
    (if (s.line line).receiver = .discard ∧ (s.line line).atSpace = false then
      ((s.modLine line fun ln => ln.enterHunt).wakeIdle line).wake
    else s))

/-- RETURN_TO_MARK: the wire has returned to mark after a framing error (R1, R14). -/
def execReturnToMark (line : Line) (s : State) : Host.Outcome State Fault Refusal :=
  .next (s.whenRunning (s.modLine line fun ln => { ln with atSpace := false }))

end Sys2Proof.Machine
end

