-- ==== Sys2Proof/Machine/Registers.lean ====
section
/-! DEFINITION. What a read of the register window returns (R169, R172). A read changes nothing in the
part, so it is a function of the state and no command. -/

namespace Sys2Proof.Machine

/-- IDENT: family code 0x5A, design step 0x01, part code 0x0B14 (R169). -/
def identWord : Word := 0x5A010B14

/-- STATUS: device state, start error and halt cause (R169). -/
def DeviceControl.statusWord (d : DeviceControl) : Word :=
  BitVec.ofNat 32 (d.state.code + 256 * d.startError.code + 65536 * d.haltCause.code)

/-- The three cause bits. -/
def Notification.causeWord (n : Notification) : Word :=
  BitVec.ofNat 32 (bit n.completion.cause + 2 * bit n.indication.cause + 4 * bit n.halt)

/-- The three enables. -/
def NotifyMask.word (m : NotifyMask) : Word :=
  BitVec.ofNat 32 (bit m.completion + 2 * bit m.indication + 4 * bit m.halt)

/-- The 32-bit word a read at an offset of the window returns. CONTROL, the four index registers and
offset 0x2C read as 0 (R172). A 32-bit read at an unaligned offset, of which R172 says nothing, returns
0 (DESIGN CHOICE, log 34). While the hard reset input is asserted the state is that after a hard reset, so
the same reads return what R168 gives. -/
def State.readRegister (s : State) (offset : Nat) : Word :=
  match offset with
  | 0x00 => identWord
  | 0x08 => s.device.configAddr.extractLsb' 0 32
  | 0x0C => s.device.configAddr.extractLsb' 32 32
  | 0x10 => s.device.statusWord
  | 0x24 => s.notify.causeWord
  | 0x28 => s.notify.mask.word
  | _ => 0

/-- One byte of the window; a read of another width returns the bytes it covers (R172). -/
def State.readRegisterByte (s : State) (offset : Nat) : Byte :=
  (s.readRegister (offset / 4 * 4)).extractLsb' (8 * (offset % 4)) 8

end Sys2Proof.Machine
end

