-- ==== Sys2Proof/Machine/StationControl.lean ====
section
/-! DEFINITION. The three STATION_CONTROL records (R75 to R77, R143), TIME_READ (R30), records of an
unknown kind (R131) and the completion of a failed load (R139). -/

namespace Sys2Proof.Machine

/-- The granted record is a STATION_CONTROL for `op`: the Station Table takes it by `f` once its shape
is good; else it is rejected BAD_RECORD (R131, R143). -/
def State.stationControl (s : State) (op : Nat)
    (f : State → Line → Station → State × Status × List Byte) : State :=
  s.whenRunning
    (s.onGranted (isStationControl op) fun g b =>
      if shapeOk b then s.completeNow g b fun t => f t (recLine b) (recStation b)
      else s.reject g b .badRecord)

/-- The result area of an ADD or REMOVE: the station's state as it now is (R75, R76). -/
def State.stateResult (s : State) (l : Line) (a : Station) : List Byte :=
  [byteOf (s.station l a).state.code]

/-- The outcome of an ADD or REMOVE. -/
def State.stationOutcome (s : State) (l : Line) (a : Station) (status : Status) :
    State × Status × List Byte :=
  (s, status, s.stateResult l a)

/-! ### ADD (R75) -/

/-- A record as ADD leaves it: UNKNOWN, its sequence bit kept, all else as after reset (R75). -/
def StationRecord.added (r : StationRecord) : StationRecord :=
  { StationRecord.reset with state := .unknown, seqBit := r.seqBit }

/-- ADD at station `a` (R75). -/
def State.addStation (s : State) (l : Line) (a : Station) : State × Status × List Byte :=
  if a = broadcastStation then s.stationOutcome l a .badRecord
  else if (s.station l a).state = .absent then
    ((s.modStation l a StationRecord.added).indicateStation l a .absent .unknown .add
      none).stationOutcome l a .ok
  else s.stationOutcome l a .wrongState

/-- STATION_CONTROL_ADD (R75, R143). -/
def execStationControlAdd (s : State) : Host.Outcome State Fault Refusal :=
  .next (s.stationControl 1 State.addStation)

/-! ### REMOVE (R76) -/

/-- An exchange addressed to station `a` is in flight on the line, from its grant to its ending
(R76). -/
def State.exchangeWith (s : State) (l : Line) (a : Station) : Bool :=
  (s.line l).inFlight
    && (match (s.line l).current with
      | some ex => ex.station == a
      | none => false)

/-- The station has work (R76). -/
def State.hasWork (s : State) (l : Line) (a : Station) : Bool :=
  !(s.station l a).fifo.isEmpty || !(s.station l a).deferred.isEmpty || s.exchangeWith l a
    || (List.finRange 64).any fun i =>
      (s.entry i).state == .loading && (s.entry i).line == l && (s.entry i).station == some a

/-- A record as REMOVE leaves it: every field but the sequence bit at its reset value (R76). -/
def StationRecord.removed (r : StationRecord) : StationRecord :=
  { StationRecord.reset with seqBit := r.seqBit }

/-- REMOVE at station `a` (R76). -/
def State.removeStation (s : State) (l : Line) (a : Station) : State × Status × List Byte :=
  if a = broadcastStation then s.stationOutcome l a .badRecord
  else if s.hasWork l a then s.stationOutcome l a .busy
  else
    let old := s.station l a
    let t := s.modStation l a StationRecord.removed
    (if old.state = .absent then t
      else t.indicateStation l a old.state .absent .remove old.statusWord).stationOutcome l a .ok

/-- STATION_CONTROL_REMOVE (R76, R143). -/
def execStationControlRemove (s : State) : Host.Outcome State Fault Refusal :=
  .next (s.stationControl 2 State.removeStation)

/-! ### QUERY (R77) -/

/-- The sample of a station record; for address 31 only the state and the FIFO length (R77). -/
def State.stationSample (s : State) (l : Line) (a : Station) : List Byte :=
  let r := s.station l a
  if a = broadcastStation then
    [byteOf StationState.online.code, 0, 0, 0, byteOf r.fifo.length, 0, 0, 0, 0, 0, 0, 0]
  else
    [byteOf r.state.code, byteOf (bit r.seqBit), byteOf r.failures, byteOf (bit r.attention),
      byteOf r.fifo.length, byteOf r.deferred.length, byteOf r.release.length,
      byteOf (bit r.statusWord.isSome + 2 * bit r.flushDue.isSome + 4 * bit (s.exchangeWith l a))]
      ++ le16 (r.statusWord.getD 0) ++ [0, 0]

/-- STATION_CONTROL_QUERY (R77, R143). -/
def execStationControlQuery (s : State) : Host.Outcome State Fault Refusal :=
  .next (s.stationControl 3 fun t l a => (t, .ok, t.stationSample l a))

/-! ### TIME_READ (R30) -/

/-- The sample of device time and the four beacon numbers (R30). -/
def State.timeSample (s : State) : List Byte :=
  le32 s.time.now ++ le16 (s.line 0).beaconNumber ++ le16 (s.line 1).beaconNumber
    ++ le16 (s.line 2).beaconNumber ++ le16 (s.line 3).beaconNumber

/-- The application of a TIME_READ (R30, R143). -/
def State.applyTimeRead (s : State) (g : Grant) (b : List Byte) : State :=
  if shapeOk b then s.completeNow g b fun t => (t, .ok, t.timeSample) else s.reject g b .badRecord

/-- TIME_READ (R30, R143). -/
def execTimeRead (s : State) : Host.Outcome State Fault Refusal :=
  .next (s.whenRunning (s.onGranted (fun b => recKind b == 6) s.applyTimeRead))

/-! ### Records that bring no work -/

/-- The record kind names none of the six kinds (R131). -/
def unknownKind (b : List Byte) : Bool := recKind b == 0 || decide (7 ≤ recKind b)

/-- UNKNOWN_KIND_RECORD: rejected BAD_RECORD with the kind value it holds (R131, R170). -/
def execUnknownKindRecord (s : State) : Host.Outcome State Fault Refusal :=
  .next (s.whenRunning (s.onGranted unknownKind fun g b => s.reject g b .badRecord))

/-- The HOST_READ_ERROR completion of a failed load is placed and the record leaves the hold; it was
numbered when it was applied (R136). Without a FREE place the hold waits for one (R139). -/
def State.completeReadFailed (s : State) (g : Grant) (b : List Byte) : State :=
  match s.freePlace with
  | some p =>
    ((s.placeImmediate p (immediateOf g.ring b .hostReadError [] none)).applied g).leaveHold g.ring
  | none => s.setAside g [.immediatePlace]

/-- READ_FAILED_COMPLETION (R139). -/
def execReadFailedCompletion (s : State) : Host.Outcome State Fault Refusal :=
  .next (s.whenRunning
    (match s.admission.stage with
    | some g =>
      if (s.ringUnit g.ring).hold.state = .ready ∧ (s.ringUnit g.ring).hold.readFailed then
        (s.completeReadFailed g (s.ringUnit g.ring).hold.bytes).wake
      else s
    | none => s))

end Sys2Proof.Machine
end

