-- ==== Sys2Proof/Machine/Time.lean ====
section
/-! DEFINITION. Device time (R22 to R25): the prescaler carry, and the input clock cycle that passes
while no command waits. -/

namespace Sys2Proof.Machine

/-- One increment at the timers of an entry. -/
def Entry.tick (e : Entry) : Entry :=
  { e with deadlineTimer := e.deadlineTimer.tick, phaseTimer := e.phaseTimer.tick }

/-- One increment at the timers of a line. -/
def LineEngine.tick (ln : LineEngine) : LineEngine :=
  { ln with
    windowTimer := ln.windowTimer.tick
    guardTimer := ln.guardTimer.tick
    beaconTimer := ln.beaconTimer.tick
    probeTimer := ln.probeTimer.tick
    jabberTimer := ln.jabberTimer.tick }

/-- One increment at the linger timer of a station. -/
def StationRecord.tick (r : StationRecord) : StationRecord := { r with linger := r.linger.tick }

/-- One increment at the timers of a cause. -/
def Coalesced.tick (c : Coalesced) : Coalesced :=
  { c with holdoff := c.holdoff.tick, rearm := c.rearm.tick }

/-- An increment of device time: every running timer's remaining length decreases by 1 (R23 to R25). -/
def State.increment (s : State) : State :=
  { s with
    time := { prescaler := 0, now := s.time.now + 1, increment := s.time.increment + 1 }
    entries := s.entries.map Entry.tick
    lines := s.lines.map LineEngine.tick
    stations := s.stations.map (Table.map StationRecord.tick)
    notify := { s.notify with
      completion := s.notify.completion.tick, indication := s.notify.indication.tick } }

/-- PRESCALER_CARRY: in RUNNING the prescaler count returns to 0 and device time advances (R22, R23). The
command stands for the input clock cycles up to and including the one that carries (log 3). -/
def execPrescalerCarry (s : State) : Host.Outcome State Fault Refusal :=
  .next (s.whenRunning s.increment)

/-- One input clock cycle (R22): the step takes one when no command waits (DESIGN CHOICE, log 1). -/
def State.clockCycle (s : State) : State :=
  s.whenRunning
    (if s.time.prescaler + 1 < s.cfg.clock then
      { s with time := { s.time with prescaler := s.time.prescaler + 1 } }
    else s.increment)

end Sys2Proof.Machine
end

