-- ==== Sys2Proof/Machine/Transact.lean ====
section
/-! DEFINITION. The application of TRANSACT (R137), ABORT (R140, R95) and FENCE (R141, R98) records. -/

namespace Sys2Proof.Machine

/-! ### TRANSACT -/

/-- Check 7 (R132): the request range may be read and the reply range written. A range of length 0
passes, and so does the reply range of a broadcast. -/
def State.rangesOk (s : State) (b : List Byte) : Bool :=
  (recRequestLength b == 0 || s.cfg.mayRead (recRequestAddress b) (recRequestLength b))
    && (recReplyLength b == 0 || recStation b == broadcastStation
      || s.cfg.mayWrite (recReplyAddress b) (recReplyLength b))

/-- Check 9 (R133): the status a TRANSACT to a line in this state is rejected with, if it is. -/
def LineState.refuses : LineState → Option Status
  | .running => none
  | .draining => some .lineDraining
  | .faulted => some .lineFault
  | .stopped => some .lineStopped
  | .stopping => some .lineStopped

/-- Check 10 (R133). -/
def StationState.refuses : StationState → Option Status
  | .absent => some .noStation
  | .offline => some .stationOffline
  | .unknown => none
  | .online => none
  | .suspect => none

/-- The first check a TRANSACT of ring `r` fails, as its status (R131 to R133). -/
def State.transactCheck (s : State) (r : Ring) (b : List Byte) : Option Status :=
  if !shapeOk b then some .badRecord
  else if !s.rangesOk b then some .aperture
  else if (s.findTag r (recTag b)).isSome then some .duplicateTag
  else
    match (s.line (recLine b)).state.refuses with
    | some status => some status
    | none => (s.station (recLine b) (recStation b)).state.refuses

/-- The reply limit: at most 248, and 0 for a broadcast (R117). -/
def recReplyLimit (b : List Byte) : Nat :=
  if recStation b = broadcastStation then 0 else min (recReplyLength b) 248

/-- The request part of the demand (R117). -/
def requestPart (b : List Byte) : Nat := segmentsFor (recRequestLength b)

/-- The demand (R117). -/
def demand (b : List Byte) : Nat := requestPart b + segmentsFor (recReplyLimit b)

/-- The entry a TRANSACT is given, in LOADING (R137). -/
def State.transactEntry (s : State) (r : Ring) (b : List Byte) : Entry :=
  { Entry.reset with
    state := .loading
    kind := .transact
    ring := r
    tag := recTag b
    admission := s.admission.counter
    line := recLine b
    station := some (recStation b)
    deferOk := recDeferOk b
    requestLength := recRequestLength b
    requestAddress := recRequestAddress b
    replyBufferLength := recReplyLength b
    replyBufferAddress := recReplyAddress b
    replyLimit := recReplyLimit b
    deadline := recDeadline b
    attemptLimit :=
      if recAttempts b = 0 then (s.line (recLine b)).params.defaultAttempts else recAttempts b
    requestChain := s.store.freeQueue.take (requestPart b)
    replyReservation := (s.store.freeQueue.drop (requestPart b)).take (segmentsFor (recReplyLimit b)) }

/-- What a TRANSACT that passed its checks lacks (R130, R134). -/
def State.transactLacks (s : State) (b : List Byte) : List Resource :=
  (if s.freeEntry.isNone then [.entry] else [])
    ++ (if s.store.freeQueue.length < demand b then [.segments] else [])

/-- A TRANSACT that passed its checks takes entry `i` and its segments, and begins to load; a request
of length 0 ends its load at once (R137). -/
def State.transactTake (s : State) (g : Grant) (b : List Byte) (i : EntryIx) : State :=
  let t1 := s.setEntry i (s.transactEntry g.ring b)
  let t2 := { t1 with store := { t1.store with freeQueue := t1.store.freeQueue.drop (demand b) } }
  let t3 := (t2.numbered.applied g).modHold g.ring fun h => { h with state := .loading i false }
  if recRequestLength b = 0 then t3.loadDone g.ring i else t3

/-- The application of a TRANSACT (R137). -/
def State.applyTransact (s : State) (g : Grant) (b : List Byte) : State :=
  match s.transactCheck g.ring b with
  | some status => s.reject g b status
  | none =>
    match s.transactLacks b, s.freeEntry with
    | [], some i => s.transactTake g b i
    | lacks, _ => s.setAside g lacks

/-- TRANSACT (R137). -/
def execTransact (s : State) : Host.Outcome State Fault Refusal :=
  .next (s.whenRunning (s.onGranted (fun b => recKind b == 1) s.applyTransact))

/-! ### ABORT -/

/-- The completion of an ABORT that waits for entry `i` stands in place `p` (R96, R135). -/
def State.abortWaits (s : State) (g : Grant) (b : List Byte) (p : PlaceIx) (i : EntryIx) : State :=
  s.setPlace p (some (immediateOf g.ring b .ok [] (some i)))

/-- An ABORT whose target may be retired now: the target retires ABORTED and the ABORT's completion
follows it directly (R95, R89). -/
def State.abortNow (s : State) (g : Grant) (b : List Byte) (p : PlaceIx) (i : EntryIx) : State :=
  let e := s.entry i
  (((s.abortWaits g b p i).retireFor i .aborted e.token (some p)).settleLine e.line).applyAndLeave g

/-- An ABORT whose target is in EXCHANGE: it is decided at the ending (R96). -/
def State.abortLater (s : State) (g : Grant) (b : List Byte) (p : PlaceIx) (i : EntryIx) : State :=
  ((s.abortWaits g b p i).modEntry i fun e => { e with abortPending := true }).applyAndLeave g

/-- An ABORT with a FREE immediate place `p` meets its target `i` (R95). -/
def State.abortTarget (s : State) (g : Grant) (b : List Byte) (p : PlaceIx) (i : EntryIx) : State :=
  match (s.entry i).state with
  | .exchange =>
    if (s.entry i).abortPending then s.completeNow g b fun t => (t, .busy, [])
    else s.abortLater g b p i
  | .retiring => s.completeNow g b fun t => (t, .tooLate, [])
  | _ => s.abortNow g b p i

/-- The application of an ABORT (R140). -/
def State.applyAbort (s : State) (g : Grant) (b : List Byte) : State :=
  if !shapeOk b then s.reject g b .badRecord
  else
    match s.findTag (recTargetRing b) (recTargetTag b) with
    | none => s.completeNow g b fun t => (t, .notFound, [])
    | some i =>
      if (s.entry i).state = .loading then s.setAside g [.loadEnd i]
      else
        match s.freePlace with
        | none => s.setAside g [.immediatePlace]
        | some p => s.abortTarget g b p i

/-- ABORT (R140). -/
def execAbort (s : State) : Host.Outcome State Fault Refusal :=
  .next (s.whenRunning (s.onGranted (fun b => recKind b == 2) s.applyAbort))

/-! ### FENCE -/

/-- The entries a FENCE of ring `r` and line `l` with the next admission number waits for (R98). -/
def State.fenceTargets (s : State) (r : Ring) (l : Line) : List EntryIx :=
  (List.finRange 64).filter fun i =>
    (s.entry i).state != .free && (s.entry i).state != .retiring && (s.entry i).kind == .transact
      && (s.entry i).ring == r && (s.entry i).line == l
      && decide ((s.entry i).admission.toNat < s.admission.counter.toNat)

/-- The entry a FENCE is given, in FENCE_WAIT (R141, R98). -/
def State.fenceEntry (s : State) (r : Ring) (b : List Byte) : Entry :=
  { Entry.reset with
    state := .fenceWait
    kind := .fence
    ring := r
    tag := recTag b
    admission := s.admission.counter
    line := recLine b
    waitsFor := s.fenceTargets r (recLine b)
    waitPlaced := (s.fenceTargets r (recLine b)).length }

/-- A FENCE takes entry `i`, and retires at once when it waits for nothing (R141, R99); no FENCE waits
for a FENCE (R98). -/
def State.fenceTake (s : State) (g : Grant) (b : List Byte) (i : EntryIx) : State :=
  let t := s.setEntry i (s.fenceEntry g.ring b)
  (if (s.fenceTargets g.ring (recLine b)).isEmpty then t.retireCore i .ok none none else t).applyAndLeave g

/-- The application of a FENCE (R141): checks 1 to 6, then the tag. -/
def State.applyFence (s : State) (g : Grant) (b : List Byte) : State :=
  if !shapeOk b then s.reject g b .badRecord
  else if (s.findTag g.ring (recTag b)).isSome then s.reject g b .duplicateTag
  else
    match s.freeEntry with
    | some i => s.fenceTake g b i
    | none => s.setAside g [.entry]

/-- FENCE (R141). -/
def execFence (s : State) : Host.Outcome State Fault Refusal :=
  .next (s.whenRunning (s.onGranted (fun b => recKind b == 3) s.applyFence))

end Sys2Proof.Machine
end

