-- ==== Sys2Proof/Machine/Dispatch.lean ====
section
/-! DEFINITION. The meaning of every command, one arm per row of spec/opcode_table.json. -/

namespace Sys2Proof.Machine

/-- The effect of a command on everything but the queue of waiting commands. -/
def exec (i : Instr) (s : State) : Host.Outcome State Fault Refusal :=
  match i with
  | .hardReset asserted => Sys2Proof.Machine.execHardReset asserted s
  | .controlReset value => Sys2Proof.Machine.execControlReset value s
  | .controlStart value => Sys2Proof.Machine.execControlStart value s
  | .configAddrWrite half value => Sys2Proof.Machine.execConfigAddrWrite half value s
  | .subTailWrite ring value => Sys2Proof.Machine.execSubTailWrite ring value s
  | .hostHeadWrite ring value => Sys2Proof.Machine.execHostHeadWrite ring value s
  | .notifyCauseWrite value => Sys2Proof.Machine.execNotifyCauseWrite value s
  | .notifyMaskWrite value => Sys2Proof.Machine.execNotifyMaskWrite value s
  | .registerWriteIgnored offset width value => Sys2Proof.Machine.execRegisterWriteIgnored offset width value s
  | .configReadEnd result => Sys2Proof.Machine.execConfigReadEnd result s
  | .prescalerCarry => Sys2Proof.Machine.execPrescalerCarry s
  | .fetchEnd ring result => Sys2Proof.Machine.execFetchEnd ring result s
  | .transact => Sys2Proof.Machine.execTransact s
  | .abort => Sys2Proof.Machine.execAbort s
  | .fence => Sys2Proof.Machine.execFence s
  | .lineControlStart => Sys2Proof.Machine.execLineControlStart s
  | .lineControlStop => Sys2Proof.Machine.execLineControlStop s
  | .lineControlDrain => Sys2Proof.Machine.execLineControlDrain s
  | .lineControlSet => Sys2Proof.Machine.execLineControlSet s
  | .lineControlStatus => Sys2Proof.Machine.execLineControlStatus s
  | .lineControlClear => Sys2Proof.Machine.execLineControlClear s
  | .stationControlAdd => Sys2Proof.Machine.execStationControlAdd s
  | .stationControlRemove => Sys2Proof.Machine.execStationControlRemove s
  | .stationControlQuery => Sys2Proof.Machine.execStationControlQuery s
  | .timeRead => Sys2Proof.Machine.execTimeRead s
  | .unknownKindRecord => Sys2Proof.Machine.execUnknownKindRecord s
  | .readFailedCompletion => Sys2Proof.Machine.execReadFailedCompletion s
  | .loadEnd ring bytes => Sys2Proof.Machine.execLoadEnd ring bytes s
  | .loadError ring received => Sys2Proof.Machine.execLoadError ring received s
  | .shadowWriteEnd ring result => Sys2Proof.Machine.execShadowWriteEnd ring result s
  | .echoCheck line heard => Sys2Proof.Machine.execEchoCheck line heard s
  | .syncArrival line => Sys2Proof.Machine.execSyncArrival line s
  | .badFrame line char => Sys2Proof.Machine.execBadFrame line char s
  | .sequenceBreak line => Sys2Proof.Machine.execSequenceBreak line s
  | .discardEnd line => Sys2Proof.Machine.execDiscardEnd line s
  | .validStationFrame line last => Sys2Proof.Machine.execValidStationFrame line last s
  | .responseWindowExpiry line => Sys2Proof.Machine.execResponseWindowExpiry line s
  | .guardExpiry line => Sys2Proof.Machine.execGuardExpiry line s
  | .beaconPeriodExpiry line => Sys2Proof.Machine.execBeaconPeriodExpiry line s
  | .probeIntervalExpiry line => Sys2Proof.Machine.execProbeIntervalExpiry line s
  | .jabberExpiry line => Sys2Proof.Machine.execJabberExpiry line s
  | .releaseLingerExpiry line station => Sys2Proof.Machine.execReleaseLingerExpiry line station s
  | .deadlineExpiry entry => Sys2Proof.Machine.execDeadlineExpiry entry s
  | .retryHoldoffExpiry entry => Sys2Proof.Machine.execRetryHoldoffExpiry entry s
  | .collectHoldoffExpiry entry => Sys2Proof.Machine.execCollectHoldoffExpiry entry s
  | .collectIntervalExpiry entry => Sys2Proof.Machine.execCollectIntervalExpiry entry s
  | .holdoffExpiry ring => Sys2Proof.Machine.execHoldoffExpiry ring s
  | .rearmGapExpiry ring => Sys2Proof.Machine.execRearmGapExpiry ring s
  | .replyCopyEnd result => Sys2Proof.Machine.execReplyCopyEnd result s
  | .completionRecordWriteEnd result => Sys2Proof.Machine.execCompletionRecordWriteEnd result s
  | .indicationWriteEnd result => Sys2Proof.Machine.execIndicationWriteEnd result s
  | .characterArrival line char => Sys2Proof.Machine.execCharacterArrival line char s
  | .returnToMark line => Sys2Proof.Machine.execReturnToMark line s

end Sys2Proof.Machine
end

