-- ==== Sys2Proof/Machine/Step.lean ====
section
/-! DEFINITION. One step: the command at the front of the queue, or one input clock cycle when none
waits (log 1). -/

namespace Sys2Proof.Machine

/-- The state with the command that a word spells put at the front of its queue; no row of the table
gives bits, so no word spells one and the state is unchanged. -/
def State.withFetchWord (s : State) (nbits w : Nat) : State :=
  match decodeTableWord nbits w with
  | some c => { s with pending := c :: s.pending }
  | none => s

/-- One step. -/
def step (s : State) : Host.Outcome State Fault Refusal :=
  match s.pending with
  | [] => .next s.clockCycle
  | c :: rest => exec c { s with pending := rest }

end Sys2Proof.Machine
end

