-- ==== Sys2Proof/Safety.lean ====
section
/-! DEFINITION. The terms in which claims about the NL4 are stated: the moment of application, what a
completion at once changes, what a halt changes, and the invariants of the machine. -/

namespace Sys2Proof.Machine

/-! ### Commands -/

/-- The command carries a reset: the hard reset input, or a write of CONTROL with RESET set (R161,
R168). -/
def isReset : Instr → Bool
  | .hardReset _ => true
  | .controlReset value => value.getLsbD 1
  | .controlStart value => value.getLsbD 1
  | _ => false

/-- The command is a write of a register of the window (R169). -/
def isRegisterWrite : Instr → Bool
  | .controlStart _ => true
  | .controlReset _ => true
  | .configAddrWrite _ _ => true
  | .subTailWrite _ _ => true
  | .hostHeadWrite _ _ => true
  | .notifyCauseWrite _ => true
  | .notifyMaskWrite _ => true
  | .registerWriteIgnored _ _ _ => true
  | _ => false

/-! ### Fields of the structures in host memory (11_formats_and_register_window.md) -/

/-- The value `v` stands in `bytes` from `offset` on, low byte first. -/
def fieldAt {w : Nat} (bytes : List Byte) (offset : Nat) (v : BitVec w) : Prop :=
  ∀ i, 8 * i < w → bytes.getD (offset + i) 0 = v.extractLsb' (8 * i) 8

/-- The number a byte holds. -/
def numberAt (bytes : List Byte) (offset : Nat) : Nat := (bytes.getD offset 0).toNat

/-- The number two bytes hold, low byte first. -/
def number16At (bytes : List Byte) (offset : Nat) : Nat :=
  numberAt bytes offset + 256 * numberAt bytes (offset + 1)

/-- The codes of the statuses (R151). -/
def statusCodes : List (Status × Nat) :=
  [(.ok, 0), (.refused, 1), (.stationBusy, 2), (.noResponse, 3), (.deadline, 4), (.aborted, 5),
   (.tooLate, 6), (.notFound, 7), (.stationOffline, 8), (.noStation, 9), (.lineStopped, 10),
   (.lineDraining, 11), (.lineFault, 12), (.collectLimit, 13), (.tokenLost, 14), (.badRecord, 15),
   (.aperture, 16), (.duplicateTag, 17), (.wrongState, 18), (.busy, 19), (.superseded, 20),
   (.hostReadError, 21), (.hostWriteError, 22)]

/-- The codes of the details (R91). -/
def detailCodes : List (Detail × Nat) :=
  [(.none, 0), (.noAnswer, 1), (.badFrame, 2), (.wrongAnswer, 3), (.echoFault, 4), (.cut, 5), (.busy, 6),
   (.reject, 7), (.pending, 8), (.unknownToken, 9), (.defer, 10)]

/-- The codes of the station states (R77). -/
def stationStateCodes : List (StationState × Nat) :=
  [(.absent, 0), (.unknown, 1), (.online, 2), (.suspect, 3), (.offline, 4)]

/-! ### Frames -/

/-- Device Control, device time, the host's rings and the Notification Unit are as they were, and
nothing was placed in host memory. -/
structure State.SameHost (s t : State) : Prop where
  pending : t.pending = s.pending
  resetInput : t.resetInput = s.resetInput
  device : t.device = s.device
  time : t.time = s.time
  cplRing : t.cplRing = s.cplRing
  indRing : t.indRing = s.indRing
  notify : t.notify = s.notify
  busWrites : t.busWrites = s.busWrites
  freeSeq : t.freeSeq = s.freeSeq

/-- The work of the part is as it was: lines, stations, entries and the Payload Store. -/
structure State.SameWork (s t : State) : Prop where
  lines : t.lines = s.lines
  stations : t.stations = s.stations
  entries : t.entries = s.entries
  store : t.store = s.store

/-- The Admission Unit is as it was, but that its free stage may have been granted. -/
structure State.SameAdmission (s t : State) : Prop where
  unit : ∀ r, t.ringUnit r = s.ringUnit r
  credit : t.admission.credit = s.admission.credit
  counter : t.admission.counter = s.admission.counter
  places : t.admission.places = s.admission.places
  asked : t.admission.asked = s.admission.asked
  stage : ∀ g, s.admission.stage = some g → t.admission.stage = some g

/-- Every line but `l` is as it was: its engine and its stations. -/
structure State.SameOtherLines (s t : State) (l : Line) : Prop where
  lines : ∀ m, m ≠ l → t.line m = s.line m
  stations : ∀ m a, m ≠ l → t.station m a = s.station m a

/-- No indication was given; the write of the head one may have begun (R153). -/
def State.NoIndication (s t : State) : Prop := t.ind = s.beginIndication.ind

/-- One indication was given (R152); the write of the head one may have begun (R153). -/
def State.OneIndication (s t : State) (l : Line) (body : IndicationBody) : Prop :=
  t.ind = (s.indicate l body).beginIndication.ind

/-! ### What begins of itself (R129, R147) -/

/-- The grant of a free application stage among the READY holds (R129). -/
def State.regrant (t : State) : Option Grant :=
  (ringChoice (t.isReady .h) (t.isReady .l) t.admission.credit).map fun r =>
    { ring := r, lowReady := t.isReady .l }

/-- The application stage after an event: a grant it holds stays, and a free stage is granted (R129). -/
def State.StageAfter (s t : State) : Prop :=
  t.admission.stage = match s.admission.stage with
    | some g => some g
    | none => t.regrant

/-- The posting of an item begins with a reply copy: it is a TRANSACT's entry with a reply true length, and
there are bytes to copy (R148). -/
def State.CopiesFirst (t : State) (item : RetireItem) : Prop :=
  ∃ i n, item = .entry i ∧ (t.entry i).kind = .transact ∧ (t.entry i).replyTrueLength = some n
    ∧ 0 < min (t.entry i).replyBufferLength n

/-- What an idle Retire Unit does: without an item, or without room in the completion ring, it stays idle;
else it begins to post the head item, with the reply copy or with the record (R147, R148). -/
structure State.PostingBegun (t : State) : Prop where
  waits : t.retire.queue = [] ∨ t.cfg.completionRing.size ≤ t.unseen .completion →
    t.retire.posting = .idle
  begins : ∀ q rest, t.retire.queue = q :: rest → t.unseen .completion < t.cfg.completionRing.size →
    (t.CopiesFirst q.item → t.retire.posting = .copying)
      ∧ (¬ t.CopiesFirst q.item → t.retire.posting = .writing false)

/-- The Retire Unit after an event: a posting in flight goes on, and an idle unit looks at its queue
(R147). -/
def State.PostingAfter (s t : State) : Prop :=
  (s.retire.posting ≠ .idle → t.retire.posting = s.retire.posting)
    ∧ (s.retire.posting = .idle → t.PostingBegun)

/-- What the part has begun of itself after an event: a grant of the stage, a posting. -/
structure State.Begins (s t : State) : Prop where
  stage : s.StageAfter t
  posting : s.PostingAfter t

/-! ### Lines and entries -/

/-- No candidate of any of the seven categories exists on the line (R52). -/
structure State.NothingToGrant (s : State) (l : Line) : Prop where
  beacon : (s.line l).beaconDue = false
  reprobe : (s.line l).reprobeDue = false
  collect : ∀ i, (s.entry i).state = .deferred → (s.entry i).line = l → (s.entry i).dueTime = none
  head : ∀ a i rest, (s.station l a).fifo = i :: rest → (s.entry i).state ≠ .queued
  attention : ∀ a, a ≠ broadcastStation → (s.station l a).attention = false
  flush : ∀ a, a ≠ broadcastStation → (s.station l a).flushDue = none

/-- A line cascade reaches entry `i`: a TRANSACT entry of the line that is QUEUED, EXCHANGE, RETRY_WAIT or
DEFERRED (R36, R37, R100). -/
def State.Reached (s : State) (l : Line) (i : EntryIx) : Prop :=
  (s.entry i).kind = .transact ∧ (s.entry i).line = l
    ∧ ((s.entry i).state = .queued ∨ (s.entry i).state = .exchange ∨ (s.entry i).state = .retryWait
      ∨ (s.entry i).state = .deferred)

/-- No entry is bound to the line but RETIRING ones (R35). -/
def State.NoWork (s : State) (l : Line) : Prop := ∀ i, (s.entry i).isWorkOf l = false

/-- A station frame with these fields completes at line `l` with the byte `last`: the receiver is
assembling it, and `last` is its final character (R3, R15). -/
structure State.FrameEnds (s : State) (l : Line) (last : Byte) (addr kind : Nat) (seq attention : Bool)
    (token : Nat) (payload : List Byte) : Prop where
  running : s.device.state = .running
  receiver : (s.line l).receiver = .assemble
  mark : (s.line l).atSpace = false
  frame : ∃ release event, (s.line l).rxBuffer ++ [last] =
    frameChars addr (ctrlByte kind seq attention event true) token release payload
  length : payload.length ≤ 248
  kinds : 8 ≤ kind ∧ kind ≤ 14
  address : addr < 256
  tokens : token < 256

/-- The line is active, its transmitter on: RUNNING, DRAINING or STOPPING (R31, R32). -/
def State.Active (s : State) (l : Line) : Prop :=
  (s.line l).state = .running ∨ (s.line l).state = .draining ∨ (s.line l).state = .stopping

/-- The exchange `ex` of line `l` is in RECEIVE on an active line, addressed to a station 1 to 30. -/
structure State.Receiving (s : State) (l : Line) (ex : Exchange) : Prop where
  active : s.Active l
  phase : (s.line l).phase = .receive
  current : (s.line l).current = some ex
  station : ex.station ≠ broadcastStation

/-- The line engine when a frame has completed and the exchange it belongs to has ended (R15, R46, R47). -/
def LineEngine.afterAnswer (ln : LineEngine) (last : Byte) : LineEngine :=
  { ln with
    receiver := .hunt, jabberTimer := .stopped, rxBuffer := ln.rxBuffer ++ [last], phase := .guard
    windowTimer := .stopped, guardLate := false
    guardTimer := Timer.start ln.params.turnaroundGap, echoFaults := 0 }

/-- The station record's share of an ANSWER before its content: the failures are 0, and the item the frame
carried leaves the release list, wherever it stands; with the list empty the linger timer is stopped and the
release flush due flag cleared (R63, R64, R72). -/
def StationRecord.answered (r : StationRecord) (carried : Option ReleaseItem) : StationRecord :=
  match carried with
  | some item =>
    let left := r.release.filter (· != item)
    { r with
      failures := 0, release := left
      linger := if left = [] then .stopped else r.linger
      flushDue := if left = [] then none else r.flushDue }
  | none => { r with failures := 0 }

/-- No FENCE waits for entry `i`. -/
def State.NoFenceOn (s : State) (i : EntryIx) : Prop :=
  ∀ j, (s.entry j).state = .fenceWait → i ∉ (s.entry j).waitsFor

/-- No ABORT's completion waits for entry `i`. -/
def State.NoAbortOn (s : State) (i : EntryIx) : Prop :=
  ∀ p c, s.admission.places.get p = some c → c.target ≠ some i

/-- The host's side, the Admission Unit, the retire queue and the Payload Store are as they were, and no
indication was given. -/
structure State.SameRest (s t : State) : Prop where
  host : s.SameHost t
  admission : s.SameAdmission t
  queue : t.retire.queue = s.retire.queue
  store : t.store = s.store
  indication : s.NoIndication t
  begins : s.Begins t

/-- An event at line `l` alone: the line's engine is `ln` afterwards, and nothing else changed. -/
structure State.OnlyLine (s t : State) (l : Line) (ln : LineEngine) : Prop where
  line : t.line l = ln
  others : ∀ m, m ≠ l → t.line m = s.line m
  stations : ∀ m a, t.station m a = s.station m a
  entries : ∀ i, t.entry i = s.entry i
  rest : s.SameRest t

/-- An event at entry `i` alone: the entry is `e` afterwards, and nothing else changed. -/
structure State.OnlyEntry (s t : State) (i : EntryIx) (e : Entry) : Prop where
  entry : t.entry i = e
  others : ∀ j, j ≠ i → t.entry j = s.entry j
  lines : ∀ l, t.line l = s.line l
  stations : ∀ l a, t.station l a = s.station l a
  rest : s.SameRest t

/-- The retirement of entry `i` with `status` leaves its station uncertain (R67, R89 step 6). -/
def State.Suspects (s : State) (i : EntryIx) (a : Station) (status : Status) : Prop :=
  ((s.entry i).finalFlags status).mayHaveExecuted = true ∧ a ≠ broadcastStation
    ∧ (s.station (s.entry i).line a).state = .online

/-- The record of a station when its entry `i` has retired: the entry has left the FIFO and the deferred list,
and a token that is to be released has joined the release list, unless it is listed already or the station
takes none; the first item of an empty list starts the linger timer of an active line's station (R89, steps 1
and 4; R61, R71, R73). -/
def StationRecord.afterRetire (r : StationRecord) (i : EntryIx) (release : Option Nat) (active : Bool)
    (linger : Nat) : StationRecord :=
  let gone := { r with fifo := r.fifo.filter (· != i), deferred := r.deferred.filter (· != i) }
  match release with
  | some t =>
    let item : ReleaseItem := { kind := .deferred, token := t }
    if r.state = .absent ∨ r.state = .offline ∨ item ∈ r.release then gone
    else
      { gone with
        release := r.release ++ [item]
        linger := if r.release = [] ∧ active = true then Timer.start (1000 * linger) else r.linger }
  | none => gone

/-- The record of station `a` when its entry `i` has left its lists and the token `release` has joined
the release list; the list of address 31 never changes (R89, R71, R74). -/
def State.unlinked (s : State) (i : EntryIx) (a : Station) (release : Option Nat) : StationRecord :=
  let l := (s.entry i).line
  (s.station l a).afterRetire i (if a = broadcastStation then none else release)
    (s.line l).state.isActive (s.line l).params.releaseLinger

/-- Entry `i` of station `a` retired with `status`, its token `release` appended to the release list; no
ABORT and no FENCE waited on it (R89). -/
structure State.EntryRetired (s t : State) (i : EntryIx) (a : Station) (status : Status)
    (release : Option Nat) : Prop where
  entry : t.entry i = (s.entry i).retired status
  others : ∀ j, j ≠ i → t.entry j = s.entry j
  queue : t.retire.queue = s.retire.queue ++ [{ item := .entry i, stamp := s.time.now }]
  certain : ¬ s.Suspects i a status →
    t.station (s.entry i).line a = s.unlinked i a release ∧ s.NoIndication t
  suspect : s.Suspects i a status →
    t.station (s.entry i).line a = { s.unlinked i a release with state := .suspect }
      ∧ s.OneIndication t (s.entry i).line
          (.stationState (addressOf a) .online .suspect .retireUncertain
            ((s.station (s.entry i).line a).statusWord.getD 0))
  stations : ∀ m c, m ≠ (s.entry i).line ∨ c ≠ a → t.station m c = s.station m c
  lines : ∀ l, t.line l = s.line l
  store : t.store = s.store
  host : s.SameHost t
  admission : s.SameAdmission t
  begins : s.Begins t

/-! ### The ending of an exchange that an entry owns (R63, R82 to R97, R107 to R112) -/

/-- An exchange with station `a` of line `l` has ended for the entry `i` that owned it: the line engine,
the station's record and the entry are `ln`, `r` and `e` afterwards. Nothing else of the lines, the
stations, the Transaction Table and the Admission Unit changed, but for what the retirement of `i` changes
in the immediate places. -/
structure State.ExchangeEnds (s t : State) (l : Line) (a : Station) (ln : LineEngine) (r : StationRecord)
    (i : EntryIx) (e : Entry) : Prop where
  line : t.line l = ln
  station : t.station l a = r
  entry : t.entry i = e
  lines : ∀ m, m ≠ l → t.line m = s.line m
  stations : ∀ m c, m ≠ l ∨ c ≠ a → t.station m c = s.station m c
  entries : ∀ j, j ≠ i → t.entry j = s.entry j
  host : s.SameHost t
  unit : ∀ q, t.ringUnit q = s.ringUnit q
  credit : t.admission.credit = s.admission.credit
  counter : t.admission.counter = s.admission.counter
  asked : t.admission.asked = s.admission.asked
  begins : s.Begins t

/-- The entry goes on as `e`, and nothing retires. -/
structure State.GoesOn (s t : State) (l : Line) (a : Station) (ln : LineEngine) (r : StationRecord)
    (i : EntryIx) (e : Entry) : Prop where
  ends : s.ExchangeEnds t l a ln r i e
  places : t.admission.places = s.admission.places
  queue : t.retire.queue = s.retire.queue
  store : t.store = s.store
  indication : s.NoIndication t

/-- The ABORT whose completion `c` stands in place `p`, and no other, waits for entry `i` (R96). -/
def State.AbortWaits (s : State) (i : EntryIx) (p : PlaceIx) (c : Immediate) : Prop :=
  s.admission.places.get p = some c ∧ c.target = some i
    ∧ ∀ q d, s.admission.places.get q = some d → d.target = some i → q = p

/-- What waits for entry `i`: nothing, or one ABORT. -/
def State.AbortOn (s : State) (i : EntryIx) : Option (PlaceIx × Immediate) → Prop
  | none => s.NoAbortOn i
  | some (p, c) => s.AbortWaits i p c

/-- The flags set while the exchange went on decide the entry's retirement: ABORT_PENDING before
DEADLINE_PASSED (R94, R96, R97). -/
def State.Decided (s : State) (i : EntryIx) (status : Status) (abort : Option (PlaceIx × Immediate)) :
    Prop :=
  s.AbortOn i abort
    ∧ (((s.entry i).abortPending = true ∧ status = .aborted)
      ∨ ((s.entry i).abortPending = false ∧ (s.entry i).deadlinePassed = true ∧ status = .deadline))

/-- Neither flag is set, and no ABORT waits for the entry. -/
def State.Undecided (s : State) (i : EntryIx) : Prop :=
  (s.entry i).abortPending = false ∧ (s.entry i).deadlinePassed = false ∧ s.NoAbortOn i

/-- The immediate places when an entry for which `abort` waited has retired with `status`: that ABORT is
fixed as OK when its target retired ABORTED and TOO_LATE otherwise (R96). -/
def State.placesAfter (s : State) (abort : Option (PlaceIx × Immediate)) (status : Status) :
    Table (Option Immediate) 8 :=
  match abort with
  | some (p, c) => s.admission.places.set p
      (some { c with target := none, status := if status = .aborted then .ok else .tooLate })
  | none => s.admission.places

/-- What joins the retire queue when entry `i` retires: the entry, and an ABORT that waited for it directly
after it (R89, steps 5 and 7; R96). -/
def State.itemsOf (s : State) (i : EntryIx) (abort : Option (PlaceIx × Immediate)) : List QueuedItem :=
  { item := .entry i, stamp := s.time.now } ::
    match abort with
    | some (p, _) => [{ item := .immediate p, stamp := s.time.now }]
    | none => []

/-- The entry, as `e`, retires with `status`, the token `release` going to the release list of its station,
whose record was `r`; an ABORT that waits for it completes directly after it, OK when the target retired
ABORTED and TOO_LATE otherwise; a retirement that leaves an ONLINE station uncertain makes it SUSPECT (R89,
R67, R96). -/
structure State.RetiresAfter (s t : State) (l : Line) (a : Station) (ln : LineEngine) (r : StationRecord)
    (i : EntryIx) (e : Entry) (status : Status) (release : Option Nat)
    (abort : Option (PlaceIx × Immediate)) : Prop where
  certain : (e.finalFlags status).mayHaveExecuted = false ∨ r.state ≠ .online →
    s.ExchangeEnds t l a ln (r.afterRetire i release true ln.params.releaseLinger) i (e.retired status)
      ∧ s.NoIndication t
  suspect : (e.finalFlags status).mayHaveExecuted = true → r.state = .online →
    s.ExchangeEnds t l a ln
        { r.afterRetire i release true ln.params.releaseLinger with state := .suspect } i (e.retired status)
      ∧ s.OneIndication t l
          (.stationState (addressOf a) .online .suspect .retireUncertain (r.statusWord.getD 0))
  places : t.admission.places = s.placesAfter abort status
  queue : t.retire.queue = s.retire.queue ++ s.itemsOf i abort

/-! ### What a line does when an event has changed its work (R35, R36, R37, R51) -/

/-- An entry in FENCE_WAIT is that of a FENCE, which names no station (R141). -/
def State.FencesOk (s : State) : Prop :=
  ∀ j, (s.entry j).state = .fenceWait → (s.entry j).kind = .fence ∧ (s.entry j).station = none

/-- The tokens join a release list in their order, each unless it is listed already (R71). -/
def appendTokens (release : List ReleaseItem) (tokens : List Nat) : List ReleaseItem :=
  tokens.foldl (fun list token =>
    let item : ReleaseItem := { kind := .deferred, token := token }
    if item ∈ list then list else list ++ [item]) release

/-- The cascade of line `l` retired the entries `order` with `status`, one after the other, and `tail` joined
the retire queue behind them (R100, R89, R98, R99, R67): every entry it reaches, in order of admission number;
each one's token went to the release list of its station, unless that is ABSENT or OFFLINE; a FENCE that
waited for some of them counted each as not OK and retired OK where it waits for no more; a station that was
ONLINE and is left uncertain is SUSPECT. -/
structure State.Sweeps (s t : State) (l : Line) (status : Status) (order : List EntryIx)
    (tail : List QueuedItem) : Prop where
  once : order.Nodup
  reached : ∀ i, i ∈ order ↔ s.Reached l i
  sorted : order.Pairwise fun i j => (s.entry i).admission.toNat ≤ (s.entry j).admission.toNat
  retired : ∀ i ∈ order, t.entry i = (s.entry i).retired status
  others : ∀ j, j ∉ order → (s.entry j).state ≠ .fenceWait → t.entry j = s.entry j
  fences : ∀ j, (s.entry j).state = .fenceWait →
    let left := (s.entry j).waitsFor.filter fun i => decide (i ∉ order)
    let counted :=
      (s.entry j).notOkCount + (order.filter fun i => decide (i ∈ (s.entry j).waitsFor)).length
    (left ≠ [] ∨ (s.entry j).waitsFor = [] →
        t.entry j = { s.entry j with waitsFor := left, notOkCount := counted })
      ∧ ((s.entry j).waitsFor ≠ [] → left = [] →
        t.entry j = { s.entry j with notOkCount := counted }.retired .ok)
  queue : ∃ more, t.retire.queue = s.retire.queue ++ more
    ∧ (order.map (fun i => ({ item := .entry i, stamp := s.time.now } : QueuedItem)) ++ tail).Sublist more
    ∧ ((∀ i ∈ order, s.NoFenceOn i) → (∀ i ∈ order, s.NoAbortOn i) →
      more = order.map (fun i => { item := .entry i, stamp := s.time.now }) ++ tail
        ∧ t.admission.places = s.admission.places)
  records : s.FencesOk → ∀ a,
    let mine := fun i => decide (i ∈ order ∧ (s.entry i).station = some a)
    let closed := a = broadcastStation ∨ (s.station l a).state = .absent
      ∨ (s.station l a).state = .offline
    t.station l a =
        { s.station l a with
          state := (t.station l a).state
          release := if closed then (s.station l a).release
            else appendTokens (s.station l a).release
              ((order.filter mine).filterMap fun i => (s.entry i).token)
          fifo := (s.station l a).fifo.filter fun i => !mine i
          deferred := (s.station l a).deferred.filter fun i => !mine i
          linger := .stopped, flushDue := none }
      ∧ ((∃ i ∈ order, (s.entry i).station = some a ∧ s.Suspects i a status) →
          (t.station l a).state = .suspect)
      ∧ ((¬ ∃ i ∈ order, (s.entry i).station = some a ∧ s.Suspects i a status) →
          (t.station l a).state = (s.station l a).state)

/-- Line `l` comes to rest in `state`: its entries retire with `swept`; a STOP or DRAIN that is pending
completes with `done` behind them; every timer of the line stops, the linger timers of its stations too; the
indications are those of the stations that became SUSPECT, and then the LINE_STATE one (R36, R37, R38, R67,
R100). -/
structure State.RestsAs (s t : State) (l : Line) (state : LineState) (cause : FaultCause)
    (swept done : Status) : Prop where
  line : t.line l =
    { s.line l with
      state := state, faultCause := cause
      control := match (s.line l).control with
        | .pending op tag ring => .completed op tag ring done
        | c => c
      phase := .idle, current := none, receiver := .off, rxLate := false, guardLate := false
      beaconDue := false, reprobeDue := false, windowTimer := .stopped, guardTimer := .stopped
      beaconTimer := .stopped, probeTimer := .stopped, jabberTimer := .stopped }
  cascade : ∃ order,
    s.Sweeps t l swept order (match (s.line l).control with
      | .pending _ _ _ => [{ item := .lineControl l, stamp := s.time.now }]
      | _ => [])
    ∧ (s.FencesOk →
      ∃ suspects : List Station, suspects.Nodup
        ∧ (∀ a, a ∈ suspects ↔ ∃ i ∈ order, (s.entry i).station = some a ∧ s.Suspects i a swept)
        ∧ (suspects.foldl (fun u a => u.indicate l
            (.stationState (addressOf a) .online .suspect .retireUncertain
              ((s.station l a).statusWord.getD 0))) s).OneIndication t l (.lineState state cause))
  others : ∀ m, m ≠ l → t.line m = s.line m
  stations : s.FencesOk → ∀ m a, m ≠ l → t.station m a = s.station m a
  unit : ∀ r, t.ringUnit r = s.ringUnit r
  credit : t.admission.credit = s.admission.credit
  counter : t.admission.counter = s.admission.counter
  asked : t.admission.asked = s.admission.asked
  store : t.store = s.store
  host : s.SameHost t
  begins : s.Begins t

/-- The line engine when the exchange `ex` is granted: TRANSMIT begins with the receiver in ECHO (R42). -/
def LineEngine.sending (ln : LineEngine) (ex : Exchange) : LineEngine :=
  { ln with
    phase := .transmit, current := some ex, receiver := .echo, rxLate := false, jabberTimer := .stopped }

/-- The arbiter of an IDLE line was evaluated. With the receiver away from HUNT, or without a candidate,
nothing is granted. Else what is chosen is granted. A FIFO head of an ONLINE station is granted its POLL: the
entry is in EXCHANGE, with one more attempt used, and the frame carries the station's address, its sequence
bit, DEFER_OK as the flag, no token, the oldest release item and the request; to address 31 it carries no SEQ,
flag or item. For a head of an UNKNOWN or SUSPECT station a SYNC goes first, SEQ the inverse of the sequence
bit, with PURGE for an UNKNOWN one. A due collect is granted its COLLECT with the entry's token, an attention
its EVENT_FETCH, which becomes the event rotation, a flush its PROBE, a due re-probe a SYNC with PURGE to the
next OFFLINE station after the probe rotation, which it becomes; with none OFFLINE only its flag is cleared,
and the arbiter evaluated again. A due BEACON carries device time and the beacon number. A frame to a station
that is owed a release restarts its linger timer and clears its flush. The credit becomes 0 with a ring L head,
rises by 1, to at most 8, with a grant of the first four categories while a QUEUED ring L head waits, and
stands otherwise (R51, R42, R82, R92, R9, R10, R53, R54, R55, R56, R57, R73, R106). -/
def State.Evaluates (s t : State) (l : Line) : Prop :=
  let ln := s.line l
  let owed := fun r : StationRecord =>
    if r.release = [] then r
    else { r with linger := Timer.start (1000 * ln.params.releaseLinger), flushDue := none }
  let frame := fun kind owner a seq flag token payload =>
    ({ kind := kind, owner := owner, station := a, seq := seq, flag := flag, token := token
       carried := (s.station l a).release.head?
       chars := masterChars kind (addressOf a) seq flag token (s.station l a).release.head? payload
       echoed := 0, beaconTime := 0, beaconNumber := 0 } : Exchange)
  let toAll := fun kind owner payload =>
    ({ kind := kind, owner := owner, station := broadcastStation, seq := false, flag := false
       token := 0, carried := none, chars := masterChars kind 31 false false 0 none payload
       echoed := 0, beaconTime := s.time.now, beaconNumber := ln.beaconNumber } : Exchange)
  let granted := fun (from_ : LineEngine) (ex : Exchange) (entries : EntryIx → Entry) =>
    t.line l = from_.sending ex ∧ (∀ j, t.entry j = entries j)
      ∧ t.station l ex.station =
          (if ex.station = broadcastStation then s.station l ex.station
          else owed (s.station l ex.station))
      ∧ (∀ c, c ≠ ex.station → t.station l c = s.station l c) ∧ s.SameOtherLines t l ∧ s.SameRest t
  let request := fun i => s.store.bytes.readChain (s.entry i).requestChain (s.entry i).requestLength
  let polled := fun i j =>
    if j = i then
      { s.entry i with
        state := .exchange, attemptsUsed := (s.entry i).attemptsUsed + 1, everSent := true }
    else s.entry j
  let collected := fun i j =>
    if j = i then
      { s.entry i with
        state := .exchange, collectAttemptsUsed := (s.entry i).collectAttemptsUsed + 1
        dueTime := none }
    else s.entry j
  let low := ∃ a i rest, (s.station l a).fifo = i :: rest ∧ (s.entry i).state = .queued
    ∧ (s.entry i).ring = .l
  (ln.receiver ≠ .hunt ∨ s.NothingToGrant l → t = s)
  ∧ (ln.receiver = .hunt → ∀ more,
    (low → ln.credit < 8 → more = ln.credit + 1) →
    (¬ low ∨ 8 ≤ ln.credit → more = ln.credit) →
    (∀ a i, s.choose l = some (.head a i) →
      let from_ := { ln with credit := if (s.entry i).ring = .l then 0 else more }
      let r := s.station l a
      (a ≠ broadcastStation → r.state ≠ .unknown → r.state ≠ .suspect →
        granted from_ (frame .poll (.entry i) a r.seqBit (s.entry i).deferOk 0 (request i)) (polled i))
      ∧ (a = broadcastStation → granted from_ (toAll .poll (.entry i) (request i)) (polled i))
      ∧ (a ≠ broadcastStation → r.state = .unknown →
        granted from_ (frame .sync .station a (!r.seqBit) true 0 []) s.entry)
      ∧ (a ≠ broadcastStation → r.state = .suspect →
        granted from_ (frame .sync .station a (!r.seqBit) false 0 []) s.entry))
    ∧ (∀ a i, s.choose l = some (.collect i) → (s.entry i).station = some a →
        a ≠ broadcastStation →
      granted { ln with credit := more }
        (frame .collect (.entry i) a false false ((s.entry i).token.getD 0) []) (collected i))
    ∧ (∀ a, s.choose l = some (.eventFetch a) →
      granted { ln with credit := more, eventRotation := addressOf a }
        (frame .eventFetch .station a false false 0 []) s.entry)
    ∧ (∀ a, s.choose l = some (.flush a) →
      granted ln (frame .probe .station a false false 0 []) s.entry)
    ∧ (s.choose l = some .beacon →
      granted { ln with credit := more, beaconDue := false }
        (toAll .beacon .beacon (le32 s.time.now ++ le16 ln.beaconNumber)) s.entry)
    ∧ (s.choose l = some .reprobe →
      let clear := { ln with reprobeDue := false }
      let offline := fun a => a ≠ broadcastStation ∧ (s.station l a).state = .offline
      let round := ln.probeRotation
      (∀ a, offline a →
          (∀ b, offline b →
            (round < addressOf a ∧ (round < addressOf b → addressOf a ≤ addressOf b))
              ∨ (addressOf b ≤ round ∧ addressOf a ≤ addressOf b)) →
        granted { clear with probeRotation := addressOf a }
          (frame .sync .station a (!(s.station l a).seqBit) true 0 []) s.entry)
      ∧ ((∀ a, ¬ offline a) →
        (∀ a, (s.setLine l clear).choose l = some (.flush a) →
          granted clear (frame .probe .station a false false 0 []) s.entry)
        ∧ ((s.setLine l clear).choose l = none → s.OnlyLine t l clear))))

/-- What line `l` does when an event has changed its work. A STOPPING line with no exchange in flight, and a
DRAINING one that holds no entry either, comes to rest STOPPED. The arbiter of an IDLE line that is RUNNING, or
DRAINING with an entry, is evaluated. Any other line goes on as it is (R35, R36, R51). -/
structure State.Settles (s t : State) (l : Line) : Prop where
  rests : (s.line l).inFlight = false →
    (s.line l).state = .stopping ∨ ((s.line l).state = .draining ∧ s.NoWork l) →
    s.RestsAs t l .stopped .none .lineStopped .ok
  evaluates : (s.line l).state = .running ∨ ((s.line l).state = .draining ∧ ¬ s.NoWork l) →
    (s.line l).phase = .idle → s.Evaluates t l
  goesOn : ((s.line l).state = .running ∨ ((s.line l).state = .draining ∧ ¬ s.NoWork l))
        ∧ (s.line l).phase ≠ .idle
      ∨ ((s.line l).state = .draining ∨ (s.line l).state = .stopping) ∧ (s.line l).inFlight = true
      ∨ (s.line l).state = .stopped ∨ (s.line l).state = .faulted →
    t = s

/-- The command `c` does to the part what `did` says, after which line `l` does what its changed work asks
of it. -/
def State.Then (s : State) (c : Instr) (l : Line) (did : State → Prop) : Prop :=
  ∃ u t, exec c s = .next t ∧ did u ∧ u.Settles t l

/-- As `Then`, for a command that concerns the line's work only while the line is IDLE: the receiver's return
to HUNT, on which the arbiter is evaluated (R51). -/
def State.ThenIfIdle (s : State) (c : Instr) (l : Line) (did : State → Prop) : Prop :=
  ∃ u t, exec c s = .next t ∧ did u
    ∧ ((u.line l).phase = .idle → u.Settles t l) ∧ ((u.line l).phase ≠ .idle → t = u)

/-- The command `c` does to the part what `did` says, and then line `l` faults with `cause`: its entries retire
LINE_FAULT, and so does a STOP or DRAIN that is pending (R37). -/
def State.ThenFaults (s : State) (c : Instr) (l : Line) (cause : FaultCause) (did : State → Prop) : Prop :=
  ∃ u t, exec c s = .next t ∧ did u ∧ u.RestsAs t l .faulted cause .lineFault .lineFault

/-- A DEFER's token passes the token test (R103). -/
def State.TokenPasses (s : State) (l : Line) (ex : Exchange) (token : Nat) : Prop :=
  (∀ j ∈ (s.station l ex.station).deferred, (s.entry j).token ≠ some token)
    ∧ (({ kind := .deferred, token := token } : ReleaseItem) ∈ (s.station l ex.station).release →
      ex.carried = some { kind := .deferred, token := token })

/-- A valid station frame with these fields is no acceptable answer to the exchange `ex`: it comes from another
address, or its kind or fields are none that may answer the master frame (R18, R19, R103). -/
def State.WrongFor (s : State) (l : Line) (ex : Exchange) (addr kind : Nat) (seq : Bool) (token : Nat)
    (payload : List Byte) : Prop :=
  addr ≠ addressOf ex.station
    ∨ (ex.kind = .poll ∧ ¬ (kind = 8 ∧ seq = ex.seq ∧ token = 0)
      ∧ ¬ (kind = 9 ∧ ex.flag = true ∧ 1 ≤ token ∧ token ≤ 15 ∧ s.TokenPasses l ex token)
      ∧ ¬ (kind = 11 ∧ (payload = [1] ∨ payload = [2])))
    ∨ (ex.kind = .collect ∧ ¬ (kind = 8 ∧ token = ex.token) ∧ ¬ (kind = 10 ∧ token = ex.token)
      ∧ ¬ (kind = 11 ∧ payload = [3]))
    ∨ ((ex.kind = .probe ∨ ex.kind = .sync) ∧ ¬ (kind = 12 ∧ payload.length = 2))
    ∨ (ex.kind = .eventFetch ∧ ¬ (kind = 13 ∧ 1 ≤ token ∧ token ≤ 15) ∧ kind ≠ 14)

/-- The attempt of the exchange `ex` fails in the command `c`: no sync arrives within the response window
(NO_ANSWER), the sequence breaks or fails a check (BAD_FRAME: a break, a framing error or a LEN above 248 in
DISCARD, a failed CRC, direction or kind in HUNT), or a valid frame is no acceptable answer (WRONG_ANSWER). A
BAD_FRAME and a WRONG_ANSWER count one error. GUARD begins, with the late guard added after a NO_ANSWER; `ln`
is the line engine then (R14 to R16, R44 to R47, R50). -/
def State.AttemptFailsBy (s : State) (l : Line) (ex : Exchange) (c : Instr) (detail : Detail)
    (ln : LineEngine) : Prop :=
  let before := s.line l
  let errors := min 65535 (before.errors + 1)
  let guarded := fun from_ : LineEngine =>
    { from_ with
      errors := errors, phase := .guard, windowTimer := .stopped, guardLate := false
      guardTimer := Timer.start before.params.turnaroundGap, echoFaults := 0 }
  (c = .responseWindowExpiry l ∧ detail = .noAnswer ∧ before.phase = .listen
    ∧ before.windowTimer = .expired
    ∧ ln = { before with
      phase := .guard, windowTimer := .stopped, guardLate := true, echoFaults := 0
      guardTimer := Timer.start (before.params.turnaroundGap + before.params.lateGuard) })
  ∨ (detail = .badFrame ∧ before.phase = .receive ∧ before.receiver = .assemble
    ∧ ((c = .sequenceBreak l ∧ ln = guarded { before with receiver := .discard })
      ∨ ∃ char : LineChar, c = .badFrame l char ∧ before.atSpace = false
        ∧ let buffer := before.rxBuffer ++ [char.data]
          let length := (byteAt buffer 3).toNat
          (char.framingError = true ∨ (6 ≤ buffer.length ∧ 248 < length))
              ∧ ln = guarded
                { before with receiver := .discard, atSpace := char.framingError, rxBuffer := buffer }
            ∨ (char.framingError = false ∧ length ≤ 248 ∧ buffer.length = 8 + length
              ∧ frameValid buffer = false
              ∧ ln = guarded
                { before with receiver := .hunt, jabberTimer := .stopped, rxBuffer := buffer })))
  ∨ (∃ last addr kind seq attention token payload,
    s.FrameEnds l last addr kind seq attention token payload ∧ before.phase = .receive
      ∧ s.WrongFor l ex addr kind seq token payload ∧ c = .validStationFrame l last
      ∧ detail = .wrongAnswer ∧ ln = { before.afterAnswer last with errors := errors })

/-! ### The moment of application (R129) -/

/-- Checks 1 to 6 of R131 for a TRANSACT. -/
def TransactShape (b : List Byte) : Prop :=
  recLineNumber b ≤ 3 ∧ (1 ≤ recStationNumber b ∧ recStationNumber b ≤ 31)
    ∧ recRequestLength b ≤ 248 ∧ recAttempts b ≤ 8 ∧ zeroFieldsOk b = true

/-- Check 7 for a TRANSACT (R132): a range of length 0 passes, and so does the reply range of a
broadcast. -/
def State.TransactRanges (s : State) (b : List Byte) : Prop :=
  (recRequestLength b = 0 ∨ s.cfg.mayRead (recRequestAddress b) (recRequestLength b) = true)
    ∧ (recReplyLength b = 0 ∨ recStationNumber b = 31
      ∨ s.cfg.mayWrite (recReplyAddress b) (recReplyLength b) = true)

/-- Check 8 (R133): an occupied entry of the ring holds the tag. -/
def State.TagTaken (s : State) (r : Ring) (tag : Half) : Prop :=
  ∃ i, (s.entry i).state ≠ .free ∧ (s.entry i).ring = r ∧ (s.entry i).tag = tag

/-- A TRANSACT of ring `r` passes its ten checks (R131 to R133). -/
def State.TransactPasses (s : State) (r : Ring) (b : List Byte) : Prop :=
  TransactShape b ∧ s.TransactRanges b ∧ ¬ s.TagTaken r (recTag b)
    ∧ (s.line (recLine b)).state = .running
    ∧ (s.station (recLine b) (recStation b)).state ≠ .absent
    ∧ (s.station (recLine b) (recStation b)).state ≠ .offline

/-- The FREE entry with the lowest index (R137). -/
def State.LowestFree (s : State) (i : EntryIx) : Prop :=
  (s.entry i).state = .free ∧ ∀ j, j < i → (s.entry j).state ≠ .free

/-- Some immediate place is FREE (R135). -/
def State.HasPlace (s : State) : Prop := ∃ p, s.admission.places.get p = none

/-- The application stage is granted to the record `b` of ring `g.ring`, which does not carry
READ_FAILED. -/
def State.AtApplication (s : State) (g : Grant) (b : List Byte) : Prop :=
  s.device.state = .running ∧ s.admission.stage = some g
    ∧ (s.ringUnit g.ring).hold = { state := .ready, bytes := b, readFailed := false }

/-- The accesses asked for when the record of ring `r` leaves its hold: the shadow write of the new head,
unless one is in flight, and the fetch of the next record, if the host has made one available (R128,
log 33). -/
def State.leaveAsks (s : State) (r : Ring) : List AdmissionAccess :=
  (if (s.ringUnit r).shadow = .idle then [.shadow r] else [])
    ++ (if (s.ringUnit r).tail = (s.ringUnit r).head + 1 then [] else [.fetch r])

/-- The record was applied and has left its hold: it took an admission number (R136), its grant ended in
application, which freed the stage for the next grant (R129), and the head moved on (R128). -/
structure State.AppliedAndLeft (s t : State) (g : Grant) : Prop where
  counter : t.admission.counter = s.admission.counter + 1
  credit : t.admission.credit = creditApplied g s.admission.credit
  stage : t.admission.stage = t.regrant
  posting : s.PostingAfter t
  unit : t.ringUnit g.ring = (s.ringUnit g.ring).leave
  other : t.ringUnit (otherRing g.ring) = s.ringUnit (otherRing g.ring)
  asked : t.admission.asked = s.admission.asked ++ s.leaveAsks g.ring

/-- The record was applied, and its completion with `status` and `result` stands in an immediate place
that was FREE and at the tail of the retire queue (R134, R135). -/
structure State.CompletedBy (s t : State) (g : Grant) (b : List Byte) (status : Status)
    (result : List Byte) : Prop where
  applied : s.AppliedAndLeft t g
  completion : ∃ p, s.admission.places.get p = none
    ∧ t.admission.places = s.admission.places.set p
        (some { tag := recTag b, ring := g.ring, kind := recKindByte b, status := status,
                result := padTo 12 result, target := none })
    ∧ t.retire.queue = s.retire.queue ++ [{ item := .immediate p, stamp := s.time.now }]

/-- The record was rejected or completed with nothing else of the part changed (R134). -/
def State.OnlyCompleted (s t : State) (g : Grant) (b : List Byte) (status : Status)
    (result : List Byte) : Prop :=
  s.CompletedBy t g b status result ∧ s.SameHost t ∧ s.SameWork t ∧ s.NoIndication t

/-- The record was set aside: its hold waits for what it lacks, the stage is free for the next grant, and
nothing else changed (R129, R130). -/
structure State.SetAside (s t : State) (g : Grant) (b : List Byte) (lacks : List Resource) : Prop where
  hold : (t.ringUnit g.ring).hold = { state := .waiting lacks, bytes := b, readFailed := false }
  tail : (t.ringUnit g.ring).tail = (s.ringUnit g.ring).tail
  head : (t.ringUnit g.ring).head = (s.ringUnit g.ring).head
  shadow : (t.ringUnit g.ring).shadow = (s.ringUnit g.ring).shadow
  other : t.ringUnit (otherRing g.ring) = s.ringUnit (otherRing g.ring)
  credit : t.admission.credit = s.admission.credit
  stage : t.admission.stage = t.regrant
  posting : s.PostingAfter t
  counter : t.admission.counter = s.admission.counter
  places : t.admission.places = s.admission.places
  asked : t.admission.asked = s.admission.asked
  queue : t.retire.queue = s.retire.queue
  host : s.SameHost t
  work : s.SameWork t
  indication : s.NoIndication t

/-! ### Returns of resources (R130) -/

/-- The resources `freed` have returned: a hold that waits for one of them is READY, and any other hold is
as it was (R130). -/
def State.ReturnedTo (s t : State) (freed : List Resource) (r : Ring) : Prop :=
  (∀ lacks, (s.ringUnit r).hold.state = .waiting lacks → (∃ x ∈ freed, x ∈ lacks) →
      t.ringUnit r = { s.ringUnit r with hold := { (s.ringUnit r).hold with state := .ready } })
    ∧ ((∀ lacks, (s.ringUnit r).hold.state = .waiting lacks → ∀ x ∈ freed, x ∉ lacks) →
      t.ringUnit r = s.ringUnit r)

/-- What the posting of an item frees: an entry, with segments when it held any, an immediate place, or a
control place (R149). -/
def State.freedBy (s : State) : RetireItem → List Resource
  | .entry i =>
    .entry :: if (s.entry i).requestChain = [] ∧ (s.entry i).replyReservation = [] then [] else [.segments]
  | .immediate _ => [.immediatePlace]
  | .lineControl l => [.controlPlace l]

/-! ### Accesses stopped by a halt or a reset (R165, R171) -/

/-- What stands of a stopped shadow write: nothing, its low byte or its high byte (R171, log 7). The write
whose own error stops the part is not stopped once more. -/
def State.ShadowPart (s : State) (failed : Option WriteId) (r : Ring) (x : List BusWrite) : Prop :=
  x = [] ∨ (failed ≠ some (.shadow r) ∧ ∃ w, s.shadowAccess r = some w
    ∧ (x = [{ addr := w.addr, bytes := w.bytes.take 1 }]
      ∨ x = [{ addr := w.addr + 1, bytes := w.bytes.drop 1 }]))

/-- What stands of a stopped posting: leading bytes of the reply copy in flight, or leading bytes of the
completion record in flight and never its last, the phase byte (R148, R171). -/
def State.PostingPart (s : State) (failed : Option WriteId) (x : List BusWrite) : Prop :=
  x = []
    ∨ (s.retire.posting = .copying ∧ failed ≠ some .reply ∧ ∃ w n, s.replyAccess = some w
      ∧ n ≤ w.bytes.length ∧ x = [{ addr := w.addr, bytes := w.bytes.take n }])
    ∨ ∃ copyFailed, s.retire.posting = .writing copyFailed ∧ failed ≠ some .completion
      ∧ ∃ w n, s.completionAccess copyFailed = some w
        ∧ n < w.bytes.length ∧ x = [{ addr := w.addr, bytes := w.bytes.take n }]

/-- What stands of a stopped indication write: leading bytes of the record in flight and never its last,
the phase byte (R153, R171). -/
def State.IndicationPart (s : State) (failed : Option WriteId) (x : List BusWrite) : Prop :=
  x = [] ∨ (s.ind.writing = true ∧ failed ≠ some .indication ∧ ∃ w n, s.indicationAccess = some w
    ∧ n < w.bytes.length ∧ x = [{ addr := w.addr, bytes := w.bytes.take n }])

/-- What a halt or a reset leaves in host memory of the writes in flight, newest first (R165). -/
def State.StoppedWrites (s : State) (failed : Option WriteId) (placed : List BusWrite) : Prop :=
  ∃ h l posting indication, placed = indication ++ (posting ++ (l ++ h))
    ∧ s.ShadowPart failed .h h ∧ s.ShadowPart failed .l l
    ∧ s.PostingPart failed posting ∧ s.IndicationPart failed indication

/-- The request bytes that the load of ring `r` may have read when it is stopped: no more than the request
has; none where no load is in flight, or where the port refuses its range (R124, R138, R165). -/
def State.LoadPart (s : State) (r : Ring) (received : List Byte) : Prop :=
  match (s.ringUnit r).hold.state with
  | .loading i false =>
    received.length ≤ (s.entry i).requestLength ∧ (s.loadAllowed i = false → received = [])
  | _ => received = []

/-- The segments that the load of ring `r` fills (R119). -/
def State.loadChain (s : State) (r : Ring) : List SegIx :=
  match (s.ringUnit r).hold.state with
  | .loading i false => (s.entry i).requestChain
  | _ => []

/-! ### Halting (R166, R167) -/

/-- The part halted with `cause`, raised by `source`: every block keeps what it held (R167), but for the
bytes that the reads in flight had received (R124, R138, R144) and, beyond `before`, the bytes that the
writes in flight had placed in host memory (R165). -/
structure State.HaltedBy (s t : State) (cause : HaltCause) (source : HaltSource)
    (before : List BusWrite) : Prop where
  device : t.device = { s.device with state := .halted, haltCause := cause }
  notify : t.notify = { s.notify with halt := true }
  pending : t.pending = s.pending
  resetInput : t.resetInput = s.resetInput
  time : t.time = s.time
  lines : t.lines = s.lines
  stations : t.stations = s.stations
  entries : t.entries = s.entries
  freeQueue : t.store.freeQueue = s.store.freeQueue
  memory : ∃ h l, s.LoadPart .h h ∧ s.LoadPart .l l
    ∧ t.store.bytes = (s.store.bytes.writeChain (s.loadChain .h) h).writeChain (s.loadChain .l) l
  retire : t.retire = s.retire
  ind : t.ind = s.ind
  cplRing : t.cplRing = s.cplRing
  indRing : t.indRing = s.indRing
  places : t.admission.places = s.admission.places
  stage : t.admission.stage = s.admission.stage
  credit : t.admission.credit = s.admission.credit
  counter : t.admission.counter = s.admission.counter
  asked : t.admission.asked = s.admission.asked
  units : ∀ r, ∃ bytes,
    t.ringUnit r = { s.ringUnit r with hold := { (s.ringUnit r).hold with bytes := bytes } }
      ∧ (source ≠ .fetch r →
        if (s.ringUnit r).hold.state = .fetching ∧ s.fetchAllowed r = true then bytes.length ≤ 64
        else bytes = (s.ringUnit r).hold.bytes)
  writes : ∃ placed, s.StoppedWrites source.failedWrite placed ∧ t.busWrites = placed ++ before

/-! ### Invariants -/

/-- The Payload Store's bytes are in canonical form. -/
def State.MemoryOk (s : State) : Prop := s.store.bytes.wf = true

/-- The segments that the chains of the entries hold, entry by entry. -/
def State.heldSegments (s : State) : List SegIx :=
  (List.finRange 64).flatMap fun i => (s.entry i).requestChain ++ (s.entry i).replyReservation

/-- Every segment stands in exactly one place, and a FREE entry holds none (R115). -/
def State.SegmentsOk (s : State) : Prop :=
  (s.store.freeQueue ++ s.heldSegments).Perm (List.finRange 256)
    ∧ ∀ i, (s.entry i).state = .free →
        (s.entry i).requestChain = [] ∧ (s.entry i).replyReservation = []

/-- No two occupied entries of one ring hold the same tag (R80). -/
def State.TagsOk (s : State) : Prop :=
  ∀ i j, i ≠ j → (s.entry i).state ≠ .free → (s.entry j).state ≠ .free →
    (s.entry i).ring = (s.entry j).ring → (s.entry i).tag ≠ (s.entry j).tag

/-- While the part runs, no written ring holds more unseen records than its size, and one more fits while
a record is being written (R145, R149); before it runs, nothing is unseen. -/
def State.RoomOk (s : State) : Prop :=
  (s.device.state = .idle ∨ s.device.state = .starting →
      s.cplRing = WrittenRing.reset ∧ s.indRing = WrittenRing.reset ∧ s.retire.posting = .idle
        ∧ s.ind.writing = false ∧ s.device.config = none)
    ∧ (s.device.state = .running ∨ s.device.state = .halted →
      ringSizeOk s.cfg.completionRing.size = true ∧ ringSizeOk s.cfg.indicationRing.size = true
        ∧ s.unseen .completion ≤ s.cfg.completionRing.size
        ∧ s.unseen .indication ≤ s.cfg.indicationRing.size
        ∧ (s.retire.posting ≠ .idle → s.unseen .completion < s.cfg.completionRing.size)
        ∧ (s.ind.writing = true → s.unseen .indication < s.cfg.indicationRing.size))

/-- The record of address 31 on every line is as R74 fixes it, but for its FIFO. -/
def State.BroadcastOk (s : State) : Prop :=
  ∀ l, s.station l broadcastStation
    = { StationRecord.broadcast with fifo := (s.station l broadcastStation).fifo }

end Sys2Proof.Machine
end

