-- ==== Sys2Proof/Certificates/Slice0/Obligations.lean ====
section
/-! DEFINITION. The statements for the provers, in the order of OBLIGATIONS.json. -/

open Sys2Proof Sys2Proof.Machine

/-! ### The step and the queue of commands -/

/-- The step takes the command at the front of the queue, with the queue's rest, and no command touches
the queue (the model's choice, log 1). -/
def Obligations.StepRunsFrontCommand : Prop :=
  (∀ (c : Instr) (rest : List Instr) (s : State), s.pending = c :: rest →
      step s = exec c { s with pending := rest })
    ∧ ∀ (c : Instr) (s t : State), exec c s = .next t → t.pending = s.pending

/-- With no command waiting the step is one input clock cycle: in RUNNING the prescaler count advances,
or the cycle carries, which is PRESCALER_CARRY; in any other device state nothing changes (log 1, the
model's choice; R22). -/
def Obligations.IdleStepIsOneClockCycle : Prop :=
  ∀ s : State, s.pending = [] →
    (s.device.state ≠ .running → step s = .next s)
    ∧ (s.device.state = .running → s.time.prescaler + 1 < s.cfg.clock →
        step s = .next { s with time := { s.time with prescaler := s.time.prescaler + 1 } })
    ∧ (s.device.state = .running → s.cfg.clock ≤ s.time.prescaler + 1 →
        step s = exec .prescalerCarry s)


/-! ### Reset and the device state -/

/-- The values after a hard reset, block by block (R168, R31, R39, R59, R74, R78, R116, R125, R127,
R129, R136, R152). -/
def Obligations.ResetValues : Prop :=
  State.reset.device =
      { state := .idle, config := none, startError := .none, haltCause := .none, configAddr := 0 }
    ∧ State.reset.time.prescaler = 0 ∧ State.reset.time.now = 0
    ∧ (∀ r, (State.reset.ringUnit r).tail = 0 ∧ (State.reset.ringUnit r).head = 0
        ∧ (State.reset.ringUnit r).hold.state = .empty ∧ (State.reset.ringUnit r).shadow = .idle)
    ∧ State.reset.admission.stage = none ∧ State.reset.admission.asked = []
    ∧ State.reset.admission.credit = 0 ∧ State.reset.admission.counter = 0
    ∧ (∀ p, State.reset.admission.places.get p = none)
    ∧ (∀ l, (State.reset.line l).state = .stopped ∧ (State.reset.line l).faultCause = .none
        ∧ (State.reset.line l).phase = .idle ∧ (State.reset.line l).current = none
        ∧ (State.reset.line l).control = .empty ∧ (State.reset.line l).receiver = .off
        ∧ (State.reset.line l).rxBuffer = []
        ∧ (State.reset.line l).errors = 0 ∧ (State.reset.line l).echoFaults = 0
        ∧ (State.reset.line l).credit = 0 ∧ (State.reset.line l).eventRotation = 0
        ∧ (State.reset.line l).probeRotation = 0 ∧ (State.reset.line l).beaconNumber = 0
        ∧ (State.reset.line l).markCount = 0 ∧ (State.reset.line l).beaconDue = false
        ∧ (State.reset.line l).reprobeDue = false ∧ (State.reset.line l).windowTimer = .stopped
        ∧ (State.reset.line l).guardTimer = .stopped ∧ (State.reset.line l).beaconTimer = .stopped
        ∧ (State.reset.line l).probeTimer = .stopped ∧ (State.reset.line l).jabberTimer = .stopped
        ∧ (State.reset.line l).params =
            { rateCode := 4, responseWindow := 5000, turnaroundGap := 200, lateGuard := 5000,
              retryHoldoffBase := 2000, defaultAttempts := 3, failureThreshold := 3,
              collectInterval := 20, collectLimit := 50, probeInterval := 1000, beaconPeriod := 0,
              markValue := 1, releaseLinger := 50 })
    ∧ (∀ l a, State.reset.station l a =
        { state := if a = broadcastStation then .online else .absent, seqBit := false, failures := 0,
          attention := false, statusWord := none, fifo := [], deferred := [], release := [],
          flushDue := none, linger := .stopped })
    ∧ (∀ i, State.reset.entry i =
        { state := .free, kind := .transact, ring := .h, tag := 0, admission := 0, line := 0
          station := none, deferOk := false, requestLength := 0, requestAddress := 0
          replyBufferLength := 0, replyBufferAddress := 0, replyLimit := 0, deadline := 0
          attemptLimit := 1, attemptsUsed := 0, collectAttemptsUsed := 0, collectsUsed := 0
          deadlineTimer := .stopped, phaseTimer := .stopped, dueTime := none, token := none
          everSent := false, unansweredAttempt := false, abortPending := false
          deadlinePassed := false, wasDeferred := false, lastEnding := .none, requestChain := []
          replyReservation := [], replyTrueLength := none, waitsFor := [], waitPlaced := 0
          notOkCount := 0, final := none })
    ∧ State.reset.store.freeQueue = List.finRange 256
    ∧ State.reset.retire.queue = [] ∧ State.reset.retire.posting = .idle
    ∧ State.reset.ind.queue = [] ∧ State.reset.ind.lost = 0 ∧ State.reset.ind.writing = false
    ∧ (∀ r, (State.reset.writtenRing r).posted = 0 ∧ (State.reset.writtenRing r).hostHead = 0)
    ∧ (∀ r, State.reset.notify.coalesced r =
        { cause := false, holdoff := .stopped, rearm := .stopped })
    ∧ State.reset.notify.halt = false
    ∧ State.reset.notify.mask = { completion := false, indication := false, halt := false }
    ∧ State.reset.interruptActive = false

/-- A soft reset, in any device state and at any point, returns every block to its reset value and
keeps CONFIG_ADDR; the hard reset input does the same and clears it, and stands asserted or released as
it is given. What the host memory holds is kept, but that of each write of a RUNNING part in flight some
leading bytes may stand, and never the phase byte of a record. While the hard reset input is asserted every
register write is dropped. The model's choices in this: the reset input (log 17), what such a write places
(log 7), that an unlisted byte of the Payload Store reads 0 and none is listed after a reset (log 9), that
every line is at mark after a reset (log 10), and the count of increments (log 4) (R168, R161, R165, R171). -/
def Obligations.ResetsReturnEveryBlock : Prop :=
  (∀ (s : State) (c : Instr), s.resetInput = true → isRegisterWrite c = true → exec c s = .next s)
  ∧ ∀ s : State,
    let returned := fun (addr : HostAddr) (input : Bool) (t : State) =>
      t.device = { State.reset.device with configAddr := addr }
      ∧ t.resetInput = input ∧ t.time = State.reset.time ∧ t.admission = State.reset.admission
      ∧ t.lines = State.reset.lines ∧ t.stations = State.reset.stations
      ∧ t.entries = State.reset.entries ∧ t.store = State.reset.store
      ∧ t.retire = State.reset.retire ∧ t.cplRing = State.reset.cplRing ∧ t.ind = State.reset.ind
      ∧ t.indRing = State.reset.indRing ∧ t.notify = State.reset.notify ∧ t.pending = s.pending
      ∧ (s.device.state ≠ .running → t.busWrites = s.busWrites)
      ∧ ∃ placed, s.StoppedWrites none placed ∧ (s.device.state = .running ∨ placed = [])
        ∧ t.busWrites = placed ++ s.busWrites
    (∀ input, ∃ t, exec (.hardReset input) s = .next t ∧ returned 0 input t)
    ∧ (∀ v, v.getLsbD 1 = true → s.resetInput = false →
        ∃ t, exec (.controlReset v) s = .next t ∧ returned s.device.configAddr false t)
    ∧ (∀ v, v.getLsbD 1 = true → s.resetInput = false →
        ∃ t, exec (.controlStart v) s = .next t ∧ returned s.device.configAddr false t)

/-- Outside RUNNING no block works: in IDLE only a reset, a START and the writes of CONFIG_ADDR and
NOTIFY_MASK change anything; in STARTING only a reset, the end of the configuration read and a write of
NOTIFY_MASK; in HALTED only a reset (R160, R167). -/
def Obligations.OutsideRunningNothingWorks : Prop :=
  ∀ (c : Instr) (s : State), isReset c = false →
    (s.device.state = .idle → (∀ v, c ≠ .notifyMaskWrite v) → (∀ v, c ≠ .controlStart v) →
      (∀ v, c ≠ .controlReset v) → (∀ h v, c ≠ .configAddrWrite h v) → exec c s = .next s)
    ∧ (s.device.state = .starting → (∀ v, c ≠ .notifyMaskWrite v) → (∀ r, c ≠ .configReadEnd r) →
        exec c s = .next s)
    ∧ (s.device.state = .halted → exec c s = .next s)

/-- The device state changes only as the table of R160 gives. IDLE goes to STARTING at a write of CONTROL
with START set and RESET clear, the hard reset input released. STARTING goes to RUNNING when the block has
been read and every check passes, and to IDLE when the read ends in error or a check fails, with that start
error. RUNNING goes to HALTED at a halt cause, and records it: a bus error or an aperture refusal on a record
fetch, on a shadow, completion record or indication record write, an index error of a tail write, a head
error of a host head write. Every state goes to IDLE at a reset (R160, R161, R162, R164, R166, R168, R126,
R155). -/
def Obligations.DeviceStateMoves : Prop :=
  ∀ (c : Instr) (s t : State), exec c s = .next t → t.device.state ≠ s.device.state →
    (s.device.state = .idle ∧ t.device.state = .starting ∧ s.resetInput = false
      ∧ ∃ v, (c = .controlStart v ∨ c = .controlReset v) ∧ v.getLsbD 0 = true ∧ v.getLsbD 1 = false)
    ∨ (s.device.state = .starting ∧ t.device.state = .running
      ∧ ∃ block, c = .configReadEnd (.data block) ∧ block.length = 128
        ∧ (blockConfig block).startCheck = .none)
    ∨ (s.device.state = .starting ∧ t.device.state = .idle
      ∧ ((∃ received, c = .configReadEnd (.error received)
            ∧ t.device.startError = .configReadError)
        ∨ ∃ block, c = .configReadEnd (.data block) ∧ block.length = 128
          ∧ (blockConfig block).startCheck ≠ .none
          ∧ t.device.startError = (blockConfig block).startCheck))
    ∨ (s.device.state = .running ∧ t.device.state = .halted
      ∧ ((t.device.haltCause = .ringReadError ∧ ∃ r result received, c = .fetchEnd r result
            ∧ (s.ringUnit r).hold.state = .fetching ∧ s.inTurn (.fetch r) = true
            ∧ s.checkedRead ((s.cfg.subRing r).slot (s.ringUnit r).head 64) 64 result = .error received)
        ∨ (t.device.haltCause = .ringWriteError ∧ ∃ w n,
            (∃ r result, c = .shadowWriteEnd r result ∧ s.shadowAccess r = some w
              ∧ s.inTurn (.shadow r) = true ∧ s.checkedWrite w result = .error n)
            ∨ (∃ f result, c = .completionRecordWriteEnd result ∧ s.retire.posting = .writing f
              ∧ s.completionAccess f = some w ∧ s.checkedWrite w result = .error n)
            ∨ (∃ result, c = .indicationWriteEnd result ∧ s.ind.writing = true
              ∧ s.indicationAccess = some w ∧ s.checkedWrite w result = .error n))
        ∨ (t.device.haltCause = .ringIndex ∧ s.resetInput = false ∧ ∃ r v, c = .subTailWrite r v
            ∧ ((s.cfg.subRing r).size < (v.extractLsb' 0 16 - (s.ringUnit r).head).toNat
              ∨ ((s.ringUnit r).hold.state ≠ .empty ∧ v.extractLsb' 0 16 = (s.ringUnit r).head)))
        ∨ (t.device.haltCause = .hostHead ∧ s.resetInput = false ∧ ∃ r v, c = .hostHeadWrite r v
            ∧ s.unseen r < (v.extractLsb' 0 16 - (s.writtenRing r).hostHead).toNat)))
    ∨ (t.device.state = .idle ∧ isReset c = true
      ∧ ((∃ input, c = .hardReset input) ∨ s.resetInput = false))

/-- A write of CONTROL without RESET: START taken in IDLE clears the start error code and enters
STARTING; in every other state, and without START, nothing changes. A write of CONFIG_ADDR in IDLE
replaces the half it names and keeps the other; in every other state it is dropped (R161, R172). -/
def Obligations.StartAndConfigAddr : Prop :=
  ∀ (s : State) (v : Word), s.resetInput = false →
    (∀ c, c = .controlStart v ∨ c = .controlReset v → v.getLsbD 1 = false →
      (s.device.state = .idle → v.getLsbD 0 = true →
        exec c s = .next { s with device := { s.device with state := .starting, startError := .none } })
      ∧ (s.device.state ≠ .idle ∨ v.getLsbD 0 = false → exec c s = .next s))
    ∧ (s.device.state = .idle →
        (∃ t, exec (.configAddrWrite .low v) s = .next t
          ∧ t = { s with device := { s.device with configAddr := t.device.configAddr } }
          ∧ t.device.configAddr.extractLsb' 0 32 = v
          ∧ t.device.configAddr.extractLsb' 32 32 = s.device.configAddr.extractLsb' 32 32)
        ∧ ∃ t, exec (.configAddrWrite .high v) s = .next t
          ∧ t = { s with device := { s.device with configAddr := t.device.configAddr } }
          ∧ t.device.configAddr.extractLsb' 32 32 = v
          ∧ t.device.configAddr.extractLsb' 0 32 = s.device.configAddr.extractLsb' 0 32)
    ∧ (s.device.state ≠ .idle → ∀ half, exec (.configAddrWrite half v) s = .next s)

/-- CONFIG_READ_END in STARTING: a bus error, or the first failed check, returns the part to IDLE with
its start error code and nothing of the block kept; a block that passes takes the part to RUNNING on its
copy, with the ring credit and the admission number counter at 0 and the rest as reset left it. The fields of
the copy stand in the block at the offsets of its table, low byte first; a threshold of 0 is taken as 1
(R162, R164, R163, R156). -/
def Obligations.ConfigReadEnds : Prop :=
  (∀ block : List Byte,
      let c := blockConfig block
      let bit := fun offset n => (block.getD offset 0).getLsbD n
      let aperture := fun (a : Aperture) (n : Nat) =>
        fieldAt block (48 + 16 * n) a.base ∧ fieldAt block (56 + 16 * n) a.limit
          ∧ a.read = bit (112 + n) 0 ∧ a.write = bit (112 + n) 1
      (fieldAt block 0 c.ringH.base ∧ fieldAt block 8 c.ringL.base
        ∧ fieldAt block 16 c.completionRing.base ∧ fieldAt block 24 c.indicationRing.base
        ∧ fieldAt block 40 c.shadow)
      ∧ (c.ringH.size = number16At block 32 ∧ c.ringL.size = number16At block 34
        ∧ c.completionRing.size = number16At block 36 ∧ c.indicationRing.size = number16At block 38)
      ∧ (aperture c.aperture0 0 ∧ aperture c.aperture1 1 ∧ aperture c.aperture2 2
        ∧ aperture c.aperture3 3)
      ∧ c.clock = numberAt block 116 ∧ c.strays = bit 117 0
      ∧ c.completionCause.threshold = max 1 (numberAt block 118)
      ∧ c.indicationCause.threshold = max 1 (numberAt block 119)
      ∧ c.completionCause.holdoff = number16At block 120
      ∧ c.indicationCause.holdoff = number16At block 122 ∧ c.rearmGap = numberAt block 124)
  ∧ ∀ (s : State), s.device.state = .starting →
    (∀ received, exec (.configReadEnd (.error received)) s =
      .next { s with device := { s.device with state := .idle, startError := .configReadError } })
    ∧ ∀ block : List Byte, block.length = 128 →
      ((blockConfig block).startCheck ≠ .none →
        exec (.configReadEnd (.data block)) s =
          .next { s with
            device := { s.device with
              state := .idle, startError := (blockConfig block).startCheck } })
      ∧ ((blockConfig block).startCheck = .none →
        exec (.configReadEnd (.data block)) s =
          .next { s with
            device := { s.device with state := .running, config := some (blockConfig block) }
            admission := { s.admission with credit := 0, counter := 0 } })

/-- The checks of a START in their order, the first that fails giving its code: the clock 4 to 64 MHz;
the four ring sizes powers of two, 16 to 4096; every aperture in use with its rounded base not above its
rounded limit; each of the five shared structures within one aperture with the permission it needs; no
two of them sharing a byte. The test of a range of at least one byte is the one the port makes (R162,
R163). -/
def Obligations.StartChecksInOrder : Prop :=
  ∀ c : ConfigCopy,
    let clockOk := 4 ≤ c.clock ∧ c.clock ≤ 64
    let powerOk := fun n : Nat => ∃ k, 4 ≤ k ∧ k ≤ 12 ∧ n = 2 ^ k
    let sizesOk := powerOk c.ringH.size ∧ powerOk c.ringL.size ∧ powerOk c.completionRing.size
      ∧ powerOk c.indicationRing.size
    let aperturesOk := ∀ a ∈ [c.aperture0, c.aperture1, c.aperture2, c.aperture3],
      a.read = true ∨ a.write = true → a.base.toNat / 4096 ≤ a.limit.toNat / 4096
    let within := fun (a : Aperture) (base : HostAddr) (n : Nat) =>
      ∀ x, base.toNat ≤ x → x < base.toNat + n →
        a.base.toNat / 4096 * 4096 ≤ x ∧ x ≤ a.limit.toNat / 4096 * 4096 + 4095
    let readable := fun (base : HostAddr) (n : Nat) =>
      ∃ a ∈ [c.aperture0, c.aperture1, c.aperture2, c.aperture3], a.read = true ∧ within a base n
    let writable := fun (base : HostAddr) (n : Nat) =>
      ∃ a ∈ [c.aperture0, c.aperture1, c.aperture2, c.aperture3], a.write = true ∧ within a base n
    let placedOk := readable c.ringH.base (c.ringH.size * 64) ∧ readable c.ringL.base (c.ringL.size * 64)
      ∧ writable c.completionRing.base (c.completionRing.size * 32)
      ∧ writable c.indicationRing.base (c.indicationRing.size * 64) ∧ writable c.shadow 4
    let apart := ∀ i j : Fin 5, i < j → ∀ x y : HostAddr × Nat,
      c.structures[i.val]? = some x → c.structures[j.val]? = some y →
      ¬ ∃ z, (x.1.toNat ≤ z ∧ z < x.1.toNat + x.2) ∧ (y.1.toNat ≤ z ∧ z < y.1.toNat + y.2)
    (∀ base n, 0 < n →
      (c.mayRead base n = true ↔ readable base n) ∧ (c.mayWrite base n = true ↔ writable base n))
    ∧ (¬ clockOk → c.startCheck = .badClock)
    ∧ (clockOk → ¬ sizesOk → c.startCheck = .badRingSize)
    ∧ (clockOk → sizesOk → ¬ aperturesOk → c.startCheck = .badAperture)
    ∧ (clockOk → sizesOk → aperturesOk → ¬ placedOk → c.startCheck = .ringOutsideAperture)
    ∧ (clockOk → sizesOk → aperturesOk → placedOk → ¬ apart → c.startCheck = .ringOverlap)
    ∧ (clockOk → sizesOk → aperturesOk → placedOk → apart → c.startCheck = .none)

/-! ### The indices of the rings and the notification registers -/

/-- A tail write in RUNNING: an index error halts the part with RING_INDEX and the tail is not changed;
otherwise the tail takes the new value, and an EMPTY hold whose tail now differs from the head enters
FETCHING. In every other device state it is dropped (R126, R172). -/
def Obligations.TailWrite : Prop :=
  ∀ (s : State) (r : Ring) (v : Word), s.resetInput = false →
    let u := s.ringUnit r
    let tail : Half := v.extractLsb' 0 16
    let bad := (s.cfg.subRing r).size < (tail - u.head).toNat ∨ (u.hold.state ≠ .empty ∧ tail = u.head)
    (s.device.state ≠ .running → exec (.subTailWrite r v) s = .next s)
    ∧ (s.device.state = .running → bad →
        ∃ t, exec (.subTailWrite r v) s = .next t ∧ s.HaltedBy t .ringIndex .host s.busWrites)
    ∧ (s.device.state = .running → ¬ bad →
        ∃ t, exec (.subTailWrite r v) s = .next t
          ∧ t.ringUnit r =
              { u with
                tail := tail
                hold := if u.hold.state = .empty ∧ tail ≠ u.head then
                    { state := .fetching, bytes := [], readFailed := false } else u.hold }
          ∧ t.ringUnit (otherRing r) = s.ringUnit (otherRing r)
          ∧ t = { s with admission := t.admission }
          ∧ t.admission.stage = s.admission.stage ∧ t.admission.credit = s.admission.credit
          ∧ t.admission.counter = s.admission.counter ∧ t.admission.places = s.admission.places
          ∧ t.admission.asked = s.admission.asked
              ++ if u.hold.state = .empty ∧ tail ≠ u.head then [.fetch r] else [])

/-- A host head write in RUNNING: a head error halts the part with HOST_HEAD and the head is not changed;
a write equal to the head changes nothing; otherwise the head takes the new value, the unseen count falls
by the distance moved, and at 0 both timers of the ring's cause stop while the cause bit stays. What waited
for the room begins: an idle Retire Unit takes the head item, an idle Indication Unit its head record, which
takes the lost count. In every other device state it is dropped (R147, R153, R155, R172). -/
def Obligations.HostHeadWrite : Prop :=
  ∀ (s : State) (r : HostRing) (v : Word), s.resetInput = false →
    let w := s.writtenRing r
    let head : Half := v.extractLsb' 0 16
    (s.device.state ≠ .running → exec (.hostHeadWrite r v) s = .next s)
    ∧ (s.device.state = .running → s.unseen r < (head - w.hostHead).toNat →
        ∃ t, exec (.hostHeadWrite r v) s = .next t ∧ s.HaltedBy t .hostHead .host s.busWrites)
    ∧ (s.device.state = .running → head = w.hostHead → exec (.hostHeadWrite r v) s = .next s)
    ∧ (s.device.state = .running → head ≠ w.hostHead → (head - w.hostHead).toNat ≤ s.unseen r →
        ∃ t, exec (.hostHeadWrite r v) s = .next t
          ∧ (t.writtenRing r).hostHead = head ∧ (t.writtenRing r).posted = w.posted
          ∧ t.unseen r = s.unseen r - (head - w.hostHead).toNat
          ∧ (t.notify.coalesced r).cause = (s.notify.coalesced r).cause
          ∧ (t.unseen r = 0 → (t.notify.coalesced r).holdoff = .stopped
              ∧ (t.notify.coalesced r).rearm = .stopped)
          ∧ (t.unseen r ≠ 0 → t.notify = s.notify)
          ∧ t.notify.mask = s.notify.mask ∧ t.notify.halt = s.notify.halt
          ∧ (∀ q, q ≠ r → t.writtenRing q = s.writtenRing q
              ∧ t.notify.coalesced q = s.notify.coalesced q)
          ∧ s.SameWork t ∧ s.SameAdmission t ∧ t.device = s.device ∧ t.time = s.time
          ∧ t.retire.queue = s.retire.queue ∧ t.busWrites = s.busWrites ∧ s.Begins t
          ∧ t.ind = (match s.ind.queue with
            | [] => s.ind
            | x :: rest =>
              if s.ind.writing = false ∧ t.unseen .indication < s.cfg.indicationRing.size then
                { queue := { x with lost := s.ind.lost } :: rest, lost := 0, writing := true }
              else s.ind))

/-- A coalesced cause. A record posted with unseen now 1 starts the holdoff timer; at or above the
threshold it sets a clear cause whose re-arm gap timer is stopped. A holdoff expiry sets the cause, a re-arm
gap expiry sets it if unseen is at or above the threshold; setting a cause stops both its timers, and no
posting changes one that is set. A write of NOTIFY_CAUSE in RUNNING with 1 clears the cause if it is set:
with nothing unseen nothing more is done, with 1 or more unseen the holdoff timer starts with the holdoff,
and at or above the threshold the re-arm gap timer starts too. A 1 for a clear cause, a 0, and every other
device state change nothing (R157, R158, R172). -/
def Obligations.CauseWriteAndTimers : Prop :=
  (∀ (s : State) (r : HostRing), s.device.state = .running →
      let c := s.notify.coalesced r
      let set : Coalesced := { cause := true, holdoff := .stopped, rearm := .stopped }
      (c.holdoff = .expired →
        exec (.holdoffExpiry r) s = .next { s with notify := s.notify.setCoalesced r set })
      ∧ (c.rearm = .expired → (s.cfg.cause r).threshold ≤ s.unseen r →
          exec (.rearmGapExpiry r) s = .next { s with notify := s.notify.setCoalesced r set })
      ∧ (c.rearm = .expired → s.unseen r < (s.cfg.cause r).threshold →
          exec (.rearmGapExpiry r) s =
            .next { s with notify := s.notify.setCoalesced r { c with rearm := .stopped } }))
  ∧ (∀ s : State, s.device.state = .running →
      let counted := fun (r : HostRing) (t : State) =>
        let c := s.notify.coalesced r
        let unseen := ((s.writtenRing r).posted + 1 - (s.writtenRing r).hostHead).toNat
        t.unseen r = unseen
          ∧ (c.cause = true → t.notify = s.notify)
          ∧ (c.cause = false → (s.cfg.cause r).threshold ≤ unseen → c.rearm.isRunning = false →
              t.notify =
                s.notify.setCoalesced r { cause := true, holdoff := .stopped, rearm := .stopped })
          ∧ (c.cause = false → unseen < (s.cfg.cause r).threshold ∨ c.rearm.isRunning = true →
              t.notify = s.notify.setCoalesced r
                { c with
                  holdoff := if unseen = 1 then Timer.start (s.cfg.cause r).holdoff else c.holdoff })
      (∀ f q rest, s.retire.posting = .writing f → s.retire.queue = q :: rest →
          s.cfg.mayWrite (s.cfg.completionRing.slot s.cplRing.posted 32) 32 = true →
          ∃ t, exec (.completionRecordWriteEnd .done) s = .next t ∧ counted .completion t)
      ∧ (∀ x rest, s.ind.writing = true → s.ind.queue = x :: rest →
          s.cfg.mayWrite (s.cfg.indicationRing.slot s.indRing.posted 64) 64 = true →
          ∃ t, exec (.indicationWriteEnd .done) s = .next t ∧ counted .indication t))
  ∧ ∀ (s : State) (v : Word), s.resetInput = false →
    (s.device.state ≠ .running → exec (.notifyCauseWrite v) s = .next s)
    ∧ (s.device.state = .running →
        ∃ t, exec (.notifyCauseWrite v) s = .next t ∧ t = { s with notify := t.notify }
          ∧ t.notify.halt = s.notify.halt ∧ t.notify.mask = s.notify.mask
          ∧ ∀ r : HostRing,
            let c := s.notify.coalesced r
            let request := match r with
              | .completion => v.getLsbD 0
              | .indication => v.getLsbD 1
            (request = false ∨ c.cause = false → t.notify.coalesced r = c)
            ∧ (request = true → c.cause = true →
                (t.notify.coalesced r).cause = false
                ∧ (s.unseen r = 0 → (t.notify.coalesced r).holdoff = c.holdoff)
                ∧ (1 ≤ s.unseen r →
                    (t.notify.coalesced r).holdoff = Timer.start (s.cfg.cause r).holdoff)
                ∧ (1 ≤ s.unseen r → (s.cfg.cause r).threshold ≤ s.unseen r →
                    (t.notify.coalesced r).rearm = Timer.start s.cfg.rearmGap)
                ∧ (s.unseen r = 0 ∨ s.unseen r < (s.cfg.cause r).threshold →
                    (t.notify.coalesced r).rearm = c.rearm)))

/-- The register window. A write of NOTIFY_MASK replaces the three enables together outside HALTED and is
dropped in HALTED; the interrupt output is active exactly while a cause is both set and enabled, its pin low
while active. A write of another register, width or alignment is ignored. A read returns: IDENT its fixed
value; CONFIG_ADDR its halves; STATUS the device state in bits 0 and 1, the start error in bits 8 to 11, the
halt cause in bits 16 to 19; NOTIFY_CAUSE and NOTIFY_MASK their bits; 0 from CONTROL, the tails, the host
heads and offset 0x2C; a byte of the window is that byte of its aligned word (R159, R160, R162, R166, R169,
R172). -/
def Obligations.MaskWriteAndInterrupt : Prop :=
  (∀ (s : State) (v : Word), s.resetInput = false →
    (s.device.state ≠ .halted →
      exec (.notifyMaskWrite v) s =
        .next { s with
          notify := { s.notify with
            mask := { completion := v.getLsbD 0, indication := v.getLsbD 1, halt := v.getLsbD 2 } } })
    ∧ (s.device.state = .halted → exec (.notifyMaskWrite v) s = .next s)
    ∧ (s.interruptActive = true ↔
        (s.notify.completion.cause = true ∧ s.notify.mask.completion = true)
        ∨ (s.notify.indication.cause = true ∧ s.notify.mask.indication = true)
        ∨ (s.notify.halt = true ∧ s.notify.mask.halt = true))
    ∧ (s.interruptPinHigh = true ↔ s.interruptActive = false)
    ∧ ∀ offset width, exec (.registerWriteIgnored offset width v) s = .next s)
  ∧ ∀ s : State,
    let state : BitVec 2 := match s.device.state with
      | .idle => 0
      | .starting => 1
      | .running => 2
      | .halted => 3
    let startError : BitVec 4 := match s.device.startError with
      | .none => 0
      | .configReadError => 1
      | .badClock => 2
      | .badRingSize => 3
      | .badAperture => 4
      | .ringOutsideAperture => 5
      | .ringOverlap => 6
    let haltCause : BitVec 4 := match s.device.haltCause with
      | .none => 0
      | .ringReadError => 1
      | .ringWriteError => 2
      | .ringIndex => 3
      | .hostHead => 4
    let bits := fun (completion indication halt : Bool) =>
      (0 : BitVec 29) ++ (BitVec.ofBool halt ++ (BitVec.ofBool indication ++ BitVec.ofBool completion))
    s.readRegister 0x00 = 0x5A010B14
    ∧ s.readRegister 0x08 = s.device.configAddr.extractLsb' 0 32
    ∧ s.readRegister 0x0C = s.device.configAddr.extractLsb' 32 32
    ∧ s.readRegister 0x10
        = (0 : BitVec 12) ++ (haltCause ++ ((0 : BitVec 4) ++ (startError ++ ((0 : BitVec 6) ++ state))))
    ∧ s.readRegister 0x24 = bits s.notify.completion.cause s.notify.indication.cause s.notify.halt
    ∧ s.readRegister 0x28
        = bits s.notify.mask.completion s.notify.mask.indication s.notify.mask.halt
    ∧ (∀ offset ∈ [0x04, 0x14, 0x18, 0x1C, 0x20, 0x2C], s.readRegister offset = 0)
    ∧ ∀ word byte, byte < 4 →
        s.readRegisterByte (4 * word + byte) = (s.readRegister (4 * word)).extractLsb' (8 * byte) 8

/-! ### Device time -/

/-- A prescaler carry in RUNNING returns the count to 0, advances device time by 1, from its highest value to
0, and takes 1 from the remaining length of every running timer; a timer whose length comes to 0 is stopped
with its expiry outstanding (log 3), and a stopped timer stays so; one started with length 0 expires at once.
The model's own number of the increment, by which due collects and due flushes are ordered and which does not
wrap (log 4), advances by 1 with it. Nothing else changes. Device time moves at a carry alone, and only a reset
sets it back (R22 to R25). -/
def Obligations.PrescalerCarry : Prop :=
  (∀ n, 2 ≤ n → Timer.tick (.running n) = .running (n - 1))
    ∧ Timer.tick (.running 1) = .expired ∧ Timer.tick .stopped = .stopped
    ∧ Timer.start 0 = .expired ∧ (∀ n, 1 ≤ n → Timer.start n = .running n)
    ∧ (∀ (c : Instr) (s t : State), exec c s = .next t → c ≠ .prescalerCarry → isReset c = false →
        t.time = s.time)
    ∧ ∀ s : State, s.device.state = .running →
      ∃ t, exec .prescalerCarry s = .next t
        ∧ t.time.prescaler = 0 ∧ t.time.now = s.time.now + 1
        ∧ t.time.increment = s.time.increment + 1
        ∧ (∀ i, t.entry i =
            { s.entry i with
              deadlineTimer := (s.entry i).deadlineTimer.tick
              phaseTimer := (s.entry i).phaseTimer.tick })
        ∧ (∀ l, t.line l =
            { s.line l with
              windowTimer := (s.line l).windowTimer.tick
              guardTimer := (s.line l).guardTimer.tick
              beaconTimer := (s.line l).beaconTimer.tick
              probeTimer := (s.line l).probeTimer.tick
              jabberTimer := (s.line l).jabberTimer.tick })
        ∧ (∀ l a, t.station l a = { s.station l a with linger := (s.station l a).linger.tick })
        ∧ (∀ r, t.notify.coalesced r =
            { s.notify.coalesced r with
              holdoff := (s.notify.coalesced r).holdoff.tick
              rearm := (s.notify.coalesced r).rearm.tick })
        ∧ t.notify.halt = s.notify.halt ∧ t.notify.mask = s.notify.mask
        ∧ t.pending = s.pending ∧ t.resetInput = s.resetInput ∧ t.device = s.device
        ∧ t.admission = s.admission ∧ t.store = s.store ∧ t.retire = s.retire
        ∧ t.cplRing = s.cplRing ∧ t.ind = s.ind ∧ t.indRing = s.indRing
        ∧ t.busWrites = s.busWrites


/-! ### The ends of the accesses in host memory -/

/-- A fetch that ends without error, in its turn, copies the record whole into the hold, which is READY;
when the application stage is free, the ring arbiter grants it at once (log 16): to the one READY hold, or
with both READY to H below a credit of 8 and to L at 8. A grant that ends in application moves the credit:
one to H with L's hold READY adds 1, to at most 8, one to L sets it to 0, any other leaves it. An access of
the Admission Unit is in turn when nothing asked before it holds it up: every earlier access does, but of
two loads either may end first, and no read waits for a shadow write; out of turn no fetch ends (log 33;
R127, R128, R129, R138, R165). -/
def Obligations.FetchEnds : Prop :=
  (∀ (g : Grant) (credit : Nat), credit ≤ 8 →
      (g.ring = .l → creditApplied g credit = 0)
      ∧ (g.ring = .h → g.lowReady = true → creditApplied g credit = min 8 (credit + 1))
      ∧ (g.ring = .h → g.lowReady = false → creditApplied g credit = credit))
    ∧ (∀ credit, ringChoice true false credit = some .h ∧ ringChoice false true credit = some .l
      ∧ (credit < 8 → ringChoice true true credit = some .h) ∧ ringChoice true true 8 = some .l
      ∧ ringChoice false false credit = none)
    ∧ (∀ (s : State) (a : AdmissionAccess) (earlier later : List AdmissionAccess),
      s.admission.asked = earlier ++ a :: later → a ∉ earlier →
      (s.inTurn a = true ↔ ∀ x ∈ earlier,
        (∃ r q, x = .load r ∧ a = .load q) ∨ (∃ r q, x = .shadow r ∧ (a = .fetch q ∨ a = .load q))))
    ∧ (∀ (s : State) (r : Ring) (result : BusRead), s.inTurn (.fetch r) = false →
      exec (.fetchEnd r result) s = .next s)
    ∧ ∀ (s : State) (r : Ring) (record : List Byte), s.device.state = .running →
      (s.ringUnit r).hold.state = .fetching → s.inTurn (.fetch r) = true → record.length = 64 →
      s.cfg.mayRead ((s.cfg.subRing r).slot (s.ringUnit r).head 64) 64 = true →
      ∃ t, exec (.fetchEnd r (.data record)) s = .next t
        ∧ t.ringUnit r =
            { s.ringUnit r with hold := { state := .ready, bytes := record, readFailed := false } }
        ∧ t.ringUnit (otherRing r) = s.ringUnit (otherRing r)
        ∧ t.admission.asked = s.admission.asked.filter (· != .fetch r)
        ∧ t.admission.stage =
            (match s.admission.stage with
              | some g => some g
              | none => (ringChoice (t.isReady .h) (t.isReady .l) s.admission.credit).map fun q =>
                  { ring := q, lowReady := t.isReady .l })
        ∧ t.admission.credit = s.admission.credit ∧ t.admission.counter = s.admission.counter
        ∧ t.admission.places = s.admission.places ∧ t.retire.queue = s.retire.queue
        ∧ s.PostingAfter t ∧ s.SameHost t ∧ s.SameWork t ∧ s.NoIndication t

/-- A bus error or an aperture refusal on a record fetch halts the part with RING_READ_ERROR, and on a
shadow head write, a completion record write or an indication record write with RING_WRITE_ERROR; the
hold keeps what it received, and nothing is counted, freed or retried. What an access moved before its error
is given with its end (log 5, log 8), and of a record never the phase byte; the other accesses in flight
stop where they stand (log 5, log 7; R127, R128, R149, R153, R165, R166, R171). -/
def Obligations.RingErrorsHalt : Prop :=
  ∀ s : State, s.device.state = .running →
    let record := fun (w : WriteAccess) (n : Nat) =>
      if min n (w.bytes.length - 1) = 0 then s.busWrites
      else { addr := w.addr, bytes := w.bytes.take (min n (w.bytes.length - 1)) } :: s.busWrites
    (∀ r result received, (s.ringUnit r).hold.state = .fetching → s.inTurn (.fetch r) = true →
      s.checkedRead ((s.cfg.subRing r).slot (s.ringUnit r).head 64) 64 result = .error received →
      ∃ t, exec (.fetchEnd r result) s = .next t
        ∧ s.HaltedBy t .ringReadError (.fetch r) s.busWrites
        ∧ (t.ringUnit r).hold = { (s.ringUnit r).hold with bytes := received })
    ∧ (∀ r result w n, s.shadowAccess r = some w → s.inTurn (.shadow r) = true →
      s.checkedWrite w result = .error n →
      ∃ t, exec (.shadowWriteEnd r result) s = .next t
        ∧ s.HaltedBy t .ringWriteError (.write (.shadow r))
            (if n % 3 = 1 then { addr := w.addr, bytes := w.bytes.take 1 } :: s.busWrites
            else if n % 3 = 2 then { addr := w.addr + 1, bytes := w.bytes.drop 1 } :: s.busWrites
            else s.busWrites))
    ∧ (∀ result f q rest w n, s.retire.posting = .writing f → s.retire.queue = q :: rest →
      s.completionAccess f = some w → s.checkedWrite w result = .error n →
      ∃ t, exec (.completionRecordWriteEnd result) s = .next t
        ∧ s.HaltedBy t .ringWriteError (.write .completion) (record w n))
    ∧ (∀ result w n, s.ind.writing = true → s.indicationAccess = some w →
      s.checkedWrite w result = .error n →
      ∃ t, exec (.indicationWriteEnd result) s = .next t
        ∧ s.HaltedBy t .ringWriteError (.write .indication) (record w n))

/-- A shadow head write that ends without error, in its turn, has placed the head's two bytes in the ring's
field, low byte first (busWrites, log 6); with a further write pending, a write of the head as it now stands
begins, else the state returns to IDLE. Out of turn none ends (log 33). When a record leaves its hold, the head
is increased by 1, the hold is EMPTY, or FETCHING where the tail is not the new head, and a write of the new
head begins, or a further one is pending where one is in flight (R128, R165). -/
def Obligations.ShadowWriteEnds : Prop :=
  (∀ u : RingUnit, u.leave.tail = u.tail ∧ u.leave.head = u.head + 1
      ∧ u.leave.hold =
          (if u.tail = u.head + 1 then { state := .empty, bytes := [], readFailed := false }
          else { state := .fetching, bytes := [], readFailed := false })
      ∧ u.leave.shadow = (match u.shadow with
        | .idle => .writing (u.head + 1)
        | .writing v => .writingPending v
        | .writingPending v => .writingPending v))
  ∧ (∀ (s : State) (r : Ring) (result : BusWriteEnd), s.inTurn (.shadow r) = false →
      exec (.shadowWriteEnd r result) s = .next s)
  ∧ ∀ (s : State) (r : Ring) (v : Half), s.device.state = .running →
    (s.ringUnit r).shadow = .writing v ∨ (s.ringUnit r).shadow = .writingPending v →
    s.inTurn (.shadow r) = true →
    let field := match r with
      | .h => s.cfg.shadow
      | .l => s.cfg.shadow + 2
    s.cfg.mayWrite field 2 = true →
    ∃ t, exec (.shadowWriteEnd r .done) s = .next t
      ∧ t.ringUnit r =
          { s.ringUnit r with
            shadow := if (s.ringUnit r).shadow = .writing v then .idle
              else .writing (s.ringUnit r).head }
      ∧ t.ringUnit (otherRing r) = s.ringUnit (otherRing r)
      ∧ t.admission.asked = s.admission.asked.filter (· != .shadow r)
          ++ (if (s.ringUnit r).shadow = .writing v then [] else [.shadow r])
      ∧ t.busWrites =
          { addr := field, bytes := [v.extractLsb' 0 8, v.extractLsb' 8 8] } :: s.busWrites
      ∧ t = { s with admission := t.admission, busWrites := t.busWrites }
      ∧ t.admission.stage = s.admission.stage ∧ t.admission.credit = s.admission.credit
      ∧ t.admission.counter = s.admission.counter ∧ t.admission.places = s.admission.places

/-- A reply copy that ends without error has placed the smaller of the reply buffer length and the reply
true length in bytes, as the reply reservation holds them, at the front of the host's buffer; an error
leaves the bytes written before it and makes the completion's status HOST_WRITE_ERROR, with the code of
the original status in place of the detail, all else as fixed at retirement. The record write follows.
A chain holds its byte k in segment k / 64 of the chain at offset k mod 64. What is placed stands in busWrites
(log 6; R148, R119, R122). -/
def Obligations.ReplyCopyEnds : Prop :=
  (∀ (m : Memory) (chain : List SegIx) (n : Nat), n ≤ 64 * chain.length →
    m.readChain chain n = (List.range n).map fun k =>
      m.read (64 * (chain.getD (k / 64) 0).val + k % 64))
  ∧ ∀ (s : State) (i : EntryIx) (stamp : Word) (rest : List QueuedItem) (n : Nat),
    s.device.state = .running → s.retire.posting = .copying →
    s.retire.queue = { item := .entry i, stamp := stamp } :: rest →
    (s.entry i).kind = .transact → (s.entry i).replyTrueLength = some n →
    0 < min (s.entry i).replyBufferLength n →
    s.cfg.mayWrite (s.entry i).replyBufferAddress (min (s.entry i).replyBufferLength n) = true →
    ((s.store.bytes.readChain (s.entry i).replyReservation
        (min (s.entry i).replyBufferLength n)).length = min (s.entry i).replyBufferLength n) →
    let reply := s.store.bytes.readChain (s.entry i).replyReservation
      (min (s.entry i).replyBufferLength n)
    exec (.replyCopyEnd .done) s =
        .next { s with
          retire := { s.retire with posting := .writing false }
          busWrites := { addr := (s.entry i).replyBufferAddress, bytes := reply } :: s.busWrites }
    ∧ (∀ k, ∃ t, exec (.replyCopyEnd (.error k)) s = .next t
        ∧ t = { s with retire := { s.retire with posting := .writing true }, busWrites := t.busWrites }
        ∧ (k = 0 → t.busWrites = s.busWrites)
        ∧ (0 < k → t.busWrites =
            { addr := (s.entry i).replyBufferAddress, bytes := reply.take k } :: s.busWrites))
    ∧ (s.entry i).completion stamp true =
        { (s.entry i).completion stamp false with
          status := .hostWriteError
          detail := ((s.entry i).completion stamp false).status.code }

/-- A completion record write that ends without error has placed the 32 bytes of the head item's record in
slot posted count mod ring size, with the phase bit in the last byte, 1 on even passes; the posted count
increases by 1; an entry's chains join the free queue and the entry becomes FREE, an immediate item's place
becomes FREE, a line control item's control place becomes empty, and a hold that waits for what is freed is
READY; the item leaves the queue, and the unit looks again: with an item left and room in the ring its posting
begins, with the reply copy or with the record. The fields of a record stand at the offsets of its table, and
their values are those of the item's entry, of its record or of its STOP or DRAIN. What is placed stands in
busWrites (log 6; R147, R148, R149, R150, R151, R91, R123, R130). -/
def Obligations.CompletionWriteEnds : Prop :=
  (∀ (c : Completion) (phase : Byte),
      let r := c.bytes phase
      let flag := fun n => (r.getD 6 0).getLsbD n
      r.length = 32
      ∧ fieldAt r 0 c.kind
      ∧ numberAt r 1 = (match c.ring with
        | .h => 0
        | .l => 1)
      ∧ fieldAt r 2 c.tag ∧ (c.status, numberAt r 4) ∈ statusCodes ∧ numberAt r 5 = c.detail % 256
      ∧ (flag 0 = c.flags.mayHaveExecuted ∧ flag 1 = c.flags.late ∧ flag 2 = c.flags.truncated
        ∧ flag 3 = c.flags.neverSent ∧ flag 4 = c.flags.wasDeferred ∧ flag 5 = c.flags.noAnswerExpected
        ∧ flag 6 = false ∧ flag 7 = false)
      ∧ numberAt r 7 = c.attemptsUsed % 256 ∧ numberAt r 8 = c.collectsUsed % 256
      ∧ numberAt r 9 = c.trueLength % 256 ∧ fieldAt r 12 c.stamp
      ∧ (∀ i, i < 12 → r.getD (16 + i) 0 = c.result.getD i 0)
      ∧ (∀ i ∈ [10, 11, 28, 29, 30], r.getD i 0 = 0) ∧ fieldAt r 31 phase)
  ∧ (∀ (s : State) (stamp : Word) (f : Bool),
      let plain := fun (kind : Byte) (ring : Ring) (tag : Half) (status : Status) (result : List Byte) =>
        ({ kind := kind, ring := ring, tag := tag, status := status, detail := 0
           flags := { mayHaveExecuted := false, late := false, truncated := false, neverSent := false,
                      wasDeferred := false, noAnswerExpected := false }
           attemptsUsed := 0, collectsUsed := 0, trueLength := 0, stamp := stamp, result := result } :
          Completion)
      (∀ i x, (s.entry i).final = some x →
        let e := s.entry i
        let c := s.completionOf { item := .entry i, stamp := stamp } f
        c.kind = (match e.kind with
          | .transact => 1
          | .fence => 3)
        ∧ c.ring = e.ring ∧ c.tag = e.tag ∧ c.flags = x.flags ∧ c.attemptsUsed = e.attemptsUsed
        ∧ c.collectsUsed = e.collectsUsed ∧ c.trueLength = e.replyTrueLength.getD 0 ∧ c.stamp = stamp
        ∧ (f = false → c.status = x.status ∧ (e.lastEnding, c.detail) ∈ detailCodes)
        ∧ (f = true → c.status = .hostWriteError ∧ (x.status, c.detail) ∈ statusCodes)
        ∧ c.result =
          if e.kind = .fence ∧ x.status = .ok then
            le16 (BitVec.ofNat 16 e.waitPlaced) ++ le16 (BitVec.ofNat 16 e.notOkCount)
              ++ [0, 0, 0, 0, 0, 0, 0, 0]
          else List.replicate 12 0)
      ∧ (∀ p m, s.admission.places.get p = some m →
        s.completionOf { item := .immediate p, stamp := stamp } f
          = plain m.kind m.ring m.tag m.status m.result)
      ∧ (∀ l op tag ring status, (s.line l).control = .completed op tag ring status →
        s.completionOf { item := .lineControl l, stamp := stamp } f
          = plain 4 ring tag status (List.replicate 12 0)))
  ∧ ∀ (s : State) (f : Bool) (q : QueuedItem) (rest : List QueuedItem), s.device.state = .running →
    s.retire.posting = .writing f → s.retire.queue = q :: rest →
    let size := s.cfg.completionRing.size
    let slot := s.cfg.completionRing.base + BitVec.ofNat 64 (32 * (s.cplRing.posted.toNat % size))
    s.cfg.mayWrite slot 32 = true →
    ∃ t record, exec (.completionRecordWriteEnd .done) s = .next t
      ∧ record = (s.completionOf q f).bytes (if (s.cplRing.posted.toNat / size) % 2 = 0 then 1 else 0)
      ∧ record.length = 32
      ∧ record.getLast? = some (if (s.cplRing.posted.toNat / size) % 2 = 0 then 1 else 0)
      ∧ t.busWrites = { addr := slot, bytes := record } :: s.busWrites
      ∧ t.cplRing = { s.cplRing with posted := s.cplRing.posted + 1 }
      ∧ t.retire.queue = rest
      ∧ (∀ i, q.item = .entry i →
          t.store = { s.store with
            freeQueue := s.store.freeQueue ++ (s.entry i).requestChain ++ (s.entry i).replyReservation }
          ∧ t.entry i = Entry.reset ∧ (∀ j, j ≠ i → t.entry j = s.entry j)
          ∧ t.lines = s.lines ∧ t.admission.places = s.admission.places)
      ∧ (∀ p, q.item = .immediate p →
          t.admission.places = s.admission.places.set p none ∧ s.SameWork t)
      ∧ (∀ l, q.item = .lineControl l →
          t.line l = { s.line l with control := .empty } ∧ (∀ m, m ≠ l → t.line m = s.line m)
          ∧ t.entries = s.entries ∧ t.store = s.store ∧ t.admission.places = s.admission.places)
      ∧ (∀ r, s.ReturnedTo t (s.freedBy q.item) r)
      ∧ t.stations = s.stations ∧ t.time = s.time ∧ t.device = s.device ∧ t.indRing = s.indRing
      ∧ t.admission.counter = s.admission.counter ∧ t.admission.credit = s.admission.credit
      ∧ t.admission.asked = s.admission.asked ∧ s.StageAfter t ∧ t.PostingBegun ∧ s.NoIndication t

/-- An indication record write that ends without error has placed the 64 bytes of the head record in slot
posted count mod ring size, with the phase bit in the last byte; the posted count increases by 1 and the
record leaves the queue. The records behind it remain, and with room in the ring the write of the next
begins at once, which takes the lost count. An indication given with fewer than 8 queued joins the queue with
device time as its stamp; with 8 it is dropped and counted, to at most 65535. The fields of a record stand at
the offsets of its tables. What is placed stands in busWrites (log 6; R152, R153, R154). -/
def Obligations.IndicationWriteEnds : Prop :=
  (∀ (s : State) (l : Line) (body : IndicationBody), s.device.state = .running →
    let begun := fun unit : IndicationUnit => match unit.queue with
      | [] => unit
      | x :: rest =>
        if unit.writing = false ∧ s.unseen .indication < s.cfg.indicationRing.size then
          { queue := { x with lost := unit.lost } :: rest, lost := 0, writing := true }
        else unit
    let unit := begun s.ind
    s.beginIndication = { s with ind := unit }
    ∧ (unit.queue.length < 8 → s.indicate l body =
        { s with
          ind := begun { unit with
            queue := unit.queue ++ [{ line := l, stamp := s.time.now, lost := 0, body := body }] } })
    ∧ (8 ≤ unit.queue.length → unit.lost ≤ 65535 → s.indicate l body =
        { s with ind := { unit with lost := min 65535 (unit.lost + 1) } }))
  ∧
  (∀ (x : Indication) (phase : Byte),
      let r := x.bytes phase
      r.length = 64 ∧ numberAt r 1 = x.line.val ∧ number16At r 2 = x.lost % 65536 ∧ fieldAt r 4 x.stamp
      ∧ numberAt r 14 = 0 ∧ fieldAt r 63 phase
      ∧ (∀ i, i < 48 → r.getD (15 + i) 0 = (match x.body with
        | .event _ _ _ payload => payload.getD i 0
        | .stray _ _ _ _ payload => payload.getD i 0
        | _ => 0))
      ∧ match x.body with
        | .event station number length _ =>
          numberAt r 0 = 1 ∧ numberAt r 8 = station % 256 ∧ numberAt r 9 = number % 256
            ∧ numberAt r 10 = length % 256 ∧ numberAt r 11 = (if 48 < length then 1 else 0)
            ∧ number16At r 12 = 0
        | .stray addr kind length late _ =>
          numberAt r 0 = 2 ∧ fieldAt r 8 addr ∧ numberAt r 9 = kind % 256 ∧ numberAt r 10 = length % 256
            ∧ numberAt r 11 = (if 48 < length then 1 else 0) + (if late then 2 else 0)
            ∧ number16At r 12 = 0
        | .stationState station old new reason word =>
          numberAt r 0 = 3 ∧ numberAt r 8 = station % 256 ∧ (old, numberAt r 9) ∈ stationStateCodes
            ∧ (new, numberAt r 10) ∈ stationStateCodes
            ∧ (reason, numberAt r 11) ∈
              [(Reason.add, 1), (.remove, 2), (.sync, 3), (.retireUncertain, 4), (.failures, 5)]
            ∧ fieldAt r 12 word
        | .mark number start => numberAt r 0 = 4 ∧ fieldAt r 8 start ∧ fieldAt r 12 number
        | .lineState state cause =>
          numberAt r 0 = 5
            ∧ (state, numberAt r 8) ∈
              [(LineState.stopped, 0), (.running, 1), (.draining, 2), (.stopping, 3), (.faulted, 4)]
            ∧ (cause, numberAt r 9) ∈ [(FaultCause.none, 0), (.jabber, 1), (.echo, 2)]
            ∧ number16At r 10 = 0 ∧ number16At r 12 = 0)
  ∧ ∀ (s : State) (x : Indication) (rest : List Indication), s.device.state = .running →
    s.ind.writing = true → s.ind.queue = x :: rest →
    let size := s.cfg.indicationRing.size
    let slot := s.cfg.indicationRing.base + BitVec.ofNat 64 (64 * (s.indRing.posted.toNat % size))
    let unseen := (s.indRing.posted + 1 - s.indRing.hostHead).toNat
    s.cfg.mayWrite slot 64 = true →
    ∃ t record, exec (.indicationWriteEnd .done) s = .next t
      ∧ record = x.bytes (if (s.indRing.posted.toNat / size) % 2 = 0 then 1 else 0)
      ∧ record.length = 64
      ∧ record.getLast? = some (if (s.indRing.posted.toNat / size) % 2 = 0 then 1 else 0)
      ∧ t.busWrites = { addr := slot, bytes := record } :: s.busWrites
      ∧ t.indRing = { s.indRing with posted := s.indRing.posted + 1 }
      ∧ t.ind = (match rest with
        | [] => { s.ind with queue := [], writing := false }
        | y :: ys =>
          if unseen < size then { queue := { y with lost := s.ind.lost } :: ys, lost := 0, writing := true }
          else { s.ind with queue := rest, writing := false })
      ∧ s.SameWork t ∧ s.SameAdmission t ∧ t.cplRing = s.cplRing ∧ t.time = s.time
      ∧ t.device = s.device ∧ t.retire.queue = s.retire.queue ∧ s.Begins t
      ∧ t.notify.completion = s.notify.completion

/-! ### Records that start work -/

/-- A TRANSACT that fails a check is rejected with the status of the first that fails, in the order of the
checks: its shape BAD_RECORD, its ranges APERTURE, its tag DUPLICATE_TAG, its line LINE_DRAINING,
LINE_FAULT or LINE_STOPPED, its station NO_STATION or STATION_OFFLINE. The rejection completes through an
immediate place, and nothing else of the part changes (R131 to R135). -/
def Obligations.TransactRejected : Prop :=
  ∀ (s : State) (g : Grant) (b : List Byte), s.AtApplication g b → recKind b = 1 → s.HasPlace →
    let line := (s.line (recLine b)).state
    let station := (s.station (recLine b) (recStation b)).state
    let rejected := fun status => ∃ t, exec .transact s = .next t ∧ s.OnlyCompleted t g b status []
    (¬ TransactShape b → rejected .badRecord)
    ∧ (TransactShape b → ¬ s.TransactRanges b → rejected .aperture)
    ∧ (TransactShape b → s.TransactRanges b → s.TagTaken g.ring (recTag b) → rejected .duplicateTag)
    ∧ (TransactShape b → s.TransactRanges b → ¬ s.TagTaken g.ring (recTag b) →
        (line = .draining → rejected .lineDraining)
        ∧ (line = .faulted → rejected .lineFault)
        ∧ (line = .stopped ∨ line = .stopping → rejected .lineStopped)
        ∧ (line = .running → station = .absent → rejected .noStation)
        ∧ (line = .running → station = .offline → rejected .stationOffline))

/-- A TRANSACT that passes every check and lacks nothing takes the FREE entry with the lowest index, its
demand of segments from the head of the free queue, the request part first, and the next admission number;
the entry is LOADING with the record's fields, the reply limit at most 248 and 0 for a broadcast, the line's
default attempts for a field of 0. The hold is LOADING, and its read is asked for. A request of length 0 has
no read: its load is complete at once, and the entry is placed, the arbiter of an IDLE line evaluated, or it
waits in the hold for the other ring's placement. The application stage is free for the next grant (R137, R117,
R118, R129, R136, R138, R81, R51). -/
def Obligations.TransactTaken : Prop :=
  ∀ (s : State) (g : Grant) (b : List Byte) (i : EntryIx), s.AtApplication g b → recKind b = 1 →
    s.TransactPasses g.ring b → s.LowestFree i →
    let l := recLine b
    let a := recStation b
    let limit := if recStationNumber b = 31 then 0 else min (recReplyLength b) 248
    let request := (recRequestLength b + 63) / 64
    let reply := (limit + 63) / 64
    let taken : Entry :=
      { Entry.reset with
        state := .loading, kind := .transact, ring := g.ring, tag := recTag b
        admission := s.admission.counter
        line := l, station := some a, deferOk := recDeferOk b
        requestLength := recRequestLength b, requestAddress := recRequestAddress b
        replyBufferLength := recReplyLength b, replyBufferAddress := recReplyAddress b
        replyLimit := limit, deadline := recDeadline b
        attemptLimit := if recAttempts b = 0 then (s.line l).params.defaultAttempts else recAttempts b
        requestChain := s.store.freeQueue.take request
        replyReservation := (s.store.freeQueue.drop request).take reply }
    let other := (s.ringUnit (otherRing g.ring)).hold.state
    let loading := fun (t : State) (complete : Bool) =>
      t.ringUnit g.ring =
          { s.ringUnit g.ring with
            hold := { state := .loading i complete, bytes := b, readFailed := false } }
        ∧ t.ringUnit (otherRing g.ring) = s.ringUnit (otherRing g.ring)
        ∧ t.entry i = taken ∧ t.stations = s.stations
    let frame := fun t : State =>
      (∀ j, j ≠ i → t.entry j = s.entry j)
        ∧ t.store = { s.store with freeQueue := s.store.freeQueue.drop (request + reply) }
        ∧ t.admission.counter = s.admission.counter + 1
        ∧ t.admission.credit = creditApplied g s.admission.credit
        ∧ t.admission.stage = t.regrant ∧ s.PostingAfter t
        ∧ t.admission.places = s.admission.places ∧ t.retire.queue = s.retire.queue
        ∧ t.lines = s.lines ∧ s.SameHost t ∧ s.NoIndication t
    request + reply ≤ s.store.freeQueue.length →
    (recRequestLength b ≠ 0 →
      ∃ t, exec .transact s = .next t ∧ frame t ∧ loading t false
        ∧ t.admission.asked = s.admission.asked ++ [.load g.ring])
    ∧ (recRequestLength b = 0 →
        (∀ j c, other = .loading j c → c = false
          ∧ ((s.entry j).state ≠ .loading ∨ (s.entry j).line ≠ l ∨ (s.entry j).station ≠ some a
            ∨ s.admission.counter.toNat ≤ (s.entry j).admission.toNat)) →
      s.Then .transact l fun t => frame t
        ∧ t.entry i =
            { taken with
              state := .queued
              deadlineTimer := if recDeadline b = 0 then .stopped else Timer.start (1000 * recDeadline b) }
        ∧ t.station l a = { s.station l a with fifo := (s.station l a).fifo ++ [i] }
        ∧ (∀ m c, m ≠ l ∨ c ≠ a → t.station m c = s.station m c)
        ∧ t.ringUnit g.ring = (s.ringUnit g.ring).leave
        ∧ s.ReturnedTo t [.loadEnd i] (otherRing g.ring)
        ∧ t.admission.asked = s.admission.asked.filter (· != .load g.ring) ++ s.leaveAsks g.ring)
    ∧ (∀ j c, recRequestLength b = 0 → other = .loading j c → (s.entry j).state = .loading →
        (s.entry j).line = l → (s.entry j).station = some a →
        (s.entry j).admission.toNat < s.admission.counter.toNat →
      ∃ t, exec .transact s = .next t ∧ frame t ∧ loading t true
        ∧ t.admission.asked = s.admission.asked.filter (· != .load g.ring))

/-- A record that lacks what it needs is set aside: its hold waits for everything it lacks, the application
stage is free for the next grant, the credit and the counter stand, and nothing else changes. A TRANSACT lacks
an entry, segments or both; a FENCE an entry; an ABORT of a LOADING entry the end of its load; every record
that completes at once an immediate place (for an op outside its range whichever row of the kind is asked, the
model's choice, log 15). The posting of a completion, the end of a load and a failed load return what they
free: a hold that waits for some of it is READY, any other stands (R123, R129, R130, R134, R140). -/
def Obligations.RecordsSetAside : Prop :=
  (∀ (s : State) (g : Grant) (b : List Byte), s.AtApplication g b →
      (recKind b = 1 → s.TransactPasses g.ring b →
        let limit := if recStationNumber b = 31 then 0 else min (recReplyLength b) 248
        let short := s.store.freeQueue.length < (recRequestLength b + 63) / 64 + (limit + 63) / 64
        ((∀ i, (s.entry i).state ≠ .free) → short →
          ∃ t, exec .transact s = .next t ∧ s.SetAside t g b [.entry, .segments])
        ∧ ((∀ i, (s.entry i).state ≠ .free) → ¬ short →
          ∃ t, exec .transact s = .next t ∧ s.SetAside t g b [.entry])
        ∧ ((∃ i, (s.entry i).state = .free) → short →
          ∃ t, exec .transact s = .next t ∧ s.SetAside t g b [.segments]))
      ∧ (recKind b = 3 → recLineNumber b ≤ 3 → zeroFieldsOk b = true → ¬ s.TagTaken g.ring (recTag b) →
          (∀ i, (s.entry i).state ≠ .free) →
          ∃ t, exec .fence s = .next t ∧ s.SetAside t g b [.entry])
      ∧ (∀ i, recKind b = 2 → recTargetRingNumber b ≤ 1 → zeroFieldsOk b = true → s.TagsOk →
          (s.entry i).state = .loading → (s.entry i).ring = recTargetRing b →
          (s.entry i).tag = recTargetTag b →
          ∃ t, exec .abort s = .next t ∧ s.SetAside t g b [.loadEnd i])
      ∧ ∀ c,
        let state := (s.line (recLine b)).state
        let op := recOp b
        (c = .transact ∧ recKind b = 1 ∧ ¬ s.TransactPasses g.ring b)
          ∨ (c = .abort ∧ recKind b = 2 ∧ (shapeOk b = false
            ∨ ∀ i, (s.entry i).ring = recTargetRing b → (s.entry i).tag = recTargetTag b →
              (s.entry i).state ≠ .loading))
          ∨ (c = .fence ∧ recKind b = 3 ∧ (shapeOk b = false ∨ s.TagTaken g.ring (recTag b)))
          ∨ (recKind b = 4 ∧ ((op = 1 ∧ c = .lineControlStart) ∨ (op = 4 ∧ c = .lineControlSet)
            ∨ (op = 5 ∧ c = .lineControlStatus) ∨ (op = 6 ∧ c = .lineControlClear)
            ∨ (op = 2 ∧ c = .lineControlStop
              ∧ (shapeOk b = false ∨ state = .stopped ∨ state = .stopping ∨ state = .faulted))
            ∨ (op = 3 ∧ c = .lineControlDrain ∧ (shapeOk b = false ∨ state ≠ .running))
            ∨ ((op = 0 ∨ 6 < op) ∧ c ∈ [.lineControlStart, .lineControlStop, .lineControlDrain,
                .lineControlSet, .lineControlStatus, .lineControlClear])))
          ∨ (recKind b = 5 ∧ ((op = 1 ∧ c = .stationControlAdd) ∨ (op = 2 ∧ c = .stationControlRemove)
            ∨ (op = 3 ∧ c = .stationControlQuery)
            ∨ ((op = 0 ∨ 3 < op) ∧ c ∈ [.stationControlAdd, .stationControlRemove,
                .stationControlQuery])))
          ∨ (c = .timeRead ∧ recKind b = 6)
          ∨ (c = .unknownKindRecord ∧ (recKind b = 0 ∨ 7 ≤ recKind b)) →
        ¬ s.HasPlace → ∃ t, exec c s = .next t ∧ s.SetAside t g b [.immediatePlace])
  ∧ ∀ s : State, s.device.state = .running →
    (∀ f q rest, s.retire.posting = .writing f → s.retire.queue = q :: rest →
      s.cfg.mayWrite (s.cfg.completionRing.slot s.cplRing.posted 32) 32 = true →
      ∃ t, exec (.completionRecordWriteEnd .done) s = .next t ∧ ∀ r, s.ReturnedTo t (s.freedBy q.item) r)
    ∧ ∀ r i lacks, (s.ringUnit r).hold.state = .loading i false → s.inTurn (.load r) = true →
      (s.ringUnit (otherRing r)).hold.state = .waiting lacks →
      (∀ bytes, bytes.length = (s.entry i).requestLength →
        s.cfg.mayRead (s.entry i).requestAddress (s.entry i).requestLength = true →
        ∃ t, exec (.loadEnd r bytes) s = .next t ∧ s.ReturnedTo t [.loadEnd i] (otherRing r))
      ∧ ∀ received, ∃ t, exec (.loadError r received) s = .next t
        ∧ s.ReturnedTo t (s.freedBy (.entry i) ++ [.loadEnd i]) (otherRing r)

/-- An ABORT that retires nothing: BAD_RECORD for its shape, NOT_FOUND with no occupied entry of the named
ring and tag, TOO_LATE for a RETIRING one, BUSY for one in EXCHANGE with an ABORT pending already, with
nothing else of the part changed. An entry in EXCHANGE with none is marked ABORT_PENDING, and the ABORT's
completion takes an immediate place and waits there for the ending, outside the retire queue (R95, R96,
R135, R140). -/
def Obligations.AbortOutcomes : Prop :=
  ∀ (s : State) (g : Grant) (b : List Byte), s.AtApplication g b → recKind b = 2 → s.HasPlace →
    let shape := recTargetRingNumber b ≤ 1 ∧ zeroFieldsOk b = true
    let completes := fun status => ∃ t, exec .abort s = .next t ∧ s.OnlyCompleted t g b status []
    (¬ shape → completes .badRecord)
    ∧ (shape → ¬ s.TagTaken (recTargetRing b) (recTargetTag b) → completes .notFound)
    ∧ (shape → s.TagsOk → ∀ i, (s.entry i).ring = recTargetRing b → (s.entry i).tag = recTargetTag b →
        ((s.entry i).state = .retiring → completes .tooLate)
        ∧ ((s.entry i).state = .exchange → (s.entry i).abortPending = true → completes .busy)
        ∧ ((s.entry i).state = .exchange → (s.entry i).abortPending = false →
            ∃ t, exec .abort s = .next t ∧ s.AppliedAndLeft t g
              ∧ t.entry i = { s.entry i with abortPending := true }
              ∧ (∀ j, j ≠ i → t.entry j = s.entry j)
              ∧ (∃ p, s.admission.places.get p = none
                  ∧ t.admission.places = s.admission.places.set p
                      (some { tag := recTag b, ring := g.ring, kind := recKindByte b, status := .ok,
                              result := zeroResult, target := some i }))
              ∧ t.retire.queue = s.retire.queue ∧ t.lines = s.lines ∧ t.stations = s.stations
              ∧ t.store = s.store ∧ s.SameHost t ∧ s.NoIndication t))

/-- An ABORT of a TRANSACT entry that is QUEUED, in RETRY_WAIT or DEFERRED retires it ABORTED, its token
appended to the station's release list, and completes OK directly after it; of a FENCE in FENCE_WAIT the
same. The line then goes on as its changed work asks: the arbiter of an IDLE one is evaluated, a DRAINING one
that holds no entry comes to rest. No FENCE waits for the target (R95, R89, R109, R35, R51). -/
def Obligations.AbortRetires : Prop :=
  ∀ (s : State) (g : Grant) (b : List Byte) (i : EntryIx), s.AtApplication g b → recKind b = 2 →
    s.HasPlace → recTargetRingNumber b ≤ 1 → zeroFieldsOk b = true → s.TagsOk →
    (s.entry i).ring = recTargetRing b → (s.entry i).tag = recTargetTag b →
    s.NoFenceOn i →
    (∀ a, (s.entry i).station = some a →
        (s.entry i).state = .queued ∨ (s.entry i).state = .retryWait ∨ (s.entry i).state = .deferred →
        ∃ u, s.EntryRetired u i a .aborted (s.entry i).token
          ∧ s.Then .abort (s.entry i).line fun t => u.OnlyCompleted t g b .ok [])
    ∧ ((s.entry i).station = none → (s.entry i).state = .fenceWait →
        s.Then .abort (s.entry i).line fun t => s.AppliedAndLeft t g
          ∧ t.entry i = (s.entry i).retired .aborted ∧ (∀ j, j ≠ i → t.entry j = s.entry j)
          ∧ (∃ p, s.admission.places.get p = none
              ∧ t.admission.places = s.admission.places.set p
                  (some { tag := recTag b, ring := g.ring, kind := recKindByte b, status := .ok,
                          result := zeroResult, target := none })
              ∧ t.retire.queue = s.retire.queue
                  ++ [{ item := .entry i, stamp := s.time.now },
                      { item := .immediate p, stamp := s.time.now }])
          ∧ t.lines = s.lines ∧ t.stations = s.stations ∧ t.store = s.store ∧ s.SameHost t
          ∧ s.NoIndication t)


/-- A FENCE with a good shape and a free tag takes the FREE entry with the lowest index, in FENCE_WAIT, and
waits for the TRANSACT entries of its ring and line with a lower admission number that are not RETIRING, its
not-OK count 0; with none of them it retires OK at once. Its completion's result area carries the waiting
count it was given, the not-OK count, and zeros. A FENCE with a good shape whose tag an occupied entry of its
ring holds is rejected DUPLICATE_TAG (R141, R98, R99, R133). -/
def Obligations.FenceTaken : Prop :=
  (∀ e : Entry, e.kind = .fence → e.result .ok =
      le16 (BitVec.ofNat 16 e.waitPlaced) ++ le16 (BitVec.ofNat 16 e.notOkCount)
        ++ [0, 0, 0, 0, 0, 0, 0, 0])
    ∧ (∀ (s : State) (g : Grant) (b : List Byte), s.AtApplication g b → recKind b = 3 →
      recLineNumber b ≤ 3 → zeroFieldsOk b = true → s.TagTaken g.ring (recTag b) → s.HasPlace →
      ∃ t, exec .fence s = .next t ∧ s.OnlyCompleted t g b .duplicateTag [])
    ∧ ∀ (s : State) (g : Grant) (b : List Byte) (i : EntryIx), s.AtApplication g b → recKind b = 3 →
      recLineNumber b ≤ 3 → zeroFieldsOk b = true → ¬ s.TagTaken g.ring (recTag b) → s.LowestFree i →
      ∃ t waits fence, exec .fence s = .next t ∧ s.AppliedAndLeft t g
        ∧ waits.Nodup
        ∧ (∀ j, j ∈ waits ↔
            (s.entry j).state ≠ .free ∧ (s.entry j).state ≠ .retiring ∧ (s.entry j).kind = .transact
              ∧ (s.entry j).ring = g.ring ∧ (s.entry j).line = recLine b
              ∧ (s.entry j).admission.toNat < s.admission.counter.toNat)
        ∧ fence =
            { Entry.reset with
              state := .fenceWait, kind := .fence, ring := g.ring, tag := recTag b
              admission := s.admission.counter, line := recLine b
              waitsFor := waits, waitPlaced := waits.length, notOkCount := 0 }
        ∧ (waits ≠ [] → t.entry i = fence ∧ t.retire.queue = s.retire.queue)
        ∧ (waits = [] → t.entry i = fence.retired .ok
            ∧ t.retire.queue = s.retire.queue ++ [{ item := .entry i, stamp := s.time.now }])
        ∧ (∀ j, j ≠ i → t.entry j = s.entry j)
        ∧ t.admission.places = s.admission.places ∧ t.lines = s.lines ∧ t.stations = s.stations
        ∧ t.store = s.store ∧ s.SameHost t ∧ s.NoIndication t

/-! ### LINE_CONTROL -/

/-- START of a line in STOPPED or FAULTED: RUNNING with no cause, IDLE with the
receiver in HUNT, the echo fault count, fairness credit, beacon number and mark count 0, the beacon timer
started unless the period is 0, the probe timer started, the linger timer of every station with a release
list started; a LINE_STATE indication; completion OK; the arbiter is evaluated. At any other line
WRONG_STATE, nothing changed (R33, R51, R73). -/
def Obligations.LineStart : Prop :=
  ∀ (s : State) (g : Grant) (b : List Byte), s.AtApplication g b → recKind b = 4 → recOp b = 1 →
    recLineNumber b ≤ 3 → zeroFieldsOk b = true → s.HasPlace →
    let l := recLine b
    let p := (s.line l).params
    ((s.line l).state = .stopped ∨ (s.line l).state = .faulted →
      s.Then .lineControlStart l fun t => s.CompletedBy t g b .ok []
        ∧ t.line l =
            { s.line l with
              state := .running, faultCause := .none, phase := .idle, receiver := .hunt
              echoFaults := 0, credit := 0, beaconNumber := 0, markCount := 0
              beaconTimer := if p.beaconPeriod = 0 then .stopped else .running (1000 * p.beaconPeriod)
              probeTimer := Timer.start (1000 * p.probeInterval) }
        ∧ (∀ a, t.station l a =
            if (s.station l a).release = [] then s.station l a
            else { s.station l a with linger := Timer.start (1000 * p.releaseLinger) })
        ∧ s.SameOtherLines t l ∧ t.entries = s.entries ∧ t.store = s.store ∧ s.SameHost t
        ∧ s.OneIndication t l (.lineState .running .none))
    ∧ ((s.line l).state = .running ∨ (s.line l).state = .draining ∨ (s.line l).state = .stopping →
      ∃ t, exec .lineControlStart s = .next t ∧ s.OnlyCompleted t g b .wrongState [])

/-- STOP of a RUNNING line with its control place empty: STOPPING, the STOP in the control place, no due
flag, the beacon timer stopped, a LINE_STATE indication. With no exchange in flight the line comes to rest at
once: its entries retire LINE_STOPPED, the STOP completes OK behind them, and a second LINE_STATE indication is
given. With the control place held the record is set aside for it; a line that is
not RUNNING or DRAINING answers WRONG_STATE. At a DRAINING line the STOP supersedes the DRAIN, which
completes SUPERSEDED through an immediate place, or is set aside when none is FREE; that its item stands in
front of those of the entries the STOP retires is the model's choice (log 35; R34, R36, R38, R100, R142). -/
def Obligations.LineStop : Prop :=
  ∀ (s : State) (g : Grant) (b : List Byte), s.AtApplication g b → recKind b = 4 → recOp b = 2 →
    recLineNumber b ≤ 3 → zeroFieldsOk b = true →
    let l := recLine b
    let stopping : LineEngine :=
      { s.line l with
        state := .stopping, control := .pending .stop (recTag b) g.ring, beaconDue := false
        reprobeDue := false, beaconTimer := .stopped }
    let frame := fun t : State => s.AppliedAndLeft t g ∧ t.line l = stopping
      ∧ s.OneIndication t l (.lineState .stopping (s.line l).faultCause) ∧ t.stations = s.stations
      ∧ s.SameOtherLines t l ∧ t.entries = s.entries ∧ t.store = s.store ∧ s.SameHost t
    ((s.line l).state = .running → (s.line l).control = .empty →
      s.Then .lineControlStop l fun t => frame t ∧ t.retire.queue = s.retire.queue
        ∧ t.admission.places = s.admission.places)
    ∧ ((s.line l).state = .running → (s.line l).control ≠ .empty →
      ∃ t, exec .lineControlStop s = .next t ∧ s.SetAside t g b [.controlPlace l])
    ∧ ((s.line l).state = .stopped ∨ (s.line l).state = .stopping ∨ (s.line l).state = .faulted →
      s.HasPlace → ∃ t, exec .lineControlStop s = .next t ∧ s.OnlyCompleted t g b .wrongState [])
    ∧ (∀ tag ring, (s.line l).state = .draining → (s.line l).control = .pending .drain tag ring →
      (s.HasPlace → ∃ p, s.admission.places.get p = none
        ∧ s.Then .lineControlStop l fun t => frame t
          ∧ t.admission.places = s.admission.places.set p
              (some { tag := tag, ring := ring, kind := 4, status := .superseded, result := zeroResult,
                      target := none })
          ∧ t.retire.queue = s.retire.queue ++ [{ item := .immediate p, stamp := s.time.now }])
      ∧ (¬ s.HasPlace → ∃ t, exec .lineControlStop s = .next t ∧ s.SetAside t g b [.immediatePlace]))

/-- DRAIN of a RUNNING line with its control place empty: DRAINING, the DRAIN in the control place, no
re-probe due, a LINE_STATE indication. With no entry on the line and no exchange in flight it comes to rest at
once and the DRAIN completes OK; the arbiter of an IDLE line with an entry is evaluated. With the control place
held the record is set aside; a line that is not RUNNING answers WRONG_STATE (R35, R36, R38, R51). -/
def Obligations.LineDrain : Prop :=
  ∀ (s : State) (g : Grant) (b : List Byte), s.AtApplication g b → recKind b = 4 → recOp b = 3 →
    recLineNumber b ≤ 3 → zeroFieldsOk b = true →
    let l := recLine b
    ((s.line l).state = .running → (s.line l).control = .empty →
      s.Then .lineControlDrain l fun t => s.AppliedAndLeft t g
        ∧ t.line l =
            { s.line l with
              state := .draining, control := .pending .drain (recTag b) g.ring, reprobeDue := false }
        ∧ s.OneIndication t l (.lineState .draining (s.line l).faultCause)
        ∧ t.retire.queue = s.retire.queue ∧ t.stations = s.stations ∧ s.SameOtherLines t l
        ∧ t.entries = s.entries ∧ t.store = s.store ∧ t.admission.places = s.admission.places
        ∧ s.SameHost t)
    ∧ ((s.line l).state = .running → (s.line l).control ≠ .empty →
      ∃ t, exec .lineControlDrain s = .next t ∧ s.SetAside t g b [.controlPlace l])
    ∧ ((s.line l).state ≠ .running → s.HasPlace →
      ∃ t, exec .lineControlDrain s = .next t ∧ s.OnlyCompleted t g b .wrongState [])

/-- SET at a line in STOPPED or FAULTED replaces all thirteen parameters at once, when every one lies in its
range; a changed failure threshold sets the failures of an OFFLINE station to it and of an UNKNOWN, ONLINE
or SUSPECT one to 0. A parameter out of range is BAD_RECORD and an active line WRONG_STATE, nothing changed
(R39). -/
def Obligations.LineSet : Prop :=
  ∀ (s : State) (g : Grant) (b : List Byte), s.AtApplication g b → recKind b = 4 → recOp b = 4 →
    recLineNumber b ≤ 3 → zeroFieldsOk b = true → s.HasPlace →
    let l := recLine b
    let p : LineParams :=
      { rateCode := (byteAt b 40).toNat, defaultAttempts := (byteAt b 41).toNat
        responseWindow := (halfAt b 42).toNat, turnaroundGap := (halfAt b 44).toNat
        lateGuard := (halfAt b 46).toNat, retryHoldoffBase := (halfAt b 48).toNat
        failureThreshold := (byteAt b 50).toNat, collectLimit := (byteAt b 51).toNat
        collectInterval := (halfAt b 52).toNat, probeInterval := (halfAt b 54).toNat
        beaconPeriod := (halfAt b 56).toNat, markValue := (halfAt b 58).toNat
        releaseLinger := (halfAt b 60).toNat }
    let good :=
      p.rateCode ≤ 7 ∧ 100 ≤ p.responseWindow ∧ (20 ≤ p.turnaroundGap ∧ p.turnaroundGap ≤ 5000)
        ∧ 100 ≤ p.retryHoldoffBase ∧ (1 ≤ p.defaultAttempts ∧ p.defaultAttempts ≤ 8)
        ∧ (1 ≤ p.failureThreshold ∧ p.failureThreshold ≤ 15) ∧ 1 ≤ p.collectInterval
        ∧ 1 ≤ p.collectLimit ∧ 10 ≤ p.probeInterval ∧ 1 ≤ p.markValue
        ∧ (1 ≤ p.releaseLinger ∧ p.releaseLinger ≤ 1000)
    let inactive := (s.line l).state = .stopped ∨ (s.line l).state = .faulted
    (inactive → good →
      ∃ t, exec .lineControlSet s = .next t ∧ s.CompletedBy t g b .ok []
        ∧ t.line l = { s.line l with params := p }
        ∧ (∀ a, t.station l a =
            if p.failureThreshold = (s.line l).params.failureThreshold
                ∨ (s.station l a).state = .absent then s.station l a
            else if (s.station l a).state = .offline then
              { s.station l a with failures := p.failureThreshold }
            else { s.station l a with failures := 0 })
        ∧ s.SameOtherLines t l ∧ t.entries = s.entries ∧ t.store = s.store ∧ s.SameHost t
        ∧ s.NoIndication t)
    ∧ (inactive → ¬ good →
      ∃ t, exec .lineControlSet s = .next t ∧ s.OnlyCompleted t g b .badRecord [])
    ∧ (¬ inactive → ∃ t, exec .lineControlSet s = .next t ∧ s.OnlyCompleted t g b .wrongState [])

/-- STATUS completes OK with the sample of the line engine and changes nothing. CLEAR completes OK with the
value the line error counter held just before in bytes 0 and 1, low byte first, and zeros after it; the
counter is 0 (R40, R41). -/
def Obligations.LineSamples : Prop :=
  ∀ (s : State) (g : Grant) (b : List Byte), s.AtApplication g b → recKind b = 4 →
    recLineNumber b ≤ 3 → zeroFieldsOk b = true → s.HasPlace →
    let l := recLine b
    let ln := s.line l
    let state := match ln.state with
      | .stopped => 0
      | .running => 1
      | .draining => 2
      | .stopping => 3
      | .faulted => 4
    let cause := match ln.state, ln.faultCause with
      | .faulted, .jabber => 1
      | .faulted, .echo => 2
      | _, _ => 0
    let phase := match ln.phase with
      | .idle => 0
      | .transmit => 1
      | .listen => 2
      | .receive => 3
      | .guard => 4
    let held := ((List.finRange 64).filter fun i =>
      decide ((s.entry i).state ≠ .free ∧ (s.entry i).state ≠ .retiring ∧ (s.entry i).line = recLine b)).length
    let offline := ((List.finRange 31).filter fun a : Fin 31 =>
      decide (a.val < 30 ∧ (s.station (recLine b) a).state = .offline)).length
    (recOp b = 5 → ∃ t, exec .lineControlStatus s = .next t
      ∧ s.OnlyCompleted t g b .ok
          [byteOf state, byteOf cause, byteOf ln.errors, byteOf (ln.errors / 256), byteOf ln.echoFaults,
            byteOf held, ln.beaconNumber.extractLsb' 0 8, ln.beaconNumber.extractLsb' 8 8,
            byteOf ln.markCount, byteOf (ln.markCount / 256), byteOf offline, byteOf phase])
    ∧ (recOp b = 6 → ∃ t, exec .lineControlClear s = .next t
      ∧ s.CompletedBy t g b .ok
          [byteOf ln.errors, byteOf (ln.errors / 256), 0, 0, 0, 0, 0, 0, 0, 0, 0, 0]
      ∧ t.line l = { ln with errors := 0 } ∧ s.SameOtherLines t l ∧ t.stations = s.stations
      ∧ t.entries = s.entries ∧ t.store = s.store ∧ s.SameHost t ∧ s.NoIndication t)


/-! ### Records at the Station Table, samples and rejections -/

/-- ADD of an ABSENT station 1 to 30: UNKNOWN with its sequence bit kept and every other field as after
reset, a STATION_STATE indication, completion OK with the state; of any other, WRONG_STATE with its state;
of address 31, BAD_RECORD (R75, R74, R62). -/
def Obligations.StationAdd : Prop :=
  ∀ (s : State) (g : Grant) (b : List Byte), s.AtApplication g b → recKind b = 5 → recOp b = 1 →
    recLineNumber b ≤ 3 → 1 ≤ recStationNumber b ∧ recStationNumber b ≤ 31 → zeroFieldsOk b = true →
    s.HasPlace →
    let l := recLine b
    let a := recStation b
    (recStationNumber b ≤ 30 → (s.station l a).state = .absent →
      ∃ t, exec .stationControlAdd s = .next t ∧ s.CompletedBy t g b .ok [1]
        ∧ t.station l a = { StationRecord.reset with state := .unknown, seqBit := (s.station l a).seqBit }
        ∧ (∀ c, c ≠ a → t.station l c = s.station l c) ∧ s.SameOtherLines t l ∧ t.lines = s.lines
        ∧ t.entries = s.entries ∧ t.store = s.store ∧ s.SameHost t
        ∧ s.OneIndication t l (.stationState (recStationNumber b) .absent .unknown .add 0))
    ∧ (recStationNumber b ≤ 30 → (s.station l a).state ≠ .absent →
      ∃ t, exec .stationControlAdd s = .next t
        ∧ s.OnlyCompleted t g b .wrongState [byteOf (s.station l a).state.code])
    ∧ (recStationNumber b = 31 →
      ∃ t result, exec .stationControlAdd s = .next t ∧ s.OnlyCompleted t g b .badRecord result)

/-- REMOVE of a station 1 to 30 without work: every field but the sequence bit at its reset value, ABSENT,
a STATION_STATE indication unless it was ABSENT already, completion OK with state ABSENT; with work (a FIFO
or deferred list that is not empty, an exchange addressed to it in flight, an entry for it LOADING) BUSY
with its state; of address 31, BAD_RECORD (R76, R74, R62). -/
def Obligations.StationRemove : Prop :=
  ∀ (s : State) (g : Grant) (b : List Byte), s.AtApplication g b → recKind b = 5 → recOp b = 2 →
    recLineNumber b ≤ 3 → 1 ≤ recStationNumber b ∧ recStationNumber b ≤ 31 → zeroFieldsOk b = true →
    s.HasPlace →
    let l := recLine b
    let a := recStation b
    let old := s.station l a
    let work := old.fifo ≠ [] ∨ old.deferred ≠ []
      ∨ ((s.line l).inFlight = true ∧ ∃ ex, (s.line l).current = some ex ∧ ex.station = a)
      ∨ ∃ i, (s.entry i).state = .loading ∧ (s.entry i).line = l ∧ (s.entry i).station = some a
    (recStationNumber b ≤ 30 → ¬ work →
      ∃ t, exec .stationControlRemove s = .next t ∧ s.CompletedBy t g b .ok [0]
        ∧ t.station l a = { StationRecord.reset with seqBit := old.seqBit }
        ∧ (∀ c, c ≠ a → t.station l c = s.station l c) ∧ s.SameOtherLines t l ∧ t.lines = s.lines
        ∧ t.entries = s.entries ∧ t.store = s.store ∧ s.SameHost t
        ∧ (old.state = .absent → s.NoIndication t)
        ∧ (old.state ≠ .absent → s.OneIndication t l
            (.stationState (recStationNumber b) old.state .absent .remove (old.statusWord.getD 0))))
    ∧ (recStationNumber b ≤ 30 → work →
      ∃ t, exec .stationControlRemove s = .next t
        ∧ s.OnlyCompleted t g b .busy [byteOf old.state.code])
    ∧ (recStationNumber b = 31 →
      ∃ t result, exec .stationControlRemove s = .next t ∧ s.OnlyCompleted t g b .badRecord result)

/-- QUERY completes OK with the sample of the station record, for address 31 its state ONLINE and FIFO
length and zeros; TIME_READ completes OK with device time and the four beacon numbers, low byte first.
Neither changes anything (R77, R30). -/
def Obligations.QueryAndTimeRead : Prop :=
  ∀ (s : State) (g : Grant) (b : List Byte), s.AtApplication g b → zeroFieldsOk b = true →
    s.HasPlace →
    let r := s.station (recLine b) (recStation b)
    let word := r.statusWord.getD 0
    let state := match r.state with
      | .absent => 0
      | .unknown => 1
      | .online => 2
      | .suspect => 3
      | .offline => 4
    let inFlight := (s.line (recLine b)).inFlight = true
      ∧ ∃ ex, (s.line (recLine b)).current = some ex ∧ ex.station = recStation b
    (recKind b = 5 → recOp b = 3 → recLineNumber b ≤ 3 →
      (1 ≤ recStationNumber b → recStationNumber b ≤ 30 → ∀ bits,
          (bits.getLsbD 0 = true ↔ r.statusWord ≠ none) → (bits.getLsbD 1 = true ↔ r.flushDue ≠ none) →
          (bits.getLsbD 2 = true ↔ inFlight) → bits.toNat < 8 →
        ∃ t, exec .stationControlQuery s = .next t
          ∧ s.OnlyCompleted t g b .ok
              [byteOf state, byteOf (if r.seqBit then 1 else 0), byteOf r.failures,
                byteOf (if r.attention then 1 else 0), byteOf r.fifo.length, byteOf r.deferred.length,
                byteOf r.release.length, bits, word.extractLsb' 0 8, word.extractLsb' 8 8, 0, 0])
      ∧ (recStationNumber b = 31 →
        ∃ t, exec .stationControlQuery s = .next t
          ∧ s.OnlyCompleted t g b .ok [2, 0, 0, 0, byteOf r.fifo.length, 0, 0, 0, 0, 0, 0, 0]))
    ∧ (recKind b = 6 →
      ∃ t, exec .timeRead s = .next t
        ∧ s.OnlyCompleted t g b .ok
            (le32 s.time.now ++ le16 (s.line 0).beaconNumber ++ le16 (s.line 1).beaconNumber
              ++ le16 (s.line 2).beaconNumber ++ le16 (s.line 3).beaconNumber))

/-- The fields of a submission record stand at the offsets of its table, and every byte and bit the table
does not give to a record's kind, or outside a SET to the parameter block, is a zero field. A record that
fails checks 1 to 6 is rejected BAD_RECORD with its own record kind, and nothing else changes: an unknown
kind, a FENCE, a LINE_CONTROL or STATION_CONTROL (for an op outside its range whichever row of the kind is
asked, the model's choice, log 15), a TIME_READ (R131, R134, R170). -/
def Obligations.MalformedRecords : Prop :=
  (∀ b : List Byte,
    (recKind b = numberAt b 0 ∧ recLineNumber b = numberAt b 1 ∧ fieldAt b 2 (recTag b)
      ∧ recStationNumber b = numberAt b 4 ∧ recOp b = numberAt b 5
      ∧ recDeferOk b = (b.getD 6 0).getLsbD 0 ∧ recAttempts b = numberAt b 7
      ∧ recDeadline b = number16At b 8 ∧ recRequestLength b = number16At b 10
      ∧ recReplyLength b = number16At b 12 ∧ recTargetRingNumber b = numberAt b 14
      ∧ fieldAt b 16 (recTargetTag b) ∧ fieldAt b 24 (recRequestAddress b)
      ∧ fieldAt b 32 (recReplyAddress b))
    ∧ (recLineNumber b ≤ 3 → (recLine b).val = recLineNumber b)
    ∧ (1 ≤ recStationNumber b → recStationNumber b ≤ 31 → addressOf (recStation b) = recStationNumber b)
    ∧ (recTargetRingNumber b = 0 → recTargetRing b = .h)
    ∧ (recTargetRingNumber b = 1 → recTargetRing b = .l)
    ∧ (let used := fun offset : Nat => offset = 0 ∨ offset = 2 ∨ offset = 3
        ∨ (recKind b = 1 ∧ (offset = 1 ∨ offset = 4 ∨ (7 ≤ offset ∧ offset ≤ 13)
            ∨ (24 ≤ offset ∧ offset ≤ 39)))
        ∨ (recKind b = 2 ∧ (offset = 14 ∨ offset = 16 ∨ offset = 17))
        ∨ (recKind b = 3 ∧ offset = 1)
        ∨ (recKind b = 4 ∧ (offset = 1 ∨ offset = 5 ∨ (recOp b = 4 ∧ 40 ≤ offset ∧ offset ≤ 61)))
        ∨ (recKind b = 5 ∧ (offset = 1 ∨ offset = 4 ∨ offset = 5))
      zeroFieldsOk b = true ↔ ∀ i, i < 64 → ¬ used i →
        b.getD i 0 = 0 ∨ (recKind b = 1 ∧ i = 6 ∧ numberAt b 6 ≤ 1)))
  ∧ (∀ b : List Byte,
      (recKind b = 0 ∨ 7 ≤ recKind b → shapeOk b = false)
      ∧ (recKind b = 3 → (shapeOk b = true ↔ recLineNumber b ≤ 3 ∧ zeroFieldsOk b = true))
      ∧ (recKind b = 4 → (shapeOk b = true ↔
          recLineNumber b ≤ 3 ∧ (1 ≤ recOp b ∧ recOp b ≤ 6) ∧ zeroFieldsOk b = true))
      ∧ (recKind b = 5 → (shapeOk b = true ↔
          recLineNumber b ≤ 3 ∧ (1 ≤ recStationNumber b ∧ recStationNumber b ≤ 31)
            ∧ (1 ≤ recOp b ∧ recOp b ≤ 3) ∧ zeroFieldsOk b = true))
      ∧ (recKind b = 6 → (shapeOk b = true ↔ zeroFieldsOk b = true)))
    ∧ ∀ (s : State) (g : Grant) (b : List Byte) (c : Instr), s.AtApplication g b → s.HasPlace →
      shapeOk b = false →
      (c = .unknownKindRecord ∧ (recKind b = 0 ∨ 7 ≤ recKind b))
        ∨ (c = .fence ∧ recKind b = 3) ∨ (c = .timeRead ∧ recKind b = 6)
        ∨ (recKind b = 4 ∧ ∃ op, (recOp b = op ∨ recOp b = 0 ∨ 6 < recOp b)
            ∧ (op, c) ∈ [(1, Instr.lineControlStart), (2, .lineControlStop), (3, .lineControlDrain),
                (4, .lineControlSet), (5, .lineControlStatus), (6, .lineControlClear)])
        ∨ (recKind b = 5 ∧ ∃ op, (recOp b = op ∨ recOp b = 0 ∨ 3 < recOp b)
            ∧ (op, c) ∈ [(1, Instr.stationControlAdd), (2, .stationControlRemove),
                (3, .stationControlQuery)]) →
      ∃ t, exec c s = .next t ∧ s.OnlyCompleted t g b .badRecord []

/-! ### Loads -/

/-- A load that ends without error stores the request in the entry's chain, byte k in segment k / 64 of the
chain at offset k mod 64, and the entry is placed: QUEUED at the tail of its station's FIFO with the deadline
timer started; the record leaves its hold, and the arbiter of an IDLE line is evaluated. An entry whose line is
STOPPING, STOPPED or FAULTED, or whose station is OFFLINE, retires instead, LINE_STOPPED, LINE_FAULT or
STATION_OFFLINE. The end of the load returns to a hold of the other ring that waits for it. A load that must
wait for the other ring's placement stays in the hold, and is placed directly behind it (R81, R119, R130, R138,
R35, R51). -/
def Obligations.LoadEnds : Prop :=
  (∀ (m : Memory) (chain : List SegIx) (bytes : List Byte), m.wf = true → chain.Nodup →
    bytes.length ≤ 64 * chain.length →
    let placeOf := fun k : Nat => 64 * (chain.getD (k / 64) 0).val + k % 64
    (∀ k, k < bytes.length → (m.writeChain chain bytes).read (placeOf k) = bytes.getD k 0)
    ∧ ∀ x, (∀ k, k < bytes.length → x ≠ placeOf k) → (m.writeChain chain bytes).read x = m.read x)
  ∧ ∀ (s : State) (r : Ring) (i : EntryIx) (a : Station) (bytes : List Byte), s.device.state = .running →
    (s.ringUnit r).hold.state = .loading i false → s.inTurn (.load r) = true →
    (s.entry i).state = .loading → (s.entry i).station = some a → bytes.length = (s.entry i).requestLength →
    s.cfg.mayRead (s.entry i).requestAddress (s.entry i).requestLength = true →
    let e := s.entry i
    let other := (s.ringUnit (otherRing r)).hold.state
    let store := { s.store with bytes := s.store.bytes.writeChain e.requestChain bytes }
    let queued := fun e : Entry =>
      { e with
        state := .queued
        deadlineTimer := if e.deadline = 0 then .stopped else Timer.start (1000 * e.deadline) }
    let taking := (s.line e.line).state = .running ∨ (s.line e.line).state = .draining
    let common := fun t : State =>
      t.store = store ∧ t.lines = s.lines ∧ (∀ m c, m ≠ e.line ∨ c ≠ a → t.station m c = s.station m c)
        ∧ t.admission.places = s.admission.places ∧ t.admission.counter = s.admission.counter
        ∧ t.admission.credit = s.admission.credit ∧ s.SameHost t ∧ s.NoIndication t ∧ s.Begins t
    let frame := fun t : State =>
      common t ∧ (∀ j, j ≠ i → t.entry j = s.entry j)
        ∧ t.ringUnit r = (s.ringUnit r).leave ∧ s.ReturnedTo t [.loadEnd i] (otherRing r)
        ∧ t.admission.asked = s.admission.asked.filter (· != .load r) ++ s.leaveAsks r
    let after := fun j => (s.entry j).state = .loading ∧ (s.entry j).line = e.line
      ∧ (s.entry j).station = some a ∧ (s.entry j).admission.toNat < e.admission.toNat
    let free := ∀ j c, other = .loading j c → c = false ∧ ¬ after j
    (free → taking → (s.station e.line a).state ≠ .offline →
      s.Then (.loadEnd r bytes) e.line fun t => frame t ∧ t.entry i = queued e
        ∧ t.station e.line a = { s.station e.line a with fifo := (s.station e.line a).fifo ++ [i] }
        ∧ t.retire.queue = s.retire.queue)
    ∧ (free → e.unansweredAttempt = false → s.NoAbortOn i → s.NoFenceOn i →
        ∀ status,
        ((s.line e.line).state = .stopped ∧ status = .lineStopped)
          ∨ ((s.line e.line).state = .faulted ∧ status = .lineFault)
          ∨ ((s.line e.line).state = .stopping ∧ status = .lineStopped)
          ∨ (taking ∧ (s.station e.line a).state = .offline ∧ status = .stationOffline) →
      s.Then (.loadEnd r bytes) e.line fun t => frame t ∧ t.entry i = e.retired status
        ∧ t.station e.line a = (s.station e.line a).afterRetire i none true 0
        ∧ t.retire.queue = s.retire.queue ++ [{ item := .entry i, stamp := s.time.now }])
    ∧ (∀ j c, other = .loading j c → after j →
      ∃ t, exec (.loadEnd r bytes) s = .next t ∧ common t ∧ t.entries = s.entries
        ∧ t.ringUnit r = { s.ringUnit r with hold := { (s.ringUnit r).hold with state := .loading i true } }
        ∧ t.ringUnit (otherRing r) = s.ringUnit (otherRing r)
        ∧ t.admission.asked = s.admission.asked.filter (· != .load r)
        ∧ t.stations = s.stations ∧ t.retire.queue = s.retire.queue)
    ∧ (∀ j, other = .loading j true → j ≠ i → ¬ after j → (s.entry j).state = .loading →
        (s.entry j).line = e.line → (s.entry j).station = some a → taking →
        (s.station e.line a).state ≠ .offline →
      s.Then (.loadEnd r bytes) e.line fun t => common t ∧ t.entry i = queued e
        ∧ t.entry j = queued (s.entry j) ∧ (∀ k, k ≠ i → k ≠ j → t.entry k = s.entry k)
        ∧ t.station e.line a =
            { s.station e.line a with fifo := (s.station e.line a).fifo ++ [i] ++ [j] }
        ∧ t.ringUnit r = (s.ringUnit r).leave
        ∧ t.ringUnit (otherRing r) = (s.ringUnit (otherRing r)).leave
        ∧ t.admission.asked = s.admission.asked.filter (· != .load r) ++ s.leaveAsks r
            ++ s.leaveAsks (otherRing r)
        ∧ t.retire.queue = s.retire.queue)

/-- A load that ends with an error returns the entry's segments, the request chain first, and the entry is FREE;
the record stays in its hold, READY and marked READ_FAILED, and what came free returns to a hold of the other
ring that waits for it. A load of the other ring that is complete and waited for this one is placed now. Its
HOST_READ_ERROR completion then goes through an immediate place, with no further admission number, and the
record leaves the hold; without a place it is set aside. Either way the application stage is free for the next
grant (R119, R129, R130, R136, R138, R139, R81). -/
def Obligations.LoadFails : Prop :=
  (∀ (s : State) (r : Ring) (i : EntryIx) (received : List Byte), s.device.state = .running →
      (s.ringUnit r).hold.state = .loading i false → s.inTurn (.load r) = true →
      let l := (s.entry i).line
      let other := (s.ringUnit (otherRing r)).hold.state
      let asked := s.admission.asked.filter (· != .load r)
      let ends := fun did : State → Prop => s.Then (.loadError r received) l fun t =>
        did t ∧ t.entry i = Entry.reset
        ∧ t.store.freeQueue =
            s.store.freeQueue ++ (s.entry i).requestChain ++ (s.entry i).replyReservation
        ∧ t.ringUnit r =
            { s.ringUnit r with
              hold := { (s.ringUnit r).hold with state := .ready, readFailed := true } }
        ∧ t.admission.counter = s.admission.counter ∧ t.admission.places = s.admission.places
        ∧ t.admission.credit = s.admission.credit ∧ s.Begins t
        ∧ t.retire.queue = s.retire.queue ∧ t.lines = s.lines ∧ s.SameHost t ∧ s.NoIndication t
      ((∀ j c, other = .loading j c → c = false) → ends fun t =>
        (∀ j, j ≠ i → t.entry j = s.entry j)
        ∧ s.ReturnedTo t (s.freedBy (.entry i) ++ [.loadEnd i]) (otherRing r)
        ∧ t.admission.asked = asked ∧ t.stations = s.stations)
      ∧ (∀ j a, other = .loading j true → j ≠ i → (s.entry j).state = .loading → (s.entry j).line = l →
          (s.entry j).station = some a → (s.line l).state = .running ∨ (s.line l).state = .draining →
          (s.station l a).state ≠ .offline → ends fun t =>
        t.entry j =
            { s.entry j with
              state := .queued
              deadlineTimer := if (s.entry j).deadline = 0 then .stopped
                else Timer.start (1000 * (s.entry j).deadline) }
        ∧ (∀ k, k ≠ i → k ≠ j → t.entry k = s.entry k)
        ∧ t.ringUnit (otherRing r) = (s.ringUnit (otherRing r)).leave
        ∧ t.admission.asked = asked ++ s.leaveAsks (otherRing r)
        ∧ t.station l a = { s.station l a with fifo := (s.station l a).fifo ++ [j] }
        ∧ ∀ m c, m ≠ l ∨ c ≠ a → t.station m c = s.station m c))
    ∧ ∀ (s : State) (g : Grant) (b : List Byte), s.device.state = .running →
      s.admission.stage = some g →
      (s.ringUnit g.ring).hold = { state := .ready, bytes := b, readFailed := true } →
      (s.HasPlace → ∃ t p, exec .readFailedCompletion s = .next t
        ∧ s.admission.places.get p = none
        ∧ t.admission.places = s.admission.places.set p
            (some { tag := recTag b, ring := g.ring, kind := recKindByte b, status := .hostReadError,
                    result := zeroResult, target := none })
        ∧ t.retire.queue = s.retire.queue ++ [{ item := .immediate p, stamp := s.time.now }]
        ∧ t.admission.counter = s.admission.counter
        ∧ t.admission.credit = creditApplied g s.admission.credit
        ∧ t.admission.stage = t.regrant ∧ s.PostingAfter t
        ∧ t.ringUnit g.ring = (s.ringUnit g.ring).leave
        ∧ t.ringUnit (otherRing g.ring) = s.ringUnit (otherRing g.ring)
        ∧ t.admission.asked = s.admission.asked ++ s.leaveAsks g.ring
        ∧ s.SameWork t ∧ s.SameHost t ∧ s.NoIndication t)
      ∧ (¬ s.HasPlace → ∃ t, exec .readFailedCompletion s = .next t
        ∧ (t.ringUnit g.ring).hold =
            { state := .waiting [.immediatePlace], bytes := b, readFailed := true }
        ∧ t.ringUnit (otherRing g.ring) = s.ringUnit (otherRing g.ring)
        ∧ t.admission.stage = t.regrant ∧ t.admission.credit = s.admission.credit ∧ s.PostingAfter t
        ∧ t.admission.counter = s.admission.counter ∧ t.admission.asked = s.admission.asked
        ∧ t.retire.queue = s.retire.queue ∧ t.admission.places = s.admission.places
        ∧ s.SameWork t ∧ s.SameHost t ∧ s.NoIndication t)

/-! ### Transmission -/

/-- An echo check that passes before the last character goes on. On the last character a frame to a station
goes to LISTEN with the receiver in HUNT and the response window started; a BEACON ends SENT, counts in the
beacon number and the mark count, gives a MARK when that count reaches the mark value, and GUARD begins with
the turnaround gap. A broadcast POLL ends SENT too, and its entry retires OK with NO_ANSWER_EXPECTED, LATE
with the deadline passed; an ABORT that waits for it completes TOO_LATE directly after it. Nothing passes while
the wire stays at space after a framing error. That an entry with an unanswered attempt keeps
MAY_HAVE_EXECUTED beside NO_ANSWER_EXPECTED is the model's choice (log 19). A DRAINING or STOPPING line then
goes on as R35 and R36 ask (R1, R35, R36, R43, R44, R46, R47, R58, R92, R90, R94, R96, R97). -/
def Obligations.EchoPasses : Prop :=
  ∀ (s : State) (l : Line) (ex : Exchange) (c : LineChar), s.device.state = .running →
    (s.line l).phase = .transmit → (s.line l).current = some ex → (s.line l).atSpace = false →
    c.data = byteAt ex.chars ex.echoed → c.framingError = false →
    let ex' := { ex with echoed := ex.echoed + 1 }
    let ln := s.line l
    let sent : LineEngine :=
      { ln with
        current := some ex', receiver := .hunt, jabberTimer := .stopped, phase := .guard
        windowTimer := .stopped, guardLate := false
        guardTimer := Timer.start ln.params.turnaroundGap, echoFaults := 0
        beaconNumber := ln.beaconNumber + 1 }
    (ex.echoed + 1 < ex.chars.length →
      ∃ t, exec (.echoCheck l (.char c)) s = .next t ∧ s.OnlyLine t l { ln with current := some ex' })
    ∧ (ex.chars.length = ex.echoed + 1 → ex.station ≠ broadcastStation →
      ∃ t, exec (.echoCheck l (.char c)) s = .next t
        ∧ s.OnlyLine t l
            { ln with
              current := some ex', receiver := .hunt, jabberTimer := .stopped, phase := .listen
              windowTimer := Timer.start ln.params.responseWindow })
    ∧ (ex.chars.length = ex.echoed + 1 → ex.station = broadcastStation → ex.owner = .beacon →
      (ln.markCount + 1 < ln.params.markValue →
        s.Then (.echoCheck l (.char c)) l fun t =>
          s.OnlyLine t l { sent with markCount := ln.markCount + 1 })
      ∧ (ln.params.markValue ≤ ln.markCount + 1 →
        s.Then (.echoCheck l (.char c)) l fun t => t.line l = { sent with markCount := 0 }
          ∧ s.OneIndication t l (.mark ex.beaconNumber ex.beaconTime) ∧ s.SameOtherLines t l
          ∧ (∀ a, t.station l a = s.station l a) ∧ (∀ i, t.entry i = s.entry i)
          ∧ t.store = s.store ∧ t.retire.queue = s.retire.queue ∧ s.SameHost t ∧ s.SameAdmission t
          ∧ s.Begins t))
    ∧ (∀ i abort, ex.chars.length = ex.echoed + 1 → ex.station = broadcastStation → ex.owner = .entry i →
        ex.kind = .poll → (s.entry i).state = .exchange → (s.entry i).kind = .transact →
        (s.entry i).line = l → (s.entry i).station = some broadcastStation → s.AbortOn i abort →
        s.NoFenceOn i →
      s.Then (.echoCheck l (.char c)) l fun t =>
        s.ExchangeEnds t l broadcastStation { sent with beaconNumber := ln.beaconNumber }
          ((s.station l broadcastStation).afterRetire i none true 0) i
          ({ s.entry i with lastEnding := .none }.retired .ok)
        ∧ (∃ flags, (t.entry i).final = some { status := .ok, flags := flags }
            ∧ flags.noAnswerExpected = true ∧ flags.late = (s.entry i).deadlinePassed)
        ∧ t.admission.places = s.placesAfter abort .ok
        ∧ t.retire.queue = s.retire.queue ++ s.itemsOf i abort
        ∧ t.store = s.store ∧ s.NoIndication t)

/-- An echo check fails when the data bits differ, on a framing error, or when no start bit was heard, as none
is while the wire stays at space after a framing error: one error is counted, no further character is sent,
the exchange ends ECHO_FAULT and GUARD begins. The attempt is given back, the entry is QUEUED as head again,
and a POLL's attempt is unanswered if the whole frame went out; a COLLECT's entry is DEFERRED and due at once;
ABORT_PENDING and DEADLINE_PASSED decide first. No station failure is counted. The ending of an exchange
brings a STOPPING line to rest, and a DRAINING one that holds no entry: its entries retire LINE_STOPPED, its
STOP or DRAIN completes OK behind them. The eighth echo fault in a row faults the line with cause ECHO once
the owner has taken the ending: its entries, the owner among them, and a pending STOP or DRAIN retire
LINE_FAULT (R1, R35, R36, R37, R43, R46, R48, R50, R88, R94, R96, R112). -/
def Obligations.EchoFaults : Prop :=
  ∀ (s : State) (l : Line) (ex : Exchange) (heard : Heard), s.device.state = .running → s.Active l →
    (s.line l).phase = .transmit → (s.line l).current = some ex →
    (s.line l).atSpace = true
      ∨ (∀ c, heard = .char c → c.data ≠ byteAt ex.chars ex.echoed ∨ c.framingError = true) →
    (s.line l).errors ≤ 65535 →
    let ln := s.line l
    let space := ln.atSpace || (match heard with
      | .char c => c.framingError
      | .nothing => false)
    let faulted : LineEngine :=
      { ln with
        receiver := .hunt, jabberTimer := .stopped, atSpace := space
        errors := min 65535 (ln.errors + 1), phase := .guard, windowTimer := .stopped
        guardLate := false, guardTimer := Timer.start ln.params.turnaroundGap
        echoFaults := ln.echoFaults + 1 }
    let ends := fun did : State → Prop =>
      (ln.echoFaults < 7 → s.Then (.echoCheck l heard) l did)
        ∧ (7 ≤ ln.echoFaults → s.ThenFaults (.echoCheck l heard) l .echo did)
    (ex.owner = .station ∨ ex.owner = .beacon → ends fun t => s.OnlyLine t l faulted)
    ∧ (∀ i, ex.owner = .entry i → (s.entry i).state = .exchange →
      let e := s.entry i
      let goesOn := fun e' => ends fun t => t.line l = faulted
        ∧ t.entry i = e' ∧ (∀ j, j ≠ i → t.entry j = s.entry j) ∧ s.SameOtherLines t l
        ∧ (∀ a, t.station l a = s.station l a) ∧ s.SameRest t
      let retires := fun e' release => ∀ status abort, s.Decided i status abort → s.NoFenceOn i →
        (s.entry i).line = l → (s.entry i).station = some ex.station → ex.station ≠ broadcastStation →
        ends fun t =>
          s.RetiresAfter t l ex.station faulted (s.station l ex.station) i e' status release abort
          ∧ t.store = s.store
      (ex.kind = .poll →
        let tried :=
          { e with
            attemptsUsed := e.attemptsUsed - 1, lastEnding := .echoFault
            unansweredAttempt := e.unansweredAttempt || decide (ex.chars.length ≤ ex.echoed + 1) }
        (e.abortPending = false → e.deadlinePassed = false → goesOn { tried with state := .queued })
        ∧ retires tried none)
      ∧ (ex.kind = .collect →
        let tried :=
          { e with collectAttemptsUsed := e.collectAttemptsUsed - 1, lastEnding := .echoFault }
        (e.abortPending = false → e.deadlinePassed = false →
          goesOn
            { tried with state := .deferred, phaseTimer := .stopped, dueTime := some s.time.increment })
        ∧ retires tried e.token))

/-! ### Reception -/

/-- The frame format. A frame is the sync character 0xB4, ADDR, CTRL, LEN, TOKEN, RELEASE, the payload and the
check value, low byte first. CTRL holds the kind, SEQ, the flag, the release kind and the direction; a master
frame names the item it carries, or 0. The check value is a register preset to 0xFFFF into which header and
payload go, bit 7 of each byte first, generator x^16 + x^12 + x^5 + 1. The receive checks agree with it:
character for character a station frame is stored and its last character makes it valid, and the fields handed
over are the ones it was built from; a frame whose check value, direction or kind is another is not valid (R3,
R5, R6, R7, R9, R15, R16). -/
def Obligations.FrameRoundTrip : Prop :=
  (crc [] = 0xFFFF ∧ ∀ (bytes : List Byte) (b : Byte),
      let feed := fun (register : Half) (n : Nat) =>
        (register <<< 1) ^^^ (if register.getLsbD 15 = b.getLsbD n then 0 else 0x1021)
      crc (bytes ++ [b]) =
        feed (feed (feed (feed (feed (feed (feed (feed (crc bytes) 7) 6) 5) 4) 3) 2) 1) 0)
  ∧ (∀ (addr token release : Nat) (ctrl : Byte) (payload : List Byte),
      let covered := [BitVec.ofNat 8 addr, ctrl, BitVec.ofNat 8 payload.length, BitVec.ofNat 8 token,
        BitVec.ofNat 8 release] ++ payload
      frameChars addr ctrl token release payload =
        [0xB4] ++ covered ++ [(crc covered).extractLsb' 0 8, (crc covered).extractLsb' 8 8])
  ∧ (∀ (kind : Nat) (seq flag event fromStation : Bool), kind < 16 →
      let ctrl := ctrlByte kind seq flag event fromStation
      ctrl.toNat % 16 = kind ∧ ctrl.getLsbD 4 = seq ∧ ctrl.getLsbD 5 = flag ∧ ctrl.getLsbD 6 = event
        ∧ ctrl.getLsbD 7 = fromStation)
  ∧ (∀ (addr token : Nat) (seq flag : Bool) (payload : List Byte),
      ∀ x ∈ [(MasterKind.poll, 1), (.collect, 2), (.probe, 3), (.sync, 4), (.beacon, 5), (.eventFetch, 6)],
        let chars := fun carried => masterChars x.1 addr seq flag token carried payload
        chars none = frameChars addr (ctrlByte x.2 seq flag false false) token 0 payload
          ∧ ∀ item, chars (some item) =
              frameChars addr (ctrlByte x.2 seq flag (decide (item.kind = .event)) false) token item.token
                payload)
  ∧ (∀ (ln : LineEngine) (last : Byte), ln.receiver = .assemble → ln.atSpace = false →
      let buffer := ln.rxBuffer ++ [last]
      let n := (byteAt buffer 3).toNat
      6 ≤ buffer.length → n ≤ 248 → buffer.length = 8 + n →
      let covered := (buffer.drop 1).take (5 + n)
      let value := crc covered
      (ln.classify { data := last, framingError := false } = .valid ↔
        byteAt buffer (6 + n) = value.extractLsb' 0 8 ∧ byteAt buffer (7 + n) = value.extractLsb' 8 8
          ∧ (byteAt buffer 2).getLsbD 7 = true ∧ 8 ≤ (byteAt buffer 2).toNat % 16
          ∧ (byteAt buffer 2).toNat % 16 ≤ 14))
  ∧ ∀ (addr kind token release : Nat) (seq attention event : Bool) (payload : List Byte),
    addr < 256 → token < 256 → 8 ≤ kind → kind ≤ 14 → payload.length ≤ 248 →
    let frame := frameChars addr (ctrlByte kind seq attention event true) token release payload
    frame.length = 8 + payload.length
    ∧ parseFrame frame =
        { addr := byteOf addr, kind := kind, seq := seq, attention := attention
          length := payload.length, token := token, payload := payload }
    ∧ ∀ (ln : LineEngine) (k : Nat), 1 ≤ k → k < frame.length → ln.receiver = .assemble →
      ln.atSpace = false → ln.rxBuffer = frame.take k →
      ln.classify { data := byteAt frame k, framingError := false } =
        if k + 1 = frame.length then .valid else .stored

/-- The receiver's own events. A sync arrival in HUNT begins ASSEMBLE and starts the jabber timer; in LISTEN
it stops the response window and begins RECEIVE; in a GUARD after a NO_ANSWER ending it marks the sequence
LATE. A character before its frame is complete is stored in ASSEMBLE and dropped in DISCARD. DISCARD ends
in HUNT with the jabber timer stopped, and the arbiter of an IDLE line is evaluated. A return to mark ends the
wait after a framing error (log 10; R14, R44, R47, R49, R51, R1). -/
def Obligations.ReceiverTakes : Prop :=
  ∀ (s : State) (l : Line), s.device.state = .running →
    let ln := s.line l
    (ln.receiver = .hunt → ln.atSpace = false →
      exec (.syncArrival l) s = .next (s.setLine l
        { ln with
          receiver := .assemble, rxBuffer := [0xB4]
          jabberTimer := Timer.start (jabberLength ln.params.rateCode)
          rxLate := ln.phase == .guard && ln.guardLate
          phase := if ln.phase = .listen then .receive else ln.phase
          windowTimer := if ln.phase = .listen then .stopped else ln.windowTimer }))
    ∧ (∀ b : Byte, ln.receiver = .assemble → ln.atSpace = false →
        ln.rxBuffer.length + 1 < 6
          ∨ (6 ≤ ln.rxBuffer.length ∧ (byteAt ln.rxBuffer 3).toNat ≤ 248
            ∧ ln.rxBuffer.length + 1 < 8 + (byteAt ln.rxBuffer 3).toNat) →
      exec (.characterArrival l { data := b, framingError := false }) s =
        .next (s.setLine l { ln with rxBuffer := ln.rxBuffer ++ [b] }))
    ∧ (∀ c : LineChar, ln.receiver = .discard → ln.atSpace = false →
      exec (.characterArrival l c) s = .next (s.setLine l { ln with atSpace := c.framingError }))
    ∧ (ln.receiver = .discard → ln.atSpace = false →
      s.ThenIfIdle (.discardEnd l) l fun t =>
        s.OnlyLine t l { ln with receiver := .hunt, jabberTimer := .stopped })
    ∧ exec (.returnToMark l) s = .next (s.setLine l { ln with atSpace := false })

/-- A bad sequence outside RECEIVE, one that fails the sync check in LISTEN among them, is a bad stray: one
error is counted, to at most 65535, the exchange goes on, and the receiver is in DISCARD (a failed sync check, a
framing error, a LEN above 248, a break) or in HUNT (a complete frame that fails the CRC, direction or kind
check), on which the arbiter of an IDLE line is evaluated (R14 to R16, R44, R47, R49, R50, R51). -/
def Obligations.BadStrays : Prop :=
  ∀ (s : State) (l : Line) (c : LineChar), s.device.state = .running →
    (s.line l).phase ≠ .receive → (s.line l).atSpace = false →
    (s.line l).errors ≤ 65535 →
    let ln := s.line l
    let counted := { ln with errors := min 65535 (ln.errors + 1) }
    (ln.receiver = .hunt → c.data ≠ 0xB4 ∨ c.framingError = true →
      ∃ t, exec (.badFrame l c) s = .next t
        ∧ s.OnlyLine t l
            { counted with
              receiver := .discard, atSpace := c.framingError
              jabberTimer := Timer.start (jabberLength ln.params.rateCode) })
    ∧ (ln.receiver = .assemble → c.framingError = true
          ∨ (5 ≤ ln.rxBuffer.length ∧ 248 < (byteAt (ln.rxBuffer ++ [c.data]) 3).toNat) →
      ∃ t, exec (.badFrame l c) s = .next t
        ∧ s.OnlyLine t l
            { counted with
              receiver := .discard, atSpace := c.framingError
              rxBuffer := ln.rxBuffer ++ [c.data] })
    ∧ (ln.receiver = .assemble → c.framingError = false →
        (byteAt (ln.rxBuffer ++ [c.data]) 3).toNat ≤ 248 →
        ln.rxBuffer.length + 1 = 8 + (byteAt (ln.rxBuffer ++ [c.data]) 3).toNat →
        frameValid (ln.rxBuffer ++ [c.data]) = false →
      s.ThenIfIdle (.badFrame l c) l fun t =>
        s.OnlyLine t l
          { counted with
            receiver := .hunt, jabberTimer := .stopped, rxBuffer := ln.rxBuffer ++ [c.data] })
    ∧ (ln.receiver = .assemble →
      ∃ t, exec (.sequenceBreak l) s = .next t
        ∧ s.OnlyLine t l { counted with receiver := .discard })

/-- A valid station frame outside RECEIVE is a stray: with strays enabled it is given as a STRAY indication with
its address, kind, length, LATE and first 48 payload bytes, else dropped; it reaches no station and no
entry; the arbiter of an IDLE line is evaluated (R47, R51, R154). -/
def Obligations.ValidStrays : Prop :=
  ∀ (s : State) (l : Line) (last : Byte) (addr kind : Nat) (seq attention : Bool) (token : Nat)
    (payload : List Byte), s.FrameEnds l last addr kind seq attention token payload →
    (s.line l).phase ≠ .receive →
    s.ThenIfIdle (.validStationFrame l last) l fun t =>
      t.line l =
          { s.line l with
            receiver := .hunt, jabberTimer := .stopped, rxBuffer := (s.line l).rxBuffer ++ [last] }
      ∧ (s.cfg.strays = true → s.OneIndication t l
          (.stray (byteOf addr) kind payload.length (s.line l).rxLate (payload.take 48)))
      ∧ (s.cfg.strays = false → s.NoIndication t)
      ∧ s.SameOtherLines t l ∧ (∀ a, t.station l a = s.station l a) ∧ (∀ i, t.entry i = s.entry i)
      ∧ t.store = s.store ∧ t.retire.queue = s.retire.queue ∧ s.SameHost t ∧ s.SameAdmission t
      ∧ s.Begins t

/-- A POLL answered by a REPLY with its SEQ and token 0 ends ANSWER: the entry retires OK with the payload's
length as reply true length and its bytes, as far as the reply limit, in the reservation; the station's
failures become 0, its sequence bit is inverted, attention is set by the frame's bit, and the carried
release item is removed, the linger timer stopping with the last one. It does so with the deadline passed too,
LATE, and with an ABORT pending, which completes TOO_LATE directly after it. GUARD begins, a STOPPING line comes
to rest, and so does a DRAINING one whose last entry this was (R18 to R20, R35, R36, R45, R63 to R65, R69, R72,
R83, R94, R96, R97, R121). -/
def Obligations.ReplyTaken : Prop :=
  ∀ (s : State) (l : Line) (ex : Exchange) (i : EntryIx) (last : Byte) (attention : Bool)
    (payload : List Byte) (abort : Option (PlaceIx × Immediate)),
    s.FrameEnds l last (addressOf ex.station) 8 ex.seq attention 0 payload → s.Receiving l ex →
    ex.owner = .entry i → ex.kind = .poll → (s.entry i).state = .exchange → (s.entry i).line = l →
    (s.entry i).station = some ex.station → s.AbortOn i abort → s.NoFenceOn i →
    let r := (s.station l ex.station).answered ex.carried
    let kept :=
      s.store.bytes.writeChain (s.entry i).replyReservation (payload.take (s.entry i).replyLimit)
    s.Then (.validStationFrame l last) l fun t =>
      s.ExchangeEnds t l ex.station ((s.line l).afterAnswer last)
        { r with
          seqBit := !r.seqBit, attention := r.attention || attention
          fifo := r.fifo.filter (· != i), deferred := r.deferred.filter (· != i) }
        i
        ({ s.entry i with
            replyTrueLength := some payload.length, lastEnding := .none }.retired .ok)
      ∧ t.store = { s.store with bytes := kept }
      ∧ t.admission.places = s.placesAfter abort .ok
      ∧ t.retire.queue = s.retire.queue ++ s.itemsOf i abort
      ∧ s.NoIndication t

/-- The answers of a station that defers. A POLL with the flag answered by a DEFER whose token passes the
token test moves its entry to the tail of the deferred list: DEFERRED under that token, WAS_DEFERRED, its
collect interval running, its collect counts 0; the station's sequence bit is inverted. A COLLECT leaves that
bit. Its REPLY retires the entry OK with the reply kept, as under a POLL; its PENDING counts a collect and sets
the collect attempts used to 0, and the entry is DEFERRED again with its collect interval running, or retires
COLLECT_LIMIT at the line's limit; its REFUSE UNKNOWN_TOKEN retires the entry TOKEN_LOST. Where ABORT_PENDING or DEADLINE_PASSED is set, a DEFER,
a PENDING and a REFUSE retire the entry ABORTED or DEADLINE instead. A token the station may still hold goes
to the release list, after an UNKNOWN_TOKEN none. A STOPPING line then comes to rest, and so does a DRAINING one
that holds no entry (R35, R36, R84, R103, R104, R65, R94, R96, R97, R107, R108, R109, R110, R121). -/
def Obligations.DeferTaken : Prop :=
  ∀ (s : State) (l : Line) (ex : Exchange) (i : EntryIx) (last : Byte) (kind : Nat) (seq attention : Bool)
    (token : Nat) (payload : List Byte),
    s.FrameEnds l last (addressOf ex.station) kind seq attention token payload → s.Receiving l ex →
    ex.owner = .entry i → (s.entry i).state = .exchange → (s.entry i).line = l →
    (s.entry i).station = some ex.station → s.NoFenceOn i →
    let e := s.entry i
    let r := (s.station l ex.station).answered ex.carried
    let heard := { r with attention := r.attention || attention }
    let ln := (s.line l).afterAnswer last
    let interval := Timer.start (1000 * (s.line l).params.collectInterval)
    let goesOn := fun r' e' => s.Then (.validStationFrame l last) l fun t =>
      s.GoesOn t l ex.station ln r' i e'
    let retires := fun store r' e' status release abort =>
      s.Then (.validStationFrame l last) l fun t =>
        s.RetiresAfter t l ex.station ln r' i e' status release abort ∧ t.store = store
    (ex.kind = .poll → kind = 9 → ex.flag = true → 1 ≤ token → token ≤ 15 → s.TokenPasses l ex token →
      let deferred := { e with wasDeferred := true, lastEnding := .defer }
      let taken := { heard with seqBit := !r.seqBit }
      (e.abortPending = false → e.deadlinePassed = false →
        goesOn { taken with fifo := r.fifo.filter (· != i), deferred := r.deferred ++ [i] }
          { deferred with
            state := .deferred, token := some token, collectAttemptsUsed := 0, collectsUsed := 0
            dueTime := none, phaseTimer := interval })
      ∧ ∀ status abort, s.Decided i status abort →
        retires s.store taken deferred status (some token) abort)
    ∧ (ex.kind = .collect → e.token = some ex.token →
      (kind = 8 → token = ex.token → ∀ abort, s.AbortOn i abort →
        retires { s.store with bytes :=
            s.store.bytes.writeChain e.replyReservation (payload.take e.replyLimit) } heard
          { e with replyTrueLength := some payload.length, lastEnding := .none } .ok e.token abort)
      ∧ (kind = 10 → token = ex.token →
        let counted :=
          { e with
            collectsUsed := e.collectsUsed + 1, collectAttemptsUsed := 0, lastEnding := .pending }
        (e.abortPending = false → e.deadlinePassed = false →
            e.collectsUsed + 1 < (s.line l).params.collectLimit →
          goesOn heard
            { counted with state := .deferred, dueTime := none, phaseTimer := interval })
        ∧ (s.Undecided i → e.collectsUsed + 1 = (s.line l).params.collectLimit →
          retires s.store heard counted .collectLimit e.token none)
        ∧ ∀ status abort, s.Decided i status abort → retires s.store heard counted status e.token abort)
      ∧ (kind = 11 → payload = [3] →
        let lost := { e with lastEnding := .unknownToken }
        (s.Undecided i → retires s.store heard lost .tokenLost none none)
        ∧ ∀ status abort, s.Decided i status abort → retires s.store heard lost status none abort))

/-- The answers the station record takes for itself. A SYNC answered by STATUS sets the sequence bit to the
SYNC's SEQ and the status word, with PURGE empties the release list and sets attention to the frame's bit,
and makes an UNKNOWN, SUSPECT or OFFLINE station ONLINE with its indication; the SYNC of a re-probe is the one
to an OFFLINE station. A PROBE answered by STATUS sets the status word alone. An EVENT_FETCH answered by
EVENT sets attention to the frame's bit and, unless its item is still owed, is given as an EVENT indication,
its item joining the release list; one answered by NO_EVENT clears attention, and that it clears it with the
frame's ATTENTION bit set too is the model's choice (log 22). Every other answer sets attention where its
frame's bit is set and never clears it. A STOPPING line then comes to rest, and so does a DRAINING one that
holds no entry (R35, R36, R68, R69, R70, R62, R63, R64, R71, R56). -/
def Obligations.SyncAndEventTaken : Prop :=
  ∀ (s : State) (l : Line) (ex : Exchange) (last : Byte) (seq attention : Bool) (token : Nat)
    (payload : List Byte) (kind : Nat),
    s.FrameEnds l last (addressOf ex.station) kind seq attention token payload → s.Receiving l ex →
    ex.owner = .station →
    let r := (s.station l ex.station).answered ex.carried
    let frame := fun t : State =>
      (∀ a, a ≠ ex.station → t.station l a = s.station l a) ∧ s.SameOtherLines t l
        ∧ t.line l = (s.line l).afterAnswer last ∧ (∀ i, t.entry i = s.entry i) ∧ t.store = s.store
        ∧ t.retire.queue = s.retire.queue ∧ s.SameHost t ∧ s.SameAdmission t ∧ s.Begins t
    let ends := s.Then (.validStationFrame l last) l
    (ex.kind = .sync → kind = 12 → payload.length = 2 → r.state ≠ .absent →
      ends fun t => frame t
        ∧ t.station l ex.station =
            { r with
              state := .online, seqBit := ex.seq
              statusWord := some (byteAt payload 1 ++ byteAt payload 0)
              attention := if ex.flag then attention else r.attention || attention
              release := if ex.flag then [] else r.release
              linger := if ex.flag then .stopped else r.linger
              flushDue := if ex.flag then none else r.flushDue }
        ∧ (r.state = .online → s.NoIndication t)
        ∧ (r.state ≠ .online → s.OneIndication t l
            (.stationState (addressOf ex.station) r.state .online .sync
              (byteAt payload 1 ++ byteAt payload 0))))
    ∧ (ex.kind = .probe → kind = 12 → payload.length = 2 →
      ends fun t => frame t ∧ s.NoIndication t
        ∧ t.station l ex.station =
            { r with
              statusWord := some (byteAt payload 1 ++ byteAt payload 0)
              attention := r.attention || attention })
    ∧ (ex.kind = .eventFetch → kind = 13 → 1 ≤ token → token ≤ 15 →
        r.state ≠ .absent → r.state ≠ .offline →
      ends fun t => frame t
        ∧ (({ kind := .event, token := token } : ReleaseItem) ∈ r.release →
            t.station l ex.station = { r with attention := attention } ∧ s.NoIndication t)
        ∧ (({ kind := .event, token := token } : ReleaseItem) ∉ r.release →
            t.station l ex.station =
              { r with
                attention := attention, release := r.release ++ [{ kind := .event, token := token }]
                linger := if r.release = [] then
                    Timer.start (1000 * (s.line l).params.releaseLinger) else r.linger }
            ∧ s.OneIndication t l
                (.event (addressOf ex.station) token payload.length (payload.take 48))))
    ∧ (ex.kind = .eventFetch → kind = 14 →
      ends fun t => frame t ∧ s.NoIndication t
        ∧ t.station l ex.station = { r with attention := false })

/-! ### Failures -/

/-- An attempt fails when no sync arrives within the window (NO_ANSWER), its sequence breaks or fails a check
(BAD_FRAME, one error: a break, a framing error or a LEN above 248 in DISCARD, a failed CRC, direction or kind
in HUNT) or a valid frame is no acceptable answer (WRONG_ANSWER, one error): the station's failures rise by 1,
GUARD begins, with the late guard added after a NO_ANSWER. What answers a POLL, a COLLECT, a PROBE, a SYNC and
an EVENT_FETCH is R18's and R19's. A POLL's attempt is then unanswered; a REFUSE BUSY
fails an attempt too, but is neither unanswered nor a failure of the station. The entry waits in RETRY_WAIT
for the holdoff, base, 2, 4, then 8 times base by the attempts used; with none left it retires NO_RESPONSE, or
STATION_BUSY after a REFUSE BUSY, a token released; a REFUSE REJECT retires it REFUSED. A COLLECT's attempts
are counted apart. ABORT_PENDING and DEADLINE_PASSED decide first. An exchange of the station's own counts the
failure alone. A STOPPING line then comes to rest, and so does a DRAINING one that holds no entry (R14 to R16,
R18, R19, R35, R36, R44, R45, R47, R50, R64, R85, R86, R87, R94, R96, R97, R110). -/
def Obligations.AttemptFails : Prop :=
  ∀ (s : State) (l : Line) (ex : Exchange), s.device.state = .running →
    s.Active l → (s.line l).current = some ex → ex.station ≠ broadcastStation →
    let ln := s.line l
    let counts := (s.station l ex.station).state ≠ .absent ∧ (s.station l ex.station).state ≠ .offline
      ∧ (s.station l ex.station).failures + 1 < ln.params.failureThreshold
    let failed := { s.station l ex.station with failures := (s.station l ex.station).failures + 1 }
    (∀ c detail ln', s.AttemptFailsBy l ex c detail ln' → ln.errors ≤ 65535 → counts → ex.owner = .station →
      s.Then c l fun t => t.line l = ln' ∧ t.station l ex.station = failed
        ∧ (∀ a, a ≠ ex.station → t.station l a = s.station l a) ∧ (∀ i, t.entry i = s.entry i)
        ∧ s.SameOtherLines t l ∧ s.SameRest t)
    ∧ ∀ i, ex.owner = .entry i → (s.entry i).state = .exchange → (s.entry i).line = l →
    (s.entry i).station = some ex.station → s.NoFenceOn i →
    let e := s.entry i
    let factor := fun attempts => match attempts with
      | 1 => 1
      | 2 => 2
      | 3 => 4
      | _ => 8
    let holdoff := fun attempts => Timer.start (ln.params.retryHoldoffBase * factor attempts)
    let goesOn := fun c ln' r' e' => s.Then c l fun t => s.GoesOn t l ex.station ln' r' i e'
    let retires := fun c ln' r' e' status release abort => s.Then c l fun t =>
      s.RetiresAfter t l ex.station ln' r' i e' status release abort ∧ t.store = s.store
    (∀ c detail ln', s.AttemptFailsBy l ex c detail ln' → ln.errors ≤ 65535 → counts →
      (ex.kind = .poll → 1 ≤ e.attemptsUsed →
        let tried := { e with unansweredAttempt := true, lastEnding := detail }
        (e.abortPending = false → e.deadlinePassed = false → e.attemptsUsed < e.attemptLimit →
          goesOn c ln' failed { tried with state := .retryWait, phaseTimer := holdoff e.attemptsUsed })
        ∧ (s.Undecided i → e.attemptLimit ≤ e.attemptsUsed →
          retires c ln' failed tried .noResponse none none)
        ∧ ∀ status abort, s.Decided i status abort → retires c ln' failed tried status none abort)
      ∧ (ex.kind = .collect → e.token = some ex.token → 1 ≤ e.collectAttemptsUsed →
        let tried := { e with lastEnding := detail }
        (e.abortPending = false → e.deadlinePassed = false → e.collectAttemptsUsed < e.attemptLimit →
          goesOn c ln' failed
            { tried with state := .retryWait, phaseTimer := holdoff e.collectAttemptsUsed })
        ∧ (s.Undecided i → e.attemptLimit ≤ e.collectAttemptsUsed →
          retires c ln' failed tried .noResponse e.token none)
        ∧ ∀ status abort, s.Decided i status abort → retires c ln' failed tried status e.token abort))
    ∧ ∀ last seq attention token code,
      s.FrameEnds l last (addressOf ex.station) 11 seq attention token [code] → ln.phase = .receive →
      ex.kind = .poll → 1 ≤ e.attemptsUsed →
      let c := Instr.validStationFrame l last
      let r := (s.station l ex.station).answered ex.carried
      let heard := { r with attention := r.attention || attention }
      (code = 1 →
        let tried := { e with lastEnding := .busy }
        (e.abortPending = false → e.deadlinePassed = false → e.attemptsUsed < e.attemptLimit →
          goesOn c (ln.afterAnswer last) heard
            { tried with state := .retryWait, phaseTimer := holdoff e.attemptsUsed })
        ∧ (s.Undecided i → e.attemptLimit ≤ e.attemptsUsed →
          retires c (ln.afterAnswer last) heard tried .stationBusy none none)
        ∧ ∀ status abort, s.Decided i status abort →
          retires c (ln.afterAnswer last) heard tried status none abort)
      ∧ (code = 2 →
        let tried := { e with lastEnding := .reject }
        (s.Undecided i → retires c (ln.afterAnswer last) heard tried .refused none none)
        ∧ ∀ status abort, s.Decided i status abort →
          retires c (ln.afterAnswer last) heard tried status none abort)

/-- What a failed attempt, by NO_ANSWER, BAD_FRAME or WRONG_ANSWER, does at the failure counts. The last attempt
of a POLL that fails retires its entry NO_RESPONSE with MAY_HAVE_EXECUTED, which makes an ONLINE station SUSPECT
with its indication. An exchange of the station's own counts one failure and nothing else; to an OFFLINE
station, a re-probe, none. The failure that brings a station to the failure threshold makes it OFFLINE. The
owner of the exchange, when an entry owns it by a POLL or a COLLECT, takes the ending first: with ABORT_PENDING
or DEADLINE_PASSED it retires ABORTED or DEADLINE, an ABORT that waits for it completing directly after it, and
with its last attempt used NO_RESPONSE; else it retires STATION_OFFLINE, and so does every other entry of the
FIFO and of the deferred list after it, in their order; the lists, the release list, attention and flush are
cleared, and the change is indicated. A STOPPING line then comes to rest, and so does a DRAINING one that holds
no entry (R35, R36, R64, R66, R67, R87, R90, R94, R96, R97, R101, R110, R56). -/
def Obligations.LastFailures : Prop :=
  ∀ (s : State) (l : Line) (ex : Exchange) (c : Instr) (detail : Detail) (guarded : LineEngine),
    s.device.state = .running → s.Active l → (s.line l).current = some ex →
    ex.station ≠ broadcastStation → s.AttemptFailsBy l ex c detail guarded → (s.line l).errors ≤ 65535 →
    let r := s.station l ex.station
    let threshold := (s.line l).params.failureThreshold
    let ends := s.Then c l
    let tried := fun i =>
      { s.entry i with
        unansweredAttempt := (s.entry i).unansweredAttempt || decide (ex.kind = .poll)
        lastEnding := detail }
    let bound := fun i => (s.entry i).line = l ∧ (s.entry i).station = some ex.station ∧ s.NoFenceOn i
    (∀ i, bound i → s.Undecided i → (s.entry i).kind = .transact → ex.owner = .entry i →
        ex.kind = .poll → (s.entry i).state = .exchange →
        (s.entry i).wasDeferred = false → (s.entry i).replyTrueLength = none →
        (s.entry i).attemptLimit ≤ (s.entry i).attemptsUsed →
        r.state ≠ .absent → r.state ≠ .offline → r.failures + 1 < threshold →
      ends fun t =>
        t.entry i = (tried i).retired .noResponse
        ∧ (∃ flags, (t.entry i).final = some { status := .noResponse, flags := flags }
            ∧ flags.mayHaveExecuted = true)
        ∧ (∀ j, j ≠ i → t.entry j = s.entry j)
        ∧ t.retire.queue = s.retire.queue ++ [{ item := .entry i, stamp := s.time.now }]
        ∧ t.station l ex.station =
            { r with
              failures := r.failures + 1, fifo := r.fifo.filter (· != i)
              deferred := r.deferred.filter (· != i)
              state := if r.state = .online then .suspect else r.state }
        ∧ (r.state = .online → s.OneIndication t l
            (.stationState (addressOf ex.station) .online .suspect .retireUncertain
              (r.statusWord.getD 0)))
        ∧ (r.state ≠ .online → s.NoIndication t)
        ∧ (∀ a, a ≠ ex.station → t.station l a = s.station l a)
        ∧ t.line l = guarded ∧ s.SameOtherLines t l ∧ t.store = s.store ∧ s.SameHost t
        ∧ s.SameAdmission t ∧ s.Begins t)
    ∧ (ex.owner = .station →
      (r.state = .offline → ends fun t => s.OnlyLine t l guarded)
      ∧ (r.state ≠ .absent → r.state ≠ .offline → r.failures + 1 < threshold →
        ends fun t => t.station l ex.station = { r with failures := r.failures + 1 }
          ∧ (∀ a, a ≠ ex.station → t.station l a = s.station l a) ∧ t.line l = guarded
          ∧ (∀ i, t.entry i = s.entry i) ∧ s.SameOtherLines t l ∧ s.SameRest t))
    ∧ (r.state = .unknown ∨ r.state = .suspect ∨ r.state = .online → r.failures + 1 = threshold →
      let cascade := fun (owner : List (EntryIx × Entry × Status)) (rest : List EntryIx) items places =>
        (∀ j ∈ rest, bound j ∧ s.NoAbortOn j ∧ ((s.entry j).state = .queued
          ∨ (s.entry j).state = .retryWait ∨ (s.entry j).state = .deferred)) →
        (owner.map Prod.fst ++ rest).Nodup →
        ends fun t => (∀ x ∈ owner, t.entry x.1 = x.2.1.retired x.2.2)
          ∧ (∀ j ∈ rest, t.entry j = (s.entry j).retired .stationOffline)
          ∧ (∀ j, j ∉ owner.map Prod.fst ++ rest → t.entry j = s.entry j)
          ∧ t.retire.queue = s.retire.queue
              ++ (items ++ rest.map fun j => { item := .entry j, stamp := s.time.now })
          ∧ t.admission.places = places
          ∧ t.station l ex.station =
              { r with
                state := .offline, failures := threshold, fifo := [], deferred := [], release := []
                linger := .stopped, flushDue := none, attention := false }
          ∧ s.OneIndication t l
              (.stationState (addressOf ex.station) r.state .offline .failures (r.statusWord.getD 0))
          ∧ (∀ a, a ≠ ex.station → t.station l a = s.station l a)
          ∧ t.line l = guarded ∧ s.SameOtherLines t l ∧ t.store = s.store ∧ s.SameHost t
          ∧ (∀ q, t.ringUnit q = s.ringUnit q) ∧ t.admission.credit = s.admission.credit
          ∧ t.admission.counter = s.admission.counter ∧ t.admission.asked = s.admission.asked
          ∧ s.Begins t
      (ex.owner = .station → cascade [] (r.fifo ++ r.deferred) [] s.admission.places)
      ∧ ∀ i status abort, ex.owner = .entry i → bound i → (s.entry i).state = .exchange →
        (ex.kind = .poll ∧ i ∈ r.fifo)
          ∨ (ex.kind = .collect ∧ i ∈ r.deferred ∧ (s.entry i).token = some ex.token) →
        let used := if ex.kind = .poll then (s.entry i).attemptsUsed else (s.entry i).collectAttemptsUsed
        (s.Undecided i ∧ abort = none
            ∧ ((used < (s.entry i).attemptLimit ∧ status = .stationOffline)
              ∨ ((s.entry i).attemptLimit ≤ used ∧ status = .noResponse)))
          ∨ s.Decided i status abort →
        cascade [(i, tried i, status)] (r.fifo.filter (· != i) ++ r.deferred.filter (· != i))
          (s.itemsOf i abort) (s.placesAfter abort status))

/-! ### The arbiter -/

/-- The order of the arbiter. With the fairness credit at 8 and a QUEUED ring L head, the ring L head with
the lowest admission number is chosen. Else the first of: a due BEACON; the due collect of the earliest
increment, lowest admission number among equals; the ring H head with the lowest admission number; the next
station with attention, counting upward from the event rotation and round; the ring L head; a due re-probe;
the release flush that became due first, lowest address among equals; and nothing when there is none (R52,
R54). -/
def Obligations.ArbiterOrder : Prop :=
  ∀ (s : State) (l : Line),
    let isHead := fun (r : Ring) (a : Station) (i : EntryIx) =>
      (∃ rest, (s.station l a).fifo = i :: rest) ∧ (s.entry i).state = .queued ∧ (s.entry i).ring = r
    let first := fun (r : Ring) (c : Candidate) => ∃ a i, c = .head a i ∧ isHead r a i
      ∧ ∀ b j, isHead r b j → (s.entry i).admission.toNat ≤ (s.entry j).admission.toNat
    let due := fun i => (s.entry i).state = .deferred ∧ (s.entry i).line = l ∧ (s.entry i).dueTime ≠ none
    let dueAt := fun i => (s.entry i).dueTime.getD 0
    let low := ∃ a i, isHead .l a i
    let high := ∃ a i, isHead .h a i
    let asks := fun a => a ≠ broadcastStation ∧ (s.station l a).attention = true
    let owes := fun a => a ≠ broadcastStation ∧ (s.station l a).flushDue ≠ none
    let owedAt := fun a => (s.station l a).flushDue.getD 0
    let ln := s.line l
    let round := ln.eventRotation
    (8 ≤ ln.credit → low → ∃ c, s.choose l = some c ∧ first .l c)
    ∧ (ln.credit < 8 ∨ ¬ low →
      (ln.beaconDue = true → s.choose l = some .beacon)
      ∧ (ln.beaconDue = false → (∃ i, due i) → ∃ i, s.choose l = some (.collect i) ∧ due i
          ∧ ∀ j, due j → dueAt i < dueAt j
            ∨ (dueAt i = dueAt j ∧ (s.entry i).admission.toNat ≤ (s.entry j).admission.toNat))
      ∧ (ln.beaconDue = false → (¬ ∃ i, due i) →
        (high → ∃ c, s.choose l = some c ∧ first .h c)
        ∧ (¬ high →
          ((∃ a, asks a) → ∃ a, s.choose l = some (.eventFetch a) ∧ asks a
              ∧ ∀ b, asks b → (round < addressOf a ∧ (round < addressOf b → addressOf a ≤ addressOf b))
                ∨ (addressOf b ≤ round ∧ addressOf a ≤ addressOf b))
          ∧ ((¬ ∃ a, asks a) →
            (low → ∃ c, s.choose l = some c ∧ first .l c)
            ∧ (¬ low →
              (ln.reprobeDue = true → s.choose l = some .reprobe)
              ∧ (ln.reprobeDue = false →
                ((∃ a, owes a) → ∃ a, s.choose l = some (.flush a) ∧ owes a
                    ∧ ∀ b, owes b → owedAt a < owedAt b
                      ∨ (owedAt a = owedAt b ∧ addressOf a ≤ addressOf b))
                ∧ ((¬ ∃ a, owes a) → s.choose l = none)))))))

/-- A guard expiry takes the line to IDLE and evaluates the arbiter. A DRAINING line that holds no entry comes
to rest, STOPPED, and its DRAIN completes OK. Else, with no candidate the line stays IDLE, and what is chosen
is granted: TRANSMIT begins with the receiver in ECHO. A FIFO head of an ONLINE station is granted its POLL:
the entry is in EXCHANGE, with one more attempt used, and the frame carries the station's address, its
sequence bit, DEFER_OK as the flag, no token, the oldest release item and the request; to address 31 it
carries no SEQ, flag or item. For a head of an UNKNOWN or SUSPECT station a SYNC goes first, SEQ the inverse
of the sequence bit, with PURGE for an UNKNOWN one. A due collect is granted its COLLECT with the entry's
token, an attention its EVENT_FETCH, which becomes the event rotation, a flush its PROBE, a due re-probe a
SYNC with PURGE to the next OFFLINE station after the probe rotation, which it becomes; with none OFFLINE only
its flag is cleared, and the arbiter evaluated again. A due BEACON carries device time and the beacon number.
A frame to a station that is owed a release restarts its linger timer and clears its flush. The credit becomes
0 with a ring L head, rises by 1, to at most 8, with a grant of the first four categories while a QUEUED ring
L head waits, and stands otherwise (R47, R51, R42, R82, R92, R9, R10, R35, R36, R53, R54, R55, R56, R57, R73,
R106). Wherever a command changes the work of a line, its statement says so through the same State.Settles. -/
def Obligations.GuardExpires : Prop :=
  ∀ (s : State) (l : Line), s.device.state = .running →
    (s.line l).phase = .guard → (s.line l).guardTimer = .expired →
    s.Then (.guardExpiry l) l fun t =>
      s.OnlyLine t l
        { s.line l with phase := .idle, current := none, guardTimer := .stopped, guardLate := false }

/-! ### Timers -/

/-- The periods of a line: a beacon period sets beacon due and starts again; a probe interval starts again and
on a RUNNING line sets re-probe due when a station 1 to 30 is OFFLINE; a release linger sets the station's flush
due as of this increment, the one at which the expiry is taken (the model's choice, log 36). The arbiter of an
IDLE line is then evaluated (R35, R51, R56, R57, R73). -/
def Obligations.LineTimers : Prop :=
  ∀ (s : State) (l : Line), s.device.state = .running →
    let ln := s.line l
    (ln.beaconTimer = .expired → ln.params.beaconPeriod ≠ 0 →
      s.Then (.beaconPeriodExpiry l) l fun t =>
        s.OnlyLine t l
          { ln with beaconDue := true, beaconTimer := .running (1000 * ln.params.beaconPeriod) })
    ∧ (ln.probeTimer = .expired → ∀ due : Bool,
        (due = true ↔ ln.reprobeDue = true
          ∨ (ln.state = .running ∧ ∃ a, a ≠ broadcastStation ∧ (s.station l a).state = .offline)) →
      s.Then (.probeIntervalExpiry l) l fun t =>
        s.OnlyLine t l
          { ln with
            reprobeDue := due, probeTimer := Timer.start (1000 * ln.params.probeInterval) })
    ∧ (∀ a, (s.station l a).linger = .expired →
      s.Then (.releaseLingerExpiry l a) l fun t =>
        t.station l a =
            { s.station l a with linger := .stopped, flushDue := some s.time.increment }
        ∧ (∀ c, c ≠ a → t.station l c = s.station l c) ∧ s.SameOtherLines t l ∧ t.line l = ln
        ∧ (∀ i, t.entry i = s.entry i) ∧ s.SameRest t)

/-- The jabber timer runs for 300 character times of 10 bits, in microseconds rounded up, at the line's rate.
Its expiry counts one error and faults the line with cause JABBER. An exchange in flight first ends CUT: a
POLL's attempt is unanswered and its entry QUEUED again, a COLLECT's is given back and its entry DEFERRED and
due, but where ABORT_PENDING or DEADLINE_PASSED is set the entry retires; an exchange of the station's own and
a BEACON change nothing. Then the line comes to rest FAULTED: transmitter and receiver off, IDLE, every timer
stopped, no due flag, every linger timer stopped and flush cleared; every entry of the line, the one whose
exchange was cut among them, retires LINE_FAULT in order of admission number, its token going to the release
list; a retirement that leaves an ONLINE station uncertain makes it SUSPECT; a STOP or DRAIN in the control
place completes LINE_FAULT behind them; a LINE_STATE indication is given last (R27, R49, R37, R46, R50, R67,
R88, R94, R96, R97, R100, R112). -/
def Obligations.JabberFaults : Prop :=
  (∀ x ∈ [((0 : Nat), (9600 : Nat)), (1, 19200), (2, 38400), (3, 57600), (4, 115200), (5, 230400),
        (6, 460800), (7, 921600)],
      jabberLength x.1 = (300 * 10 * 1000000 + x.2 - 1) / x.2)
    ∧ ∀ (s : State) (l : Line), s.device.state = .running → s.Active l →
      (s.line l).jabberTimer = .expired → (s.line l).errors ≤ 65535 →
      let counted := { s.line l with errors := min 65535 ((s.line l).errors + 1) }
      let faults := s.ThenFaults (.jabberExpiry l) l .jabber
      ((s.line l).inFlight = false
          ∨ (∃ ex, (s.line l).current = some ex ∧ (ex.owner = .station ∨ ex.owner = .beacon)) →
        faults fun t => s.OnlyLine t l counted)
      ∧ ∀ (ex : Exchange) (i : EntryIx), (s.line l).inFlight = true → (s.line l).current = some ex →
        ex.owner = .entry i → ex.station ≠ broadcastStation → (s.entry i).state = .exchange →
        (s.entry i).line = l → (s.entry i).station = some ex.station →
        let e := s.entry i
        let r := s.station l ex.station
        let cut := fun e' waiting release =>
          (e.abortPending = false → e.deadlinePassed = false →
            faults fun t => s.GoesOn t l ex.station counted r i waiting)
          ∧ ∀ status abort, s.Decided i status abort → s.NoFenceOn i →
            faults fun t => s.RetiresAfter t l ex.station counted r i e' status release abort
              ∧ t.store = s.store
        (ex.kind = .poll →
          let tried := { e with unansweredAttempt := true, lastEnding := .cut }
          cut tried { tried with state := .queued } none)
        ∧ (ex.kind = .collect →
          let tried := { e with collectAttemptsUsed := e.collectAttemptsUsed - 1, lastEnding := .cut }
          cut tried
            { tried with state := .deferred, phaseTimer := .stopped, dueTime := some s.time.increment }
            e.token)

/-- A fault of a line, and a STOP of a RUNNING one with no exchange in flight, retire every TRANSACT entry of
the line that is QUEUED, EXCHANGE, RETRY_WAIT or DEFERRED, with LINE_FAULT or LINE_STOPPED, and touch no other
TRANSACT entry. They join the retire queue in order of admission number, a pending STOP or DRAIN behind them;
each one's token goes to the release list of its station, and a FENCE that waits for some of them counts each
as not OK and retires OK when it waits for no more. So it is where no exchange is in flight or one that no
entry owns; what an ending does to its entry before the cascade is stated with the endings (R100, R36, R37,
R38, R89, R98, R99). -/
def Obligations.LineCascade : Prop :=
  ∀ (s t : State) (l : Line), s.device.state = .running →
    let waiting : List QueuedItem := match (s.line l).control with
      | .pending _ _ _ => [{ item := .lineControl l, stamp := s.time.now }]
      | _ => []
    ((s.line l).jabberTimer = .expired → exec (.jabberExpiry l) s = .next t →
        (s.line l).inFlight = false
          ∨ (∃ ex, (s.line l).current = some ex ∧ (ex.owner = .station ∨ ex.owner = .beacon)) →
        ∃ order, s.Sweeps t l .lineFault order waiting)
    ∧ (∀ ex, s.Active l → (s.line l).phase = .transmit → (s.line l).current = some ex →
        ex.owner = .station ∨ ex.owner = .beacon → 7 ≤ (s.line l).echoFaults →
        exec (.echoCheck l .nothing) s = .next t → ∃ order, s.Sweeps t l .lineFault order waiting)
    ∧ (∀ g b, s.AtApplication g b → recKind b = 4 → recOp b = 2 → recLineNumber b ≤ 3 →
        zeroFieldsOk b = true → recLine b = l → (s.line l).state = .running →
        (s.line l).control = .empty → (s.line l).inFlight = false → exec .lineControlStop s = .next t →
        ∃ order, s.Sweeps t l .lineStopped order [{ item := .lineControl l, stamp := s.time.now }])

/-- The flags of a retiring entry: MAY_HAVE_EXECUTED for a TRANSACT with an unanswered attempt, never
deferred, not on an accepted REPLY; LATE for an OK with the deadline passed; NEVER_SENT for a TRANSACT no
POLL of which was sent; WAS_DEFERRED; NO_ANSWER_EXPECTED for a broadcast retiring OK; TRUNCATED when the
reply was longer than the reply limit. Its timers stop, its token is given up, it is RETIRING (R89, R90,
R122). -/
def Obligations.RetirementFlags : Prop :=
  ∀ (e : Entry) (status : Status),
    ∃ f, e.retired status =
        { e with
          state := .retiring, deadlineTimer := .stopped, phaseTimer := .stopped, dueTime := none
          token := none, waitsFor := [], final := some { status := status, flags := f } }
      ∧ (f.mayHaveExecuted = true ↔ e.kind = .transact ∧ e.unansweredAttempt = true
          ∧ e.wasDeferred = false ∧ e.replyTrueLength = none)
      ∧ (f.late = true ↔ e.kind = .transact ∧ status = .ok ∧ e.deadlinePassed = true)
      ∧ (f.neverSent = true ↔ e.kind = .transact ∧ e.everSent = false)
      ∧ (f.wasDeferred = true ↔ e.wasDeferred = true)
      ∧ (f.noAnswerExpected = true ↔ e.kind = .transact ∧ status = .ok
          ∧ e.station = some broadcastStation)
      ∧ (f.truncated = true ↔ ∃ n, e.replyTrueLength = some n ∧ e.replyLimit < n)

/-- A deadline that expires in EXCHANGE sets DEADLINE_PASSED; in QUEUED, RETRY_WAIT and DEFERRED it retires
the entry DEADLINE, its token going to the release list. A FENCE that waits for the entry counts it as not
OK, and retires OK after it when it waits for no more. The line then goes on as its changed work asks: the
arbiter of an IDLE one is evaluated, a DRAINING one that holds no entry comes to rest (R93, R89, R98, R99, R35,
R51). -/
def Obligations.Deadlines : Prop :=
  ∀ (s : State) (i : EntryIx), s.device.state = .running → (s.entry i).deadlineTimer = .expired →
    let e := s.entry i
    (e.state = .exchange →
      ∃ t, exec (.deadlineExpiry i) s = .next t
        ∧ s.OnlyEntry t i { e with deadlineTimer := .stopped, deadlinePassed := true })
    ∧ (∀ a, e.state = .queued ∨ e.state = .retryWait ∨ e.state = .deferred → e.station = some a →
        s.NoAbortOn i →
      (s.NoFenceOn i →
        s.Then (.deadlineExpiry i) e.line fun t => s.EntryRetired t i a .deadline e.token)
      ∧ (∀ j, j ≠ i → (s.entry j).state = .fenceWait → (s.entry j).kind = .fence →
          (s.entry j).station = none → (s.entry j).waitsFor.Nodup → i ∈ (s.entry j).waitsFor →
          (∀ k, k ≠ j → (s.entry k).state = .fenceWait → i ∉ (s.entry k).waitsFor) →
        ∃ waits, s.Then (.deadlineExpiry i) e.line fun t =>
          t.entry i = e.retired .deadline
          ∧ waits.length + 1 = (s.entry j).waitsFor.length
          ∧ (∀ k, k ∈ waits ↔ k ≠ i ∧ k ∈ (s.entry j).waitsFor)
          ∧ (waits ≠ [] →
              t.entry j =
                { s.entry j with waitsFor := waits, notOkCount := (s.entry j).notOkCount + 1 }
              ∧ t.retire.queue = s.retire.queue ++ [{ item := .entry i, stamp := s.time.now }])
          ∧ (waits = [] →
              t.entry j =
                { s.entry j with notOkCount := (s.entry j).notOkCount + 1 }.retired .ok
              ∧ t.retire.queue = s.retire.queue
                ++ [{ item := .entry i, stamp := s.time.now }, { item := .entry j, stamp := s.time.now }])
          ∧ (∀ k, k ≠ i → k ≠ j → t.entry k = s.entry k) ∧ (∀ l, t.line l = s.line l)
          ∧ t.store = s.store ∧ s.SameHost t ∧ s.SameAdmission t ∧ s.Begins t))

/-- The phase timer of an entry: a retry holdoff that ends makes the entry QUEUED again; a
collect holdoff or a collect interval makes it DEFERRED and due as of this increment. That this is the
increment at which the expiry is taken is the model's choice (log 36). The arbiter of an IDLE line is then
evaluated (R51, R87, R105, R111). -/
def Obligations.PhaseTimers : Prop :=
  ∀ (s : State) (i : EntryIx), s.device.state = .running → (s.entry i).phaseTimer = .expired →
    let e := s.entry i
    (e.state = .retryWait → e.token = none →
      s.Then (.retryHoldoffExpiry i) e.line fun t =>
        s.OnlyEntry t i { e with phaseTimer := .stopped, state := .queued })
    ∧ (e.state = .retryWait → e.token ≠ none →
      s.Then (.collectHoldoffExpiry i) e.line fun t =>
        s.OnlyEntry t i
            { e with phaseTimer := .stopped, state := .deferred, dueTime := some s.time.increment })
    ∧ (e.state = .deferred →
      s.Then (.collectIntervalExpiry i) e.line fun t =>
        s.OnlyEntry t i { e with phaseTimer := .stopped, dueTime := some s.time.increment })

/-! ### Invariants of every step -/

/-- Every step keeps the Payload Store's segments in exactly one place each, and its bytes in canonical form
(R115, R116, R119, R123). -/
def Obligations.StepKeepsSegments : Prop :=
  ∀ s t : State, step s = .next t →
    (s.SegmentsOk → t.SegmentsOk) ∧ (s.MemoryOk → t.MemoryOk)

/-- Every step keeps the tags of the occupied entries of one ring distinct, and an entry that waits in
FENCE_WAIT that of a FENCE, which names no station (R80, R141). -/
def Obligations.StepKeepsTags : Prop :=
  ∀ s t : State, step s = .next t →
    (s.TagsOk → t.TagsOk) ∧ (s.FencesOk → t.FencesOk)

/-- Every step keeps the unseen counts of the written rings within their sizes, with room for the record
being written, and the record of address 31 as fixed (R145, R149, R153, R74). -/
def Obligations.StepKeepsRoom : Prop :=
  ∀ s t : State, step s = .next t → (s.RoomOk → t.RoomOk) ∧ (s.BroadcastOk → t.BroadcastOk)

/-- The invariants hold after reset. -/
def Obligations.InvariantsAtReset : Prop :=
  State.reset.SegmentsOk ∧ State.reset.MemoryOk ∧ State.reset.TagsOk ∧ State.reset.FencesOk
    ∧ State.reset.RoomOk ∧ State.reset.BroadcastOk
end

