-- ==== Sys2Proof/Laws/Memory.lean ====
section
/-! SUPPORT. The Payload Store's memory: a read after a write, and the canonical form kept by every
memory operation. -/

namespace Sys2Proof.Machine

theorem Memory.wfFrom_mono {m : Memory} {lo lo' : Nat} (h : Memory.wfFrom lo m = true)
    (hl : lo' ≤ lo) : Memory.wfFrom lo' m = true := by
  cases m with
  | nil => rfl
  | cons c m =>
    obtain ⟨x, v⟩ := c
    simp only [Memory.wfFrom, Bool.and_eq_true, decide_eq_true_eq] at h ⊢
    exact ⟨⟨by omega, h.1.2⟩, h.2⟩

theorem Memory.write_wfFrom {m : Memory} {lo a : Nat} {b : Byte} (h : Memory.wfFrom lo m = true)
    (ha : lo ≤ a) : Memory.wfFrom lo (Memory.write m a b) = true := by
  induction m generalizing lo with
  | nil => by_cases hb : b = Memory.unlisted <;> simp [Memory.write, Memory.wfFrom, hb, ha]
  | cons c m ih =>
    obtain ⟨x, v⟩ := c
    simp only [Memory.wfFrom, Bool.and_eq_true, decide_eq_true_eq] at h
    simp only [Memory.write]
    split
    · split
      · simp only [Memory.wfFrom, Bool.and_eq_true, decide_eq_true_eq]; exact h
      · next hb =>
        simp only [Memory.wfFrom, Bool.and_eq_true, decide_eq_true_eq, bne_iff_ne, ne_eq]
        exact ⟨⟨ha, hb⟩, ⟨by omega, by simpa using h.1.2⟩, h.2⟩
    · split
      · next he =>
        subst he
        split
        · exact Memory.wfFrom_mono h.2 (by omega)
        · next hb =>
          simp only [Memory.wfFrom, Bool.and_eq_true, decide_eq_true_eq, bne_iff_ne, ne_eq]
          exact ⟨⟨ha, hb⟩, h.2⟩
      · simp only [Memory.wfFrom, Bool.and_eq_true, decide_eq_true_eq]
        exact ⟨h.1, ih h.2 (by omega)⟩

/-- A write keeps the canonical form. -/
theorem Memory.write_wf {m : Memory} (a : Nat) (b : Byte) (h : m.wf = true) :
    (m.write a b).wf = true := Memory.write_wfFrom h (Nat.zero_le a)

/-- A run of writes keeps the canonical form. -/
theorem Memory.writeRun_wf {m : Memory} (a : Nat) (bs : List Byte) (h : m.wf = true) :
    (m.writeRun a bs).wf = true := by
  induction bs generalizing m a with
  | nil => exact h
  | cons b bs ih => exact ih (a + 1) (Memory.write_wf a b h)

/-- Filling a chain keeps the canonical form. -/
theorem Memory.writeChain_wf {m : Memory} (chain : List SegIx) (bs : List Byte) (h : m.wf = true) :
    (m.writeChain chain bs).wf = true := by
  induction chain generalizing m bs with
  | nil => exact h
  | cons seg chain ih => exact ih _ (Memory.writeRun_wf _ _ h)

theorem Memory.read_of_wfFrom {m : Memory} {lo a : Nat} (h : Memory.wfFrom lo m = true) (ha : a < lo) :
    m.read a = Memory.unlisted := by
  induction m generalizing lo with
  | nil => rfl
  | cons c m ih =>
    obtain ⟨x, v⟩ := c
    simp only [Memory.wfFrom, Bool.and_eq_true, decide_eq_true_eq] at h
    have : x ≠ a := by omega
    simp only [Memory.read, this, if_false]
    exact ih h.2 (by omega)

theorem Memory.read_write_of_wfFrom {m : Memory} {lo : Nat} (a c : Nat) (b : Byte)
    (h : Memory.wfFrom lo m = true) : (m.write a b).read c = if a = c then b else m.read c := by
  induction m generalizing lo with
  | nil =>
    by_cases hb : b = Memory.unlisted
    · by_cases hc : a = c <;> simp [Memory.write, Memory.read, hb, hc]
    · simp [Memory.write, Memory.read, hb]
  | cons x m ih =>
    obtain ⟨x, v⟩ := x
    simp only [Memory.wfFrom, Bool.and_eq_true, decide_eq_true_eq] at h
    have later : ∀ d, d ≤ x → Memory.read m d = Memory.unlisted := fun d hd =>
      Memory.read_of_wfFrom h.2 (by omega)
    simp only [Memory.write]
    split
    · next hax =>
      split
      · next hb =>
        by_cases hac : a = c
        · subst hac
          have : x ≠ a := by omega
          simp [Memory.read, this, later a (by omega), hb]
        · simp [hac]
      · by_cases hac : a = c <;> simp [Memory.read, hac]
    · split
      · next hax he =>
        subst he
        split
        · next hb =>
          by_cases hac : a = c
          · subst hac; simp [later a (by omega), hb]
          · simp [Memory.read, hac]
        · by_cases hac : a = c <;> simp [Memory.read, hac]
      · next hne =>
        simp only [Memory.read, ih h.2]
        by_cases hxc : x = c
        · have : a ≠ c := by omega
          simp [hxc, this]
        · simp [hxc]

/-- What a byte reads as after a write. -/
theorem Memory.read_write {m : Memory} (a c : Nat) (b : Byte) (h : m.wf = true) :
    (m.write a b).read c = if a = c then b else m.read c := Memory.read_write_of_wfFrom a c b h

/-- What a byte reads as after a run of writes. -/
theorem Memory.read_writeRun {m : Memory} (a c : Nat) (bs : List Byte) (h : m.wf = true) :
    (m.writeRun a bs).read c =
      if a ≤ c ∧ c < a + bs.length then bs.getD (c - a) 0 else m.read c := by
  induction bs generalizing m a with
  | nil =>
    have : ¬ (a ≤ c ∧ c < a + ([] : List Byte).length) := by simp
    rw [if_neg this]; rfl
  | cons b bs ih =>
    rw [Memory.writeRun, ih (a + 1) (Memory.write_wf a b h), Memory.read_write a c b h]
    by_cases h1 : a = c
    · subst h1; simp
    · by_cases h2 : a + 1 ≤ c ∧ c < a + 1 + bs.length
      · have h3 : a ≤ c ∧ c < a + (b :: bs).length := by simp only [List.length_cons]; omega
        have h4 : c - a = (c - (a + 1)) + 1 := by omega
        rw [if_pos h2, if_pos h3, h4]; simp
      · have h3 : ¬ (a ≤ c ∧ c < a + (b :: bs).length) := by simp only [List.length_cons]; omega
        rw [if_neg h2, if_neg h3, if_neg h1]

/-- Filling a chain leaves every byte of a segment outside it. -/
theorem Memory.read_writeChain_of_not_mem {m : Memory} (chain : List SegIx) (bs : List Byte) (c : Nat)
    (h : m.wf = true) (hc : ∀ seg ∈ chain, c / 64 ≠ seg.val) :
    (m.writeChain chain bs).read c = m.read c := by
  induction chain generalizing m bs with
  | nil => rfl
  | cons seg chain ih =>
    have hs : c / 64 ≠ seg.val := hc seg (by simp)
    rw [Memory.writeChain, ih _ (Memory.writeRun_wf _ _ h) (fun x hx => hc x (by simp [hx])),
      Memory.read_writeRun _ _ _ h, if_neg]
    simp only [List.length_take]
    omega

end Sys2Proof.Machine
end

