-- ==== Sys2Proof/Laws/Table.lean ====
section
/-! SUPPORT. Reading a table after it was filled, set or mapped. -/

namespace Sys2Proof.Machine

@[simp] theorem Table.get_fill {α : Type} (n : Nat) (a : α) (i : Fin n) :
    (Table.fill n a).get i = a := by simp [Table.fill, Table.get]

@[simp] theorem Table.get_set_self {α : Type} {n : Nat} (t : Table α n) (i : Fin n) (a : α) :
    (t.set i a).get i = a := by simp [Table.set, Table.get]

theorem Table.get_set_ne {α : Type} {n : Nat} (t : Table α n) {i j : Fin n} (a : α) (h : i ≠ j) :
    (t.set i a).get j = t.get j := by
  have : i.val ≠ j.val := fun e => h (Fin.ext e)
  simp [Table.set, Table.get, this]

theorem Table.get_set {α : Type} {n : Nat} (t : Table α n) (i j : Fin n) (a : α) :
    (t.set i a).get j = if i = j then a else t.get j := by
  by_cases h : i = j
  · subst h; simp
  · simp [Table.get_set_ne t a h, h]

@[simp] theorem Table.get_map {α : Type} {n : Nat} (f : α → α) (t : Table α n) (i : Fin n) :
    (t.map f).get i = f (t.get i) := by simp [Table.map, Table.get]

theorem Table.ext_get {α : Type} {n : Nat} {t u : Table α n} (h : ∀ i, t.get i = u.get i) : t = u := by
  obtain ⟨xs, hx⟩ := t
  obtain ⟨ys, hy⟩ := u
  have : xs = ys := by
    apply List.ext_getElem (by omega)
    intro k h1 h2
    exact h ⟨k, by omega⟩
  subst this
  rfl

@[simp] theorem Table.set_get_self {α : Type} {n : Nat} (t : Table α n) (i : Fin n) :
    t.set i (t.get i) = t := by
  apply Table.ext_get
  intro j
  rw [Table.get_set]
  split
  · next h => rw [h]
  · rfl

/-- Setting a cell leaves a property of every cell when the new value has it. -/
theorem Table.forall_set {α : Type} {n : Nat} {P : α → Prop} {t : Table α n} {i : Fin n} {a : α}
    (h : ∀ j, P (t.get j)) (ha : P a) (j : Fin n) : P ((t.set i a).get j) := by
  rw [Table.get_set]
  split
  · exact ha
  · exact h j

end Sys2Proof.Machine
end

