-- ==== Sys2Proof/Laws/State.lean ====
section
/-! SUPPORT. One lemma per field per update of the state, and reading back what an update wrote. -/

namespace Sys2Proof.Machine

/-! ### `setLine` -/

@[simp] theorem State.setLine_pending (s : State) (l : Line) (x : LineEngine) :
    (s.setLine l x).pending = s.pending := rfl
@[simp] theorem State.setLine_resetInput (s : State) (l : Line) (x : LineEngine) :
    (s.setLine l x).resetInput = s.resetInput := rfl
@[simp] theorem State.setLine_device (s : State) (l : Line) (x : LineEngine) :
    (s.setLine l x).device = s.device := rfl
@[simp] theorem State.setLine_time (s : State) (l : Line) (x : LineEngine) :
    (s.setLine l x).time = s.time := rfl
@[simp] theorem State.setLine_admission (s : State) (l : Line) (x : LineEngine) :
    (s.setLine l x).admission = s.admission := rfl
@[simp] theorem State.setLine_stations (s : State) (l : Line) (x : LineEngine) :
    (s.setLine l x).stations = s.stations := rfl
@[simp] theorem State.setLine_entries (s : State) (l : Line) (x : LineEngine) :
    (s.setLine l x).entries = s.entries := rfl
@[simp] theorem State.setLine_store (s : State) (l : Line) (x : LineEngine) :
    (s.setLine l x).store = s.store := rfl
@[simp] theorem State.setLine_retire (s : State) (l : Line) (x : LineEngine) :
    (s.setLine l x).retire = s.retire := rfl
@[simp] theorem State.setLine_cplRing (s : State) (l : Line) (x : LineEngine) :
    (s.setLine l x).cplRing = s.cplRing := rfl
@[simp] theorem State.setLine_ind (s : State) (l : Line) (x : LineEngine) :
    (s.setLine l x).ind = s.ind := rfl
@[simp] theorem State.setLine_indRing (s : State) (l : Line) (x : LineEngine) :
    (s.setLine l x).indRing = s.indRing := rfl
@[simp] theorem State.setLine_notify (s : State) (l : Line) (x : LineEngine) :
    (s.setLine l x).notify = s.notify := rfl
@[simp] theorem State.setLine_busWrites (s : State) (l : Line) (x : LineEngine) :
    (s.setLine l x).busWrites = s.busWrites := rfl
@[simp] theorem State.setLine_freeSeq (s : State) (l : Line) (x : LineEngine) :
    (s.setLine l x).freeSeq = s.freeSeq := rfl
@[simp] theorem State.setLine_station (s : State) (l : Line) (x : LineEngine) (m : Line) (b : Station) :
    (s.setLine l x).station m b = s.station m b := rfl
@[simp] theorem State.setLine_entry (s : State) (l : Line) (x : LineEngine) (j : EntryIx) :
    (s.setLine l x).entry j = s.entry j := rfl
@[simp] theorem State.setLine_ringUnit (s : State) (l : Line) (x : LineEngine) (q : Ring) :
    (s.setLine l x).ringUnit q = s.ringUnit q := rfl
@[simp] theorem State.setLine_cfg (s : State) (l : Line) (x : LineEngine) :
    (s.setLine l x).cfg = s.cfg := rfl

/-! ### `modLine` -/

@[simp] theorem State.modLine_pending (s : State) (l : Line) (f : LineEngine → LineEngine) :
    (s.modLine l f).pending = s.pending := rfl
@[simp] theorem State.modLine_resetInput (s : State) (l : Line) (f : LineEngine → LineEngine) :
    (s.modLine l f).resetInput = s.resetInput := rfl
@[simp] theorem State.modLine_device (s : State) (l : Line) (f : LineEngine → LineEngine) :
    (s.modLine l f).device = s.device := rfl
@[simp] theorem State.modLine_time (s : State) (l : Line) (f : LineEngine → LineEngine) :
    (s.modLine l f).time = s.time := rfl
@[simp] theorem State.modLine_admission (s : State) (l : Line) (f : LineEngine → LineEngine) :
    (s.modLine l f).admission = s.admission := rfl
@[simp] theorem State.modLine_stations (s : State) (l : Line) (f : LineEngine → LineEngine) :
    (s.modLine l f).stations = s.stations := rfl
@[simp] theorem State.modLine_entries (s : State) (l : Line) (f : LineEngine → LineEngine) :
    (s.modLine l f).entries = s.entries := rfl
@[simp] theorem State.modLine_store (s : State) (l : Line) (f : LineEngine → LineEngine) :
    (s.modLine l f).store = s.store := rfl
@[simp] theorem State.modLine_retire (s : State) (l : Line) (f : LineEngine → LineEngine) :
    (s.modLine l f).retire = s.retire := rfl
@[simp] theorem State.modLine_cplRing (s : State) (l : Line) (f : LineEngine → LineEngine) :
    (s.modLine l f).cplRing = s.cplRing := rfl
@[simp] theorem State.modLine_ind (s : State) (l : Line) (f : LineEngine → LineEngine) :
    (s.modLine l f).ind = s.ind := rfl
@[simp] theorem State.modLine_indRing (s : State) (l : Line) (f : LineEngine → LineEngine) :
    (s.modLine l f).indRing = s.indRing := rfl
@[simp] theorem State.modLine_notify (s : State) (l : Line) (f : LineEngine → LineEngine) :
    (s.modLine l f).notify = s.notify := rfl
@[simp] theorem State.modLine_busWrites (s : State) (l : Line) (f : LineEngine → LineEngine) :
    (s.modLine l f).busWrites = s.busWrites := rfl
@[simp] theorem State.modLine_freeSeq (s : State) (l : Line) (f : LineEngine → LineEngine) :
    (s.modLine l f).freeSeq = s.freeSeq := rfl
@[simp] theorem State.modLine_station (s : State) (l : Line) (f : LineEngine → LineEngine) (m : Line) (b : Station) :
    (s.modLine l f).station m b = s.station m b := rfl
@[simp] theorem State.modLine_entry (s : State) (l : Line) (f : LineEngine → LineEngine) (j : EntryIx) :
    (s.modLine l f).entry j = s.entry j := rfl
@[simp] theorem State.modLine_ringUnit (s : State) (l : Line) (f : LineEngine → LineEngine) (q : Ring) :
    (s.modLine l f).ringUnit q = s.ringUnit q := rfl
@[simp] theorem State.modLine_cfg (s : State) (l : Line) (f : LineEngine → LineEngine) :
    (s.modLine l f).cfg = s.cfg := rfl

/-! ### `setStation` -/

@[simp] theorem State.setStation_pending (s : State) (l : Line) (a : Station) (r : StationRecord) :
    (s.setStation l a r).pending = s.pending := rfl
@[simp] theorem State.setStation_resetInput (s : State) (l : Line) (a : Station) (r : StationRecord) :
    (s.setStation l a r).resetInput = s.resetInput := rfl
@[simp] theorem State.setStation_device (s : State) (l : Line) (a : Station) (r : StationRecord) :
    (s.setStation l a r).device = s.device := rfl
@[simp] theorem State.setStation_time (s : State) (l : Line) (a : Station) (r : StationRecord) :
    (s.setStation l a r).time = s.time := rfl
@[simp] theorem State.setStation_admission (s : State) (l : Line) (a : Station) (r : StationRecord) :
    (s.setStation l a r).admission = s.admission := rfl
@[simp] theorem State.setStation_lines (s : State) (l : Line) (a : Station) (r : StationRecord) :
    (s.setStation l a r).lines = s.lines := rfl
@[simp] theorem State.setStation_entries (s : State) (l : Line) (a : Station) (r : StationRecord) :
    (s.setStation l a r).entries = s.entries := rfl
@[simp] theorem State.setStation_store (s : State) (l : Line) (a : Station) (r : StationRecord) :
    (s.setStation l a r).store = s.store := rfl
@[simp] theorem State.setStation_retire (s : State) (l : Line) (a : Station) (r : StationRecord) :
    (s.setStation l a r).retire = s.retire := rfl
@[simp] theorem State.setStation_cplRing (s : State) (l : Line) (a : Station) (r : StationRecord) :
    (s.setStation l a r).cplRing = s.cplRing := rfl
@[simp] theorem State.setStation_ind (s : State) (l : Line) (a : Station) (r : StationRecord) :
    (s.setStation l a r).ind = s.ind := rfl
@[simp] theorem State.setStation_indRing (s : State) (l : Line) (a : Station) (r : StationRecord) :
    (s.setStation l a r).indRing = s.indRing := rfl
@[simp] theorem State.setStation_notify (s : State) (l : Line) (a : Station) (r : StationRecord) :
    (s.setStation l a r).notify = s.notify := rfl
@[simp] theorem State.setStation_busWrites (s : State) (l : Line) (a : Station) (r : StationRecord) :
    (s.setStation l a r).busWrites = s.busWrites := rfl
@[simp] theorem State.setStation_freeSeq (s : State) (l : Line) (a : Station) (r : StationRecord) :
    (s.setStation l a r).freeSeq = s.freeSeq := rfl
@[simp] theorem State.setStation_line (s : State) (l : Line) (a : Station) (r : StationRecord) (m : Line) :
    (s.setStation l a r).line m = s.line m := rfl
@[simp] theorem State.setStation_entry (s : State) (l : Line) (a : Station) (r : StationRecord) (j : EntryIx) :
    (s.setStation l a r).entry j = s.entry j := rfl
@[simp] theorem State.setStation_ringUnit (s : State) (l : Line) (a : Station) (r : StationRecord) (q : Ring) :
    (s.setStation l a r).ringUnit q = s.ringUnit q := rfl
@[simp] theorem State.setStation_cfg (s : State) (l : Line) (a : Station) (r : StationRecord) :
    (s.setStation l a r).cfg = s.cfg := rfl

/-! ### `modStation` -/

@[simp] theorem State.modStation_pending (s : State) (l : Line) (a : Station) (f : StationRecord → StationRecord) :
    (s.modStation l a f).pending = s.pending := rfl
@[simp] theorem State.modStation_resetInput (s : State) (l : Line) (a : Station) (f : StationRecord → StationRecord) :
    (s.modStation l a f).resetInput = s.resetInput := rfl
@[simp] theorem State.modStation_device (s : State) (l : Line) (a : Station) (f : StationRecord → StationRecord) :
    (s.modStation l a f).device = s.device := rfl
@[simp] theorem State.modStation_time (s : State) (l : Line) (a : Station) (f : StationRecord → StationRecord) :
    (s.modStation l a f).time = s.time := rfl
@[simp] theorem State.modStation_admission (s : State) (l : Line) (a : Station) (f : StationRecord → StationRecord) :
    (s.modStation l a f).admission = s.admission := rfl
@[simp] theorem State.modStation_lines (s : State) (l : Line) (a : Station) (f : StationRecord → StationRecord) :
    (s.modStation l a f).lines = s.lines := rfl
@[simp] theorem State.modStation_entries (s : State) (l : Line) (a : Station) (f : StationRecord → StationRecord) :
    (s.modStation l a f).entries = s.entries := rfl
@[simp] theorem State.modStation_store (s : State) (l : Line) (a : Station) (f : StationRecord → StationRecord) :
    (s.modStation l a f).store = s.store := rfl
@[simp] theorem State.modStation_retire (s : State) (l : Line) (a : Station) (f : StationRecord → StationRecord) :
    (s.modStation l a f).retire = s.retire := rfl
@[simp] theorem State.modStation_cplRing (s : State) (l : Line) (a : Station) (f : StationRecord → StationRecord) :
    (s.modStation l a f).cplRing = s.cplRing := rfl
@[simp] theorem State.modStation_ind (s : State) (l : Line) (a : Station) (f : StationRecord → StationRecord) :
    (s.modStation l a f).ind = s.ind := rfl
@[simp] theorem State.modStation_indRing (s : State) (l : Line) (a : Station) (f : StationRecord → StationRecord) :
    (s.modStation l a f).indRing = s.indRing := rfl
@[simp] theorem State.modStation_notify (s : State) (l : Line) (a : Station) (f : StationRecord → StationRecord) :
    (s.modStation l a f).notify = s.notify := rfl
@[simp] theorem State.modStation_busWrites (s : State) (l : Line) (a : Station) (f : StationRecord → StationRecord) :
    (s.modStation l a f).busWrites = s.busWrites := rfl
@[simp] theorem State.modStation_freeSeq (s : State) (l : Line) (a : Station) (f : StationRecord → StationRecord) :
    (s.modStation l a f).freeSeq = s.freeSeq := rfl
@[simp] theorem State.modStation_line (s : State) (l : Line) (a : Station) (f : StationRecord → StationRecord) (m : Line) :
    (s.modStation l a f).line m = s.line m := rfl
@[simp] theorem State.modStation_entry (s : State) (l : Line) (a : Station) (f : StationRecord → StationRecord) (j : EntryIx) :
    (s.modStation l a f).entry j = s.entry j := rfl
@[simp] theorem State.modStation_ringUnit (s : State) (l : Line) (a : Station) (f : StationRecord → StationRecord) (q : Ring) :
    (s.modStation l a f).ringUnit q = s.ringUnit q := rfl
@[simp] theorem State.modStation_cfg (s : State) (l : Line) (a : Station) (f : StationRecord → StationRecord) :
    (s.modStation l a f).cfg = s.cfg := rfl

/-! ### `mapStations` -/

@[simp] theorem State.mapStations_pending (s : State) (l : Line) (f : StationRecord → StationRecord) :
    (s.mapStations l f).pending = s.pending := rfl
@[simp] theorem State.mapStations_resetInput (s : State) (l : Line) (f : StationRecord → StationRecord) :
    (s.mapStations l f).resetInput = s.resetInput := rfl
@[simp] theorem State.mapStations_device (s : State) (l : Line) (f : StationRecord → StationRecord) :
    (s.mapStations l f).device = s.device := rfl
@[simp] theorem State.mapStations_time (s : State) (l : Line) (f : StationRecord → StationRecord) :
    (s.mapStations l f).time = s.time := rfl
@[simp] theorem State.mapStations_admission (s : State) (l : Line) (f : StationRecord → StationRecord) :
    (s.mapStations l f).admission = s.admission := rfl
@[simp] theorem State.mapStations_lines (s : State) (l : Line) (f : StationRecord → StationRecord) :
    (s.mapStations l f).lines = s.lines := rfl
@[simp] theorem State.mapStations_entries (s : State) (l : Line) (f : StationRecord → StationRecord) :
    (s.mapStations l f).entries = s.entries := rfl
@[simp] theorem State.mapStations_store (s : State) (l : Line) (f : StationRecord → StationRecord) :
    (s.mapStations l f).store = s.store := rfl
@[simp] theorem State.mapStations_retire (s : State) (l : Line) (f : StationRecord → StationRecord) :
    (s.mapStations l f).retire = s.retire := rfl
@[simp] theorem State.mapStations_cplRing (s : State) (l : Line) (f : StationRecord → StationRecord) :
    (s.mapStations l f).cplRing = s.cplRing := rfl
@[simp] theorem State.mapStations_ind (s : State) (l : Line) (f : StationRecord → StationRecord) :
    (s.mapStations l f).ind = s.ind := rfl
@[simp] theorem State.mapStations_indRing (s : State) (l : Line) (f : StationRecord → StationRecord) :
    (s.mapStations l f).indRing = s.indRing := rfl
@[simp] theorem State.mapStations_notify (s : State) (l : Line) (f : StationRecord → StationRecord) :
    (s.mapStations l f).notify = s.notify := rfl
@[simp] theorem State.mapStations_busWrites (s : State) (l : Line) (f : StationRecord → StationRecord) :
    (s.mapStations l f).busWrites = s.busWrites := rfl
@[simp] theorem State.mapStations_freeSeq (s : State) (l : Line) (f : StationRecord → StationRecord) :
    (s.mapStations l f).freeSeq = s.freeSeq := rfl
@[simp] theorem State.mapStations_line (s : State) (l : Line) (f : StationRecord → StationRecord) (m : Line) :
    (s.mapStations l f).line m = s.line m := rfl
@[simp] theorem State.mapStations_entry (s : State) (l : Line) (f : StationRecord → StationRecord) (j : EntryIx) :
    (s.mapStations l f).entry j = s.entry j := rfl
@[simp] theorem State.mapStations_ringUnit (s : State) (l : Line) (f : StationRecord → StationRecord) (q : Ring) :
    (s.mapStations l f).ringUnit q = s.ringUnit q := rfl
@[simp] theorem State.mapStations_cfg (s : State) (l : Line) (f : StationRecord → StationRecord) :
    (s.mapStations l f).cfg = s.cfg := rfl

/-! ### `setEntry` -/

@[simp] theorem State.setEntry_pending (s : State) (i : EntryIx) (e : Entry) :
    (s.setEntry i e).pending = s.pending := rfl
@[simp] theorem State.setEntry_resetInput (s : State) (i : EntryIx) (e : Entry) :
    (s.setEntry i e).resetInput = s.resetInput := rfl
@[simp] theorem State.setEntry_device (s : State) (i : EntryIx) (e : Entry) :
    (s.setEntry i e).device = s.device := rfl
@[simp] theorem State.setEntry_time (s : State) (i : EntryIx) (e : Entry) :
    (s.setEntry i e).time = s.time := rfl
@[simp] theorem State.setEntry_admission (s : State) (i : EntryIx) (e : Entry) :
    (s.setEntry i e).admission = s.admission := rfl
@[simp] theorem State.setEntry_lines (s : State) (i : EntryIx) (e : Entry) :
    (s.setEntry i e).lines = s.lines := rfl
@[simp] theorem State.setEntry_stations (s : State) (i : EntryIx) (e : Entry) :
    (s.setEntry i e).stations = s.stations := rfl
@[simp] theorem State.setEntry_store (s : State) (i : EntryIx) (e : Entry) :
    (s.setEntry i e).store = s.store := rfl
@[simp] theorem State.setEntry_retire (s : State) (i : EntryIx) (e : Entry) :
    (s.setEntry i e).retire = s.retire := rfl
@[simp] theorem State.setEntry_cplRing (s : State) (i : EntryIx) (e : Entry) :
    (s.setEntry i e).cplRing = s.cplRing := rfl
@[simp] theorem State.setEntry_ind (s : State) (i : EntryIx) (e : Entry) :
    (s.setEntry i e).ind = s.ind := rfl
@[simp] theorem State.setEntry_indRing (s : State) (i : EntryIx) (e : Entry) :
    (s.setEntry i e).indRing = s.indRing := rfl
@[simp] theorem State.setEntry_notify (s : State) (i : EntryIx) (e : Entry) :
    (s.setEntry i e).notify = s.notify := rfl
@[simp] theorem State.setEntry_busWrites (s : State) (i : EntryIx) (e : Entry) :
    (s.setEntry i e).busWrites = s.busWrites := rfl
@[simp] theorem State.setEntry_freeSeq (s : State) (i : EntryIx) (e : Entry) :
    (s.setEntry i e).freeSeq = s.freeSeq := rfl
@[simp] theorem State.setEntry_line (s : State) (i : EntryIx) (e : Entry) (m : Line) :
    (s.setEntry i e).line m = s.line m := rfl
@[simp] theorem State.setEntry_station (s : State) (i : EntryIx) (e : Entry) (m : Line) (b : Station) :
    (s.setEntry i e).station m b = s.station m b := rfl
@[simp] theorem State.setEntry_ringUnit (s : State) (i : EntryIx) (e : Entry) (q : Ring) :
    (s.setEntry i e).ringUnit q = s.ringUnit q := rfl
@[simp] theorem State.setEntry_cfg (s : State) (i : EntryIx) (e : Entry) :
    (s.setEntry i e).cfg = s.cfg := rfl

/-! ### `modEntry` -/

@[simp] theorem State.modEntry_pending (s : State) (i : EntryIx) (f : Entry → Entry) :
    (s.modEntry i f).pending = s.pending := rfl
@[simp] theorem State.modEntry_resetInput (s : State) (i : EntryIx) (f : Entry → Entry) :
    (s.modEntry i f).resetInput = s.resetInput := rfl
@[simp] theorem State.modEntry_device (s : State) (i : EntryIx) (f : Entry → Entry) :
    (s.modEntry i f).device = s.device := rfl
@[simp] theorem State.modEntry_time (s : State) (i : EntryIx) (f : Entry → Entry) :
    (s.modEntry i f).time = s.time := rfl
@[simp] theorem State.modEntry_admission (s : State) (i : EntryIx) (f : Entry → Entry) :
    (s.modEntry i f).admission = s.admission := rfl
@[simp] theorem State.modEntry_lines (s : State) (i : EntryIx) (f : Entry → Entry) :
    (s.modEntry i f).lines = s.lines := rfl
@[simp] theorem State.modEntry_stations (s : State) (i : EntryIx) (f : Entry → Entry) :
    (s.modEntry i f).stations = s.stations := rfl
@[simp] theorem State.modEntry_store (s : State) (i : EntryIx) (f : Entry → Entry) :
    (s.modEntry i f).store = s.store := rfl
@[simp] theorem State.modEntry_retire (s : State) (i : EntryIx) (f : Entry → Entry) :
    (s.modEntry i f).retire = s.retire := rfl
@[simp] theorem State.modEntry_cplRing (s : State) (i : EntryIx) (f : Entry → Entry) :
    (s.modEntry i f).cplRing = s.cplRing := rfl
@[simp] theorem State.modEntry_ind (s : State) (i : EntryIx) (f : Entry → Entry) :
    (s.modEntry i f).ind = s.ind := rfl
@[simp] theorem State.modEntry_indRing (s : State) (i : EntryIx) (f : Entry → Entry) :
    (s.modEntry i f).indRing = s.indRing := rfl
@[simp] theorem State.modEntry_notify (s : State) (i : EntryIx) (f : Entry → Entry) :
    (s.modEntry i f).notify = s.notify := rfl
@[simp] theorem State.modEntry_busWrites (s : State) (i : EntryIx) (f : Entry → Entry) :
    (s.modEntry i f).busWrites = s.busWrites := rfl
@[simp] theorem State.modEntry_freeSeq (s : State) (i : EntryIx) (f : Entry → Entry) :
    (s.modEntry i f).freeSeq = s.freeSeq := rfl
@[simp] theorem State.modEntry_line (s : State) (i : EntryIx) (f : Entry → Entry) (m : Line) :
    (s.modEntry i f).line m = s.line m := rfl
@[simp] theorem State.modEntry_station (s : State) (i : EntryIx) (f : Entry → Entry) (m : Line) (b : Station) :
    (s.modEntry i f).station m b = s.station m b := rfl
@[simp] theorem State.modEntry_ringUnit (s : State) (i : EntryIx) (f : Entry → Entry) (q : Ring) :
    (s.modEntry i f).ringUnit q = s.ringUnit q := rfl
@[simp] theorem State.modEntry_cfg (s : State) (i : EntryIx) (f : Entry → Entry) :
    (s.modEntry i f).cfg = s.cfg := rfl

/-! ### `modRing` -/

@[simp] theorem State.modRing_pending (s : State) (r : Ring) (f : RingUnit → RingUnit) :
    (s.modRing r f).pending = s.pending := rfl
@[simp] theorem State.modRing_resetInput (s : State) (r : Ring) (f : RingUnit → RingUnit) :
    (s.modRing r f).resetInput = s.resetInput := rfl
@[simp] theorem State.modRing_device (s : State) (r : Ring) (f : RingUnit → RingUnit) :
    (s.modRing r f).device = s.device := rfl
@[simp] theorem State.modRing_time (s : State) (r : Ring) (f : RingUnit → RingUnit) :
    (s.modRing r f).time = s.time := rfl
@[simp] theorem State.modRing_lines (s : State) (r : Ring) (f : RingUnit → RingUnit) :
    (s.modRing r f).lines = s.lines := rfl
@[simp] theorem State.modRing_stations (s : State) (r : Ring) (f : RingUnit → RingUnit) :
    (s.modRing r f).stations = s.stations := rfl
@[simp] theorem State.modRing_entries (s : State) (r : Ring) (f : RingUnit → RingUnit) :
    (s.modRing r f).entries = s.entries := rfl
@[simp] theorem State.modRing_store (s : State) (r : Ring) (f : RingUnit → RingUnit) :
    (s.modRing r f).store = s.store := rfl
@[simp] theorem State.modRing_retire (s : State) (r : Ring) (f : RingUnit → RingUnit) :
    (s.modRing r f).retire = s.retire := rfl
@[simp] theorem State.modRing_cplRing (s : State) (r : Ring) (f : RingUnit → RingUnit) :
    (s.modRing r f).cplRing = s.cplRing := rfl
@[simp] theorem State.modRing_ind (s : State) (r : Ring) (f : RingUnit → RingUnit) :
    (s.modRing r f).ind = s.ind := rfl
@[simp] theorem State.modRing_indRing (s : State) (r : Ring) (f : RingUnit → RingUnit) :
    (s.modRing r f).indRing = s.indRing := rfl
@[simp] theorem State.modRing_notify (s : State) (r : Ring) (f : RingUnit → RingUnit) :
    (s.modRing r f).notify = s.notify := rfl
@[simp] theorem State.modRing_busWrites (s : State) (r : Ring) (f : RingUnit → RingUnit) :
    (s.modRing r f).busWrites = s.busWrites := rfl
@[simp] theorem State.modRing_freeSeq (s : State) (r : Ring) (f : RingUnit → RingUnit) :
    (s.modRing r f).freeSeq = s.freeSeq := rfl
@[simp] theorem State.modRing_line (s : State) (r : Ring) (f : RingUnit → RingUnit) (m : Line) :
    (s.modRing r f).line m = s.line m := rfl
@[simp] theorem State.modRing_station (s : State) (r : Ring) (f : RingUnit → RingUnit) (m : Line) (b : Station) :
    (s.modRing r f).station m b = s.station m b := rfl
@[simp] theorem State.modRing_entry (s : State) (r : Ring) (f : RingUnit → RingUnit) (j : EntryIx) :
    (s.modRing r f).entry j = s.entry j := rfl
@[simp] theorem State.modRing_cfg (s : State) (r : Ring) (f : RingUnit → RingUnit) :
    (s.modRing r f).cfg = s.cfg := rfl

/-! ### `modHold` -/

@[simp] theorem State.modHold_pending (s : State) (r : Ring) (f : Hold → Hold) :
    (s.modHold r f).pending = s.pending := rfl
@[simp] theorem State.modHold_resetInput (s : State) (r : Ring) (f : Hold → Hold) :
    (s.modHold r f).resetInput = s.resetInput := rfl
@[simp] theorem State.modHold_device (s : State) (r : Ring) (f : Hold → Hold) :
    (s.modHold r f).device = s.device := rfl
@[simp] theorem State.modHold_time (s : State) (r : Ring) (f : Hold → Hold) :
    (s.modHold r f).time = s.time := rfl
@[simp] theorem State.modHold_lines (s : State) (r : Ring) (f : Hold → Hold) :
    (s.modHold r f).lines = s.lines := rfl
@[simp] theorem State.modHold_stations (s : State) (r : Ring) (f : Hold → Hold) :
    (s.modHold r f).stations = s.stations := rfl
@[simp] theorem State.modHold_entries (s : State) (r : Ring) (f : Hold → Hold) :
    (s.modHold r f).entries = s.entries := rfl
@[simp] theorem State.modHold_store (s : State) (r : Ring) (f : Hold → Hold) :
    (s.modHold r f).store = s.store := rfl
@[simp] theorem State.modHold_retire (s : State) (r : Ring) (f : Hold → Hold) :
    (s.modHold r f).retire = s.retire := rfl
@[simp] theorem State.modHold_cplRing (s : State) (r : Ring) (f : Hold → Hold) :
    (s.modHold r f).cplRing = s.cplRing := rfl
@[simp] theorem State.modHold_ind (s : State) (r : Ring) (f : Hold → Hold) :
    (s.modHold r f).ind = s.ind := rfl
@[simp] theorem State.modHold_indRing (s : State) (r : Ring) (f : Hold → Hold) :
    (s.modHold r f).indRing = s.indRing := rfl
@[simp] theorem State.modHold_notify (s : State) (r : Ring) (f : Hold → Hold) :
    (s.modHold r f).notify = s.notify := rfl
@[simp] theorem State.modHold_busWrites (s : State) (r : Ring) (f : Hold → Hold) :
    (s.modHold r f).busWrites = s.busWrites := rfl
@[simp] theorem State.modHold_freeSeq (s : State) (r : Ring) (f : Hold → Hold) :
    (s.modHold r f).freeSeq = s.freeSeq := rfl
@[simp] theorem State.modHold_line (s : State) (r : Ring) (f : Hold → Hold) (m : Line) :
    (s.modHold r f).line m = s.line m := rfl
@[simp] theorem State.modHold_station (s : State) (r : Ring) (f : Hold → Hold) (m : Line) (b : Station) :
    (s.modHold r f).station m b = s.station m b := rfl
@[simp] theorem State.modHold_entry (s : State) (r : Ring) (f : Hold → Hold) (j : EntryIx) :
    (s.modHold r f).entry j = s.entry j := rfl
@[simp] theorem State.modHold_cfg (s : State) (r : Ring) (f : Hold → Hold) :
    (s.modHold r f).cfg = s.cfg := rfl

/-! ### `setPlace` -/

@[simp] theorem State.setPlace_pending (s : State) (p : PlaceIx) (c : Option Immediate) :
    (s.setPlace p c).pending = s.pending := rfl
@[simp] theorem State.setPlace_resetInput (s : State) (p : PlaceIx) (c : Option Immediate) :
    (s.setPlace p c).resetInput = s.resetInput := rfl
@[simp] theorem State.setPlace_device (s : State) (p : PlaceIx) (c : Option Immediate) :
    (s.setPlace p c).device = s.device := rfl
@[simp] theorem State.setPlace_time (s : State) (p : PlaceIx) (c : Option Immediate) :
    (s.setPlace p c).time = s.time := rfl
@[simp] theorem State.setPlace_lines (s : State) (p : PlaceIx) (c : Option Immediate) :
    (s.setPlace p c).lines = s.lines := rfl
@[simp] theorem State.setPlace_stations (s : State) (p : PlaceIx) (c : Option Immediate) :
    (s.setPlace p c).stations = s.stations := rfl
@[simp] theorem State.setPlace_entries (s : State) (p : PlaceIx) (c : Option Immediate) :
    (s.setPlace p c).entries = s.entries := rfl
@[simp] theorem State.setPlace_store (s : State) (p : PlaceIx) (c : Option Immediate) :
    (s.setPlace p c).store = s.store := rfl
@[simp] theorem State.setPlace_retire (s : State) (p : PlaceIx) (c : Option Immediate) :
    (s.setPlace p c).retire = s.retire := rfl
@[simp] theorem State.setPlace_cplRing (s : State) (p : PlaceIx) (c : Option Immediate) :
    (s.setPlace p c).cplRing = s.cplRing := rfl
@[simp] theorem State.setPlace_ind (s : State) (p : PlaceIx) (c : Option Immediate) :
    (s.setPlace p c).ind = s.ind := rfl
@[simp] theorem State.setPlace_indRing (s : State) (p : PlaceIx) (c : Option Immediate) :
    (s.setPlace p c).indRing = s.indRing := rfl
@[simp] theorem State.setPlace_notify (s : State) (p : PlaceIx) (c : Option Immediate) :
    (s.setPlace p c).notify = s.notify := rfl
@[simp] theorem State.setPlace_busWrites (s : State) (p : PlaceIx) (c : Option Immediate) :
    (s.setPlace p c).busWrites = s.busWrites := rfl
@[simp] theorem State.setPlace_freeSeq (s : State) (p : PlaceIx) (c : Option Immediate) :
    (s.setPlace p c).freeSeq = s.freeSeq := rfl
@[simp] theorem State.setPlace_line (s : State) (p : PlaceIx) (c : Option Immediate) (m : Line) :
    (s.setPlace p c).line m = s.line m := rfl
@[simp] theorem State.setPlace_station (s : State) (p : PlaceIx) (c : Option Immediate) (m : Line) (b : Station) :
    (s.setPlace p c).station m b = s.station m b := rfl
@[simp] theorem State.setPlace_entry (s : State) (p : PlaceIx) (c : Option Immediate) (j : EntryIx) :
    (s.setPlace p c).entry j = s.entry j := rfl
@[simp] theorem State.setPlace_cfg (s : State) (p : PlaceIx) (c : Option Immediate) :
    (s.setPlace p c).cfg = s.cfg := rfl

/-! ### `enqueue` -/

@[simp] theorem State.enqueue_pending (s : State) (item : RetireItem) :
    (s.enqueue item).pending = s.pending := rfl
@[simp] theorem State.enqueue_resetInput (s : State) (item : RetireItem) :
    (s.enqueue item).resetInput = s.resetInput := rfl
@[simp] theorem State.enqueue_device (s : State) (item : RetireItem) :
    (s.enqueue item).device = s.device := rfl
@[simp] theorem State.enqueue_time (s : State) (item : RetireItem) :
    (s.enqueue item).time = s.time := rfl
@[simp] theorem State.enqueue_admission (s : State) (item : RetireItem) :
    (s.enqueue item).admission = s.admission := rfl
@[simp] theorem State.enqueue_lines (s : State) (item : RetireItem) :
    (s.enqueue item).lines = s.lines := rfl
@[simp] theorem State.enqueue_stations (s : State) (item : RetireItem) :
    (s.enqueue item).stations = s.stations := rfl
@[simp] theorem State.enqueue_entries (s : State) (item : RetireItem) :
    (s.enqueue item).entries = s.entries := rfl
@[simp] theorem State.enqueue_store (s : State) (item : RetireItem) :
    (s.enqueue item).store = s.store := rfl
@[simp] theorem State.enqueue_cplRing (s : State) (item : RetireItem) :
    (s.enqueue item).cplRing = s.cplRing := rfl
@[simp] theorem State.enqueue_ind (s : State) (item : RetireItem) :
    (s.enqueue item).ind = s.ind := rfl
@[simp] theorem State.enqueue_indRing (s : State) (item : RetireItem) :
    (s.enqueue item).indRing = s.indRing := rfl
@[simp] theorem State.enqueue_notify (s : State) (item : RetireItem) :
    (s.enqueue item).notify = s.notify := rfl
@[simp] theorem State.enqueue_busWrites (s : State) (item : RetireItem) :
    (s.enqueue item).busWrites = s.busWrites := rfl
@[simp] theorem State.enqueue_freeSeq (s : State) (item : RetireItem) :
    (s.enqueue item).freeSeq = s.freeSeq := rfl
@[simp] theorem State.enqueue_line (s : State) (item : RetireItem) (m : Line) :
    (s.enqueue item).line m = s.line m := rfl
@[simp] theorem State.enqueue_station (s : State) (item : RetireItem) (m : Line) (b : Station) :
    (s.enqueue item).station m b = s.station m b := rfl
@[simp] theorem State.enqueue_entry (s : State) (item : RetireItem) (j : EntryIx) :
    (s.enqueue item).entry j = s.entry j := rfl
@[simp] theorem State.enqueue_ringUnit (s : State) (item : RetireItem) (q : Ring) :
    (s.enqueue item).ringUnit q = s.ringUnit q := rfl
@[simp] theorem State.enqueue_cfg (s : State) (item : RetireItem) :
    (s.enqueue item).cfg = s.cfg := rfl

/-! ### `numbered` -/

@[simp] theorem State.numbered_pending (s : State) :
    (s.numbered).pending = s.pending := rfl
@[simp] theorem State.numbered_resetInput (s : State) :
    (s.numbered).resetInput = s.resetInput := rfl
@[simp] theorem State.numbered_device (s : State) :
    (s.numbered).device = s.device := rfl
@[simp] theorem State.numbered_time (s : State) :
    (s.numbered).time = s.time := rfl
@[simp] theorem State.numbered_lines (s : State) :
    (s.numbered).lines = s.lines := rfl
@[simp] theorem State.numbered_stations (s : State) :
    (s.numbered).stations = s.stations := rfl
@[simp] theorem State.numbered_entries (s : State) :
    (s.numbered).entries = s.entries := rfl
@[simp] theorem State.numbered_store (s : State) :
    (s.numbered).store = s.store := rfl
@[simp] theorem State.numbered_retire (s : State) :
    (s.numbered).retire = s.retire := rfl
@[simp] theorem State.numbered_cplRing (s : State) :
    (s.numbered).cplRing = s.cplRing := rfl
@[simp] theorem State.numbered_ind (s : State) :
    (s.numbered).ind = s.ind := rfl
@[simp] theorem State.numbered_indRing (s : State) :
    (s.numbered).indRing = s.indRing := rfl
@[simp] theorem State.numbered_notify (s : State) :
    (s.numbered).notify = s.notify := rfl
@[simp] theorem State.numbered_busWrites (s : State) :
    (s.numbered).busWrites = s.busWrites := rfl
@[simp] theorem State.numbered_freeSeq (s : State) :
    (s.numbered).freeSeq = s.freeSeq := rfl
@[simp] theorem State.numbered_line (s : State) (m : Line) :
    (s.numbered).line m = s.line m := rfl
@[simp] theorem State.numbered_station (s : State) (m : Line) (b : Station) :
    (s.numbered).station m b = s.station m b := rfl
@[simp] theorem State.numbered_entry (s : State) (j : EntryIx) :
    (s.numbered).entry j = s.entry j := rfl
@[simp] theorem State.numbered_cfg (s : State) :
    (s.numbered).cfg = s.cfg := rfl

/-! ### `applied` -/

@[simp] theorem State.applied_pending (s : State) (g : Grant) :
    (s.applied g).pending = s.pending := rfl
@[simp] theorem State.applied_resetInput (s : State) (g : Grant) :
    (s.applied g).resetInput = s.resetInput := rfl
@[simp] theorem State.applied_device (s : State) (g : Grant) :
    (s.applied g).device = s.device := rfl
@[simp] theorem State.applied_time (s : State) (g : Grant) :
    (s.applied g).time = s.time := rfl
@[simp] theorem State.applied_lines (s : State) (g : Grant) :
    (s.applied g).lines = s.lines := rfl
@[simp] theorem State.applied_stations (s : State) (g : Grant) :
    (s.applied g).stations = s.stations := rfl
@[simp] theorem State.applied_entries (s : State) (g : Grant) :
    (s.applied g).entries = s.entries := rfl
@[simp] theorem State.applied_store (s : State) (g : Grant) :
    (s.applied g).store = s.store := rfl
@[simp] theorem State.applied_retire (s : State) (g : Grant) :
    (s.applied g).retire = s.retire := rfl
@[simp] theorem State.applied_cplRing (s : State) (g : Grant) :
    (s.applied g).cplRing = s.cplRing := rfl
@[simp] theorem State.applied_ind (s : State) (g : Grant) :
    (s.applied g).ind = s.ind := rfl
@[simp] theorem State.applied_indRing (s : State) (g : Grant) :
    (s.applied g).indRing = s.indRing := rfl
@[simp] theorem State.applied_notify (s : State) (g : Grant) :
    (s.applied g).notify = s.notify := rfl
@[simp] theorem State.applied_busWrites (s : State) (g : Grant) :
    (s.applied g).busWrites = s.busWrites := rfl
@[simp] theorem State.applied_freeSeq (s : State) (g : Grant) :
    (s.applied g).freeSeq = s.freeSeq := rfl
@[simp] theorem State.applied_line (s : State) (g : Grant) (m : Line) :
    (s.applied g).line m = s.line m := rfl
@[simp] theorem State.applied_station (s : State) (g : Grant) (m : Line) (b : Station) :
    (s.applied g).station m b = s.station m b := rfl
@[simp] theorem State.applied_entry (s : State) (g : Grant) (j : EntryIx) :
    (s.applied g).entry j = s.entry j := rfl
@[simp] theorem State.applied_cfg (s : State) (g : Grant) :
    (s.applied g).cfg = s.cfg := rfl

/-! ### `beginRecord` -/

@[simp] theorem State.beginRecord_pending (s : State) (b : Bool) :
    (s.beginRecord b).pending = s.pending := rfl
@[simp] theorem State.beginRecord_resetInput (s : State) (b : Bool) :
    (s.beginRecord b).resetInput = s.resetInput := rfl
@[simp] theorem State.beginRecord_device (s : State) (b : Bool) :
    (s.beginRecord b).device = s.device := rfl
@[simp] theorem State.beginRecord_time (s : State) (b : Bool) :
    (s.beginRecord b).time = s.time := rfl
@[simp] theorem State.beginRecord_admission (s : State) (b : Bool) :
    (s.beginRecord b).admission = s.admission := rfl
@[simp] theorem State.beginRecord_lines (s : State) (b : Bool) :
    (s.beginRecord b).lines = s.lines := rfl
@[simp] theorem State.beginRecord_stations (s : State) (b : Bool) :
    (s.beginRecord b).stations = s.stations := rfl
@[simp] theorem State.beginRecord_entries (s : State) (b : Bool) :
    (s.beginRecord b).entries = s.entries := rfl
@[simp] theorem State.beginRecord_store (s : State) (b : Bool) :
    (s.beginRecord b).store = s.store := rfl
@[simp] theorem State.beginRecord_cplRing (s : State) (b : Bool) :
    (s.beginRecord b).cplRing = s.cplRing := rfl
@[simp] theorem State.beginRecord_ind (s : State) (b : Bool) :
    (s.beginRecord b).ind = s.ind := rfl
@[simp] theorem State.beginRecord_indRing (s : State) (b : Bool) :
    (s.beginRecord b).indRing = s.indRing := rfl
@[simp] theorem State.beginRecord_notify (s : State) (b : Bool) :
    (s.beginRecord b).notify = s.notify := rfl
@[simp] theorem State.beginRecord_busWrites (s : State) (b : Bool) :
    (s.beginRecord b).busWrites = s.busWrites := rfl
@[simp] theorem State.beginRecord_freeSeq (s : State) (b : Bool) :
    (s.beginRecord b).freeSeq = s.freeSeq := rfl
@[simp] theorem State.beginRecord_line (s : State) (b : Bool) (m : Line) :
    (s.beginRecord b).line m = s.line m := rfl
@[simp] theorem State.beginRecord_station (s : State) (b : Bool) (m : Line) (a : Station) :
    (s.beginRecord b).station m a = s.station m a := rfl
@[simp] theorem State.beginRecord_entry (s : State) (b : Bool) (j : EntryIx) :
    (s.beginRecord b).entry j = s.entry j := rfl
@[simp] theorem State.beginRecord_ringUnit (s : State) (b : Bool) (q : Ring) :
    (s.beginRecord b).ringUnit q = s.ringUnit q := rfl
@[simp] theorem State.beginRecord_cfg (s : State) (b : Bool) :
    (s.beginRecord b).cfg = s.cfg := rfl

/-! ### Reading back what an update wrote -/

theorem State.line_setLine (s : State) (l m : Line) (x : LineEngine) :
    (s.setLine l x).line m = if l = m then x else s.line m := Table.get_set _ _ _ _

@[simp] theorem State.line_setLine_self (s : State) (l : Line) (x : LineEngine) :
    (s.setLine l x).line l = x := Table.get_set_self _ _ _

theorem State.line_modLine (s : State) (l m : Line) (f : LineEngine → LineEngine) :
    (s.modLine l f).line m = if l = m then f (s.line l) else s.line m := Table.get_set _ _ _ _

@[simp] theorem State.line_modLine_self (s : State) (l : Line) (f : LineEngine → LineEngine) :
    (s.modLine l f).line l = f (s.line l) := Table.get_set_self _ _ _

theorem State.entry_setEntry (s : State) (i j : EntryIx) (e : Entry) :
    (s.setEntry i e).entry j = if i = j then e else s.entry j := Table.get_set _ _ _ _

@[simp] theorem State.entry_setEntry_self (s : State) (i : EntryIx) (e : Entry) :
    (s.setEntry i e).entry i = e := Table.get_set_self _ _ _

theorem State.entry_modEntry (s : State) (i j : EntryIx) (f : Entry → Entry) :
    (s.modEntry i f).entry j = if i = j then f (s.entry i) else s.entry j := Table.get_set _ _ _ _

@[simp] theorem State.entry_modEntry_self (s : State) (i : EntryIx) (f : Entry → Entry) :
    (s.modEntry i f).entry i = f (s.entry i) := Table.get_set_self _ _ _

theorem State.station_setStation (s : State) (l m : Line) (a b : Station) (r : StationRecord) :
    (s.setStation l a r).station m b = if l = m ∧ a = b then r else s.station m b := by
  by_cases h : l = m
  · subst h
    simp [State.station, State.setStation, Table.get_set]
  · simp [State.station, State.setStation, Table.get_set_ne _ _ h, h]

@[simp] theorem State.station_setStation_self (s : State) (l : Line) (a : Station)
    (r : StationRecord) : (s.setStation l a r).station l a = r := by
  simp [State.station_setStation]

theorem State.station_modStation (s : State) (l m : Line) (a b : Station)
    (f : StationRecord → StationRecord) :
    (s.modStation l a f).station m b =
      if l = m ∧ a = b then f (s.station l a) else s.station m b :=
  State.station_setStation s l m a b _

@[simp] theorem State.station_modStation_self (s : State) (l : Line) (a : Station)
    (f : StationRecord → StationRecord) : (s.modStation l a f).station l a = f (s.station l a) := by
  simp [State.station_modStation]

theorem State.station_mapStations (s : State) (l m : Line) (b : Station)
    (f : StationRecord → StationRecord) :
    (s.mapStations l f).station m b = if l = m then f (s.station m b) else s.station m b := by
  by_cases h : l = m
  · subst h
    simp [State.station, State.mapStations]
  · simp [State.station, State.mapStations, Table.get_set_ne _ _ h, h]

theorem State.ringUnit_modRing (s : State) (r q : Ring) (f : RingUnit → RingUnit) :
    (s.modRing r f).ringUnit q = if r = q then f (s.ringUnit r) else s.ringUnit q := by
  cases r <;> cases q <;> rfl

@[simp] theorem State.ringUnit_modRing_self (s : State) (r : Ring) (f : RingUnit → RingUnit) :
    (s.modRing r f).ringUnit r = f (s.ringUnit r) := by cases r <;> rfl

@[simp] theorem State.ringUnit_modRing_other (s : State) (r : Ring) (f : RingUnit → RingUnit) :
    (s.modRing r f).ringUnit (otherRing r) = s.ringUnit (otherRing r) := by cases r <;> rfl

@[simp] theorem State.modRing_counter (s : State) (r : Ring) (f : RingUnit → RingUnit) :
    (s.modRing r f).admission.counter = s.admission.counter := by cases r <;> rfl

@[simp] theorem State.modRing_credit (s : State) (r : Ring) (f : RingUnit → RingUnit) :
    (s.modRing r f).admission.credit = s.admission.credit := by cases r <;> rfl

@[simp] theorem State.modRing_stage (s : State) (r : Ring) (f : RingUnit → RingUnit) :
    (s.modRing r f).admission.stage = s.admission.stage := by cases r <;> rfl

@[simp] theorem State.modRing_places (s : State) (r : Ring) (f : RingUnit → RingUnit) :
    (s.modRing r f).admission.places = s.admission.places := by cases r <;> rfl

@[simp] theorem State.modRing_asked (s : State) (r : Ring) (f : RingUnit → RingUnit) :
    (s.modRing r f).admission.asked
      = orderAsked r (s.ringUnit r) (f (s.ringUnit r)) s.admission.asked := by cases r <;> rfl

/-- A unit that begins and ends no access leaves the order of the accesses as it was. -/
theorem orderAsked_same {r : Ring} {u v : RingUnit} (asked : List AdmissionAccess)
    (hs : v.shadow = u.shadow) (hr : v.hold.read r = u.hold.read r) :
    orderAsked r u v asked = asked := by
  have e : u.shadow.ends u.shadow = false ∧ u.shadow.begins u.shadow = false := by
    cases u.shadow <;> exact ⟨rfl, rfl⟩
  simp [orderAsked, hs, hr, e.1, e.2]

@[simp] theorem State.setPlace_ringUnit (s : State) (p : PlaceIx) (c : Option Immediate) (q : Ring) :
    (s.setPlace p c).ringUnit q = s.ringUnit q := by cases q <;> rfl

@[simp] theorem State.enqueue_queue (s : State) (item : RetireItem) :
    (s.enqueue item).retire.queue = s.retire.queue ++ [{ item := item, stamp := s.time.now }] := rfl

/-- A command taken only in RUNNING changes nothing in any other state (R160, R167). -/
theorem State.whenRunning_of_ne {s t : State} (h : s.device.state ≠ .running) :
    s.whenRunning t = s := by simp [State.whenRunning, h]

@[simp] theorem State.whenRunning_of_eq {s t : State} (h : s.device.state = .running) :
    s.whenRunning t = t := by simp [State.whenRunning, h]

end Sys2Proof.Machine
end

