-- ==== Sys2Proof/Laws/Wake.lean ====
section
/-! SUPPORT. What the part begins of itself after a command: a grant of the application stage, a posting,
an indication write (R129, R147, R153). -/

namespace Sys2Proof.Machine

@[simp] theorem State.grantStage_pending (s : State) : s.grantStage.pending = s.pending := by
  unfold State.grantStage; split <;> (try split) <;> rfl

@[simp] theorem State.grantStage_resetInput (s : State) : s.grantStage.resetInput = s.resetInput := by
  unfold State.grantStage; split <;> (try split) <;> rfl

@[simp] theorem State.grantStage_device (s : State) : s.grantStage.device = s.device := by
  unfold State.grantStage; split <;> (try split) <;> rfl

@[simp] theorem State.grantStage_time (s : State) : s.grantStage.time = s.time := by
  unfold State.grantStage; split <;> (try split) <;> rfl

@[simp] theorem State.grantStage_lines (s : State) : s.grantStage.lines = s.lines := by
  unfold State.grantStage; split <;> (try split) <;> rfl

@[simp] theorem State.grantStage_stations (s : State) : s.grantStage.stations = s.stations := by
  unfold State.grantStage; split <;> (try split) <;> rfl

@[simp] theorem State.grantStage_entries (s : State) : s.grantStage.entries = s.entries := by
  unfold State.grantStage; split <;> (try split) <;> rfl

@[simp] theorem State.grantStage_store (s : State) : s.grantStage.store = s.store := by
  unfold State.grantStage; split <;> (try split) <;> rfl

@[simp] theorem State.grantStage_retire (s : State) : s.grantStage.retire = s.retire := by
  unfold State.grantStage; split <;> (try split) <;> rfl

@[simp] theorem State.grantStage_cplRing (s : State) : s.grantStage.cplRing = s.cplRing := by
  unfold State.grantStage; split <;> (try split) <;> rfl

@[simp] theorem State.grantStage_ind (s : State) : s.grantStage.ind = s.ind := by
  unfold State.grantStage; split <;> (try split) <;> rfl

@[simp] theorem State.grantStage_indRing (s : State) : s.grantStage.indRing = s.indRing := by
  unfold State.grantStage; split <;> (try split) <;> rfl

@[simp] theorem State.grantStage_notify (s : State) : s.grantStage.notify = s.notify := by
  unfold State.grantStage; split <;> (try split) <;> rfl

@[simp] theorem State.grantStage_busWrites (s : State) : s.grantStage.busWrites = s.busWrites := by
  unfold State.grantStage; split <;> (try split) <;> rfl

@[simp] theorem State.grantStage_freeSeq (s : State) : s.grantStage.freeSeq = s.freeSeq := by
  unfold State.grantStage; split <;> (try split) <;> rfl

@[simp] theorem State.beginPosting_pending (s : State) : s.beginPosting.pending = s.pending := by
  unfold State.beginPosting; split <;> (try split) <;> rfl

@[simp] theorem State.beginPosting_resetInput (s : State) : s.beginPosting.resetInput = s.resetInput := by
  unfold State.beginPosting; split <;> (try split) <;> rfl

@[simp] theorem State.beginPosting_device (s : State) : s.beginPosting.device = s.device := by
  unfold State.beginPosting; split <;> (try split) <;> rfl

@[simp] theorem State.beginPosting_time (s : State) : s.beginPosting.time = s.time := by
  unfold State.beginPosting; split <;> (try split) <;> rfl

@[simp] theorem State.beginPosting_admission (s : State) : s.beginPosting.admission = s.admission := by
  unfold State.beginPosting; split <;> (try split) <;> rfl

@[simp] theorem State.beginPosting_lines (s : State) : s.beginPosting.lines = s.lines := by
  unfold State.beginPosting; split <;> (try split) <;> rfl

@[simp] theorem State.beginPosting_stations (s : State) : s.beginPosting.stations = s.stations := by
  unfold State.beginPosting; split <;> (try split) <;> rfl

@[simp] theorem State.beginPosting_entries (s : State) : s.beginPosting.entries = s.entries := by
  unfold State.beginPosting; split <;> (try split) <;> rfl

@[simp] theorem State.beginPosting_store (s : State) : s.beginPosting.store = s.store := by
  unfold State.beginPosting; split <;> (try split) <;> rfl

@[simp] theorem State.beginPosting_cplRing (s : State) : s.beginPosting.cplRing = s.cplRing := by
  unfold State.beginPosting; split <;> (try split) <;> rfl

@[simp] theorem State.beginPosting_ind (s : State) : s.beginPosting.ind = s.ind := by
  unfold State.beginPosting; split <;> (try split) <;> rfl

@[simp] theorem State.beginPosting_indRing (s : State) : s.beginPosting.indRing = s.indRing := by
  unfold State.beginPosting; split <;> (try split) <;> rfl

@[simp] theorem State.beginPosting_notify (s : State) : s.beginPosting.notify = s.notify := by
  unfold State.beginPosting; split <;> (try split) <;> rfl

@[simp] theorem State.beginPosting_busWrites (s : State) : s.beginPosting.busWrites = s.busWrites := by
  unfold State.beginPosting; split <;> (try split) <;> rfl

@[simp] theorem State.beginPosting_freeSeq (s : State) : s.beginPosting.freeSeq = s.freeSeq := by
  unfold State.beginPosting; split <;> (try split) <;> rfl

@[simp] theorem State.beginIndication_pending (s : State) : s.beginIndication.pending = s.pending := by
  unfold State.beginIndication; split <;> (try split) <;> rfl

@[simp] theorem State.beginIndication_resetInput (s : State) : s.beginIndication.resetInput = s.resetInput := by
  unfold State.beginIndication; split <;> (try split) <;> rfl

@[simp] theorem State.beginIndication_device (s : State) : s.beginIndication.device = s.device := by
  unfold State.beginIndication; split <;> (try split) <;> rfl

@[simp] theorem State.beginIndication_time (s : State) : s.beginIndication.time = s.time := by
  unfold State.beginIndication; split <;> (try split) <;> rfl

@[simp] theorem State.beginIndication_admission (s : State) : s.beginIndication.admission = s.admission := by
  unfold State.beginIndication; split <;> (try split) <;> rfl

@[simp] theorem State.beginIndication_lines (s : State) : s.beginIndication.lines = s.lines := by
  unfold State.beginIndication; split <;> (try split) <;> rfl

@[simp] theorem State.beginIndication_stations (s : State) : s.beginIndication.stations = s.stations := by
  unfold State.beginIndication; split <;> (try split) <;> rfl

@[simp] theorem State.beginIndication_entries (s : State) : s.beginIndication.entries = s.entries := by
  unfold State.beginIndication; split <;> (try split) <;> rfl

@[simp] theorem State.beginIndication_store (s : State) : s.beginIndication.store = s.store := by
  unfold State.beginIndication; split <;> (try split) <;> rfl

@[simp] theorem State.beginIndication_retire (s : State) : s.beginIndication.retire = s.retire := by
  unfold State.beginIndication; split <;> (try split) <;> rfl

@[simp] theorem State.beginIndication_cplRing (s : State) : s.beginIndication.cplRing = s.cplRing := by
  unfold State.beginIndication; split <;> (try split) <;> rfl

@[simp] theorem State.beginIndication_indRing (s : State) : s.beginIndication.indRing = s.indRing := by
  unfold State.beginIndication; split <;> (try split) <;> rfl

@[simp] theorem State.beginIndication_notify (s : State) : s.beginIndication.notify = s.notify := by
  unfold State.beginIndication; split <;> (try split) <;> rfl

@[simp] theorem State.beginIndication_busWrites (s : State) : s.beginIndication.busWrites = s.busWrites := by
  unfold State.beginIndication; split <;> (try split) <;> rfl

@[simp] theorem State.beginIndication_freeSeq (s : State) : s.beginIndication.freeSeq = s.freeSeq := by
  unfold State.beginIndication; split <;> (try split) <;> rfl

@[simp] theorem State.wake_pending (s : State) : s.wake.pending = s.pending := by
  simp [State.wake]

@[simp] theorem State.wake_resetInput (s : State) : s.wake.resetInput = s.resetInput := by
  simp [State.wake]

@[simp] theorem State.wake_device (s : State) : s.wake.device = s.device := by
  simp [State.wake]

@[simp] theorem State.wake_time (s : State) : s.wake.time = s.time := by
  simp [State.wake]

@[simp] theorem State.wake_lines (s : State) : s.wake.lines = s.lines := by
  simp [State.wake]

@[simp] theorem State.wake_stations (s : State) : s.wake.stations = s.stations := by
  simp [State.wake]

@[simp] theorem State.wake_entries (s : State) : s.wake.entries = s.entries := by
  simp [State.wake]

@[simp] theorem State.wake_store (s : State) : s.wake.store = s.store := by
  simp [State.wake]

@[simp] theorem State.wake_cplRing (s : State) : s.wake.cplRing = s.cplRing := by
  simp [State.wake]

@[simp] theorem State.wake_indRing (s : State) : s.wake.indRing = s.indRing := by
  simp [State.wake]

@[simp] theorem State.wake_notify (s : State) : s.wake.notify = s.notify := by
  simp [State.wake]

@[simp] theorem State.wake_busWrites (s : State) : s.wake.busWrites = s.busWrites := by
  simp [State.wake]

@[simp] theorem State.wake_freeSeq (s : State) : s.wake.freeSeq = s.freeSeq := by
  simp [State.wake]

/-! ### The grant of the stage -/

@[simp] theorem State.grantStage_ringUnit (s : State) (r : Ring) :
    s.grantStage.ringUnit r = s.ringUnit r := by
  unfold State.grantStage; split <;> (try split) <;> (cases r <;> rfl)

@[simp] theorem State.grantStage_places (s : State) :
    s.grantStage.admission.places = s.admission.places := by
  unfold State.grantStage; split <;> (try split) <;> rfl

@[simp] theorem State.grantStage_credit (s : State) :
    s.grantStage.admission.credit = s.admission.credit := by
  unfold State.grantStage; split <;> (try split) <;> rfl

@[simp] theorem State.grantStage_counter (s : State) :
    s.grantStage.admission.counter = s.admission.counter := by
  unfold State.grantStage; split <;> (try split) <;> rfl

theorem State.grantStage_stage (s : State) (h : s.device.state = .running) :
    s.grantStage.admission.stage =
      match s.admission.stage with
      | some g => some g
      | none => (ringChoice (s.isReady .h) (s.isReady .l) s.admission.credit).map fun r =>
          { ring := r, lowReady := s.isReady .l } := by
  unfold State.grantStage
  cases hs : s.admission.stage with
  | some g => simp [hs]
  | none =>
    simp only [h, and_self, if_true]
    cases ringChoice (s.isReady .h) (s.isReady .l) s.admission.credit <;> simp [hs]

/-! ### The beginning of a posting and of an indication write -/

@[simp] theorem State.beginPosting_queue (s : State) :
    s.beginPosting.retire.queue = s.retire.queue := by
  unfold State.beginPosting; split <;> (try split) <;> rfl

/-- A posting begins only when the completion ring has room. -/
theorem State.beginPosting_room (s : State) (h : s.beginPosting.retire.posting ≠ s.retire.posting) :
    s.device.state = .running ∧ s.hasRoom .completion = true := by
  unfold State.beginPosting at h
  split at h
  · next hc => simp at hc; exact ⟨hc.1.1, hc.2⟩
  · exact absurd rfl h

/-- An indication write begins only when the indication ring has room. -/
theorem State.beginIndication_room (s : State) (h : s.beginIndication.ind.writing ≠ s.ind.writing) :
    s.device.state = .running ∧ s.hasRoom .indication = true := by
  unfold State.beginIndication at h
  split at h
  · next hc => simp at hc; exact ⟨hc.1.1, hc.2⟩
  · exact absurd rfl h

/-- What `beginIndication` does depends on the Indication Unit, its ring and the device alone. -/
theorem State.beginIndication_congr {s t : State} (hi : t.ind = s.ind) (hd : t.device = s.device)
    (hr : t.indRing = s.indRing) : t.beginIndication.ind = s.beginIndication.ind := by
  unfold State.beginIndication State.hasRoom State.unseen State.writtenRing State.cfg
  simp only [hi, hd, hr]
  split
  · split
    · exact hi
    · rfl
  · exact hi

/-! ### An indication given -/

@[simp] theorem State.takeIndication_pending (s : State) (x : Indication) :
    (s.takeIndication x).pending = s.pending := by unfold State.takeIndication; split <;> simp
@[simp] theorem State.takeIndication_resetInput (s : State) (x : Indication) :
    (s.takeIndication x).resetInput = s.resetInput := by unfold State.takeIndication; split <;> simp
@[simp] theorem State.takeIndication_device (s : State) (x : Indication) :
    (s.takeIndication x).device = s.device := by unfold State.takeIndication; split <;> simp
@[simp] theorem State.takeIndication_time (s : State) (x : Indication) :
    (s.takeIndication x).time = s.time := by unfold State.takeIndication; split <;> simp
@[simp] theorem State.takeIndication_admission (s : State) (x : Indication) :
    (s.takeIndication x).admission = s.admission := by unfold State.takeIndication; split <;> simp
@[simp] theorem State.takeIndication_lines (s : State) (x : Indication) :
    (s.takeIndication x).lines = s.lines := by unfold State.takeIndication; split <;> simp
@[simp] theorem State.takeIndication_stations (s : State) (x : Indication) :
    (s.takeIndication x).stations = s.stations := by unfold State.takeIndication; split <;> simp
@[simp] theorem State.takeIndication_entries (s : State) (x : Indication) :
    (s.takeIndication x).entries = s.entries := by unfold State.takeIndication; split <;> simp
@[simp] theorem State.takeIndication_store (s : State) (x : Indication) :
    (s.takeIndication x).store = s.store := by unfold State.takeIndication; split <;> simp
@[simp] theorem State.takeIndication_retire (s : State) (x : Indication) :
    (s.takeIndication x).retire = s.retire := by unfold State.takeIndication; split <;> simp
@[simp] theorem State.takeIndication_cplRing (s : State) (x : Indication) :
    (s.takeIndication x).cplRing = s.cplRing := by unfold State.takeIndication; split <;> simp
@[simp] theorem State.takeIndication_indRing (s : State) (x : Indication) :
    (s.takeIndication x).indRing = s.indRing := by unfold State.takeIndication; split <;> simp
@[simp] theorem State.takeIndication_notify (s : State) (x : Indication) :
    (s.takeIndication x).notify = s.notify := by unfold State.takeIndication; split <;> simp
@[simp] theorem State.takeIndication_busWrites (s : State) (x : Indication) :
    (s.takeIndication x).busWrites = s.busWrites := by unfold State.takeIndication; split <;> simp
@[simp] theorem State.takeIndication_freeSeq (s : State) (x : Indication) :
    (s.takeIndication x).freeSeq = s.freeSeq := by unfold State.takeIndication; split <;> simp
@[simp] theorem State.indicate_pending (s : State) (l : Line) (b : IndicationBody) :
    (s.indicate l b).pending = s.pending := by simp [State.indicate]
@[simp] theorem State.indicate_resetInput (s : State) (l : Line) (b : IndicationBody) :
    (s.indicate l b).resetInput = s.resetInput := by simp [State.indicate]
@[simp] theorem State.indicate_device (s : State) (l : Line) (b : IndicationBody) :
    (s.indicate l b).device = s.device := by simp [State.indicate]
@[simp] theorem State.indicate_time (s : State) (l : Line) (b : IndicationBody) :
    (s.indicate l b).time = s.time := by simp [State.indicate]
@[simp] theorem State.indicate_admission (s : State) (l : Line) (b : IndicationBody) :
    (s.indicate l b).admission = s.admission := by simp [State.indicate]
@[simp] theorem State.indicate_lines (s : State) (l : Line) (b : IndicationBody) :
    (s.indicate l b).lines = s.lines := by simp [State.indicate]
@[simp] theorem State.indicate_stations (s : State) (l : Line) (b : IndicationBody) :
    (s.indicate l b).stations = s.stations := by simp [State.indicate]
@[simp] theorem State.indicate_entries (s : State) (l : Line) (b : IndicationBody) :
    (s.indicate l b).entries = s.entries := by simp [State.indicate]
@[simp] theorem State.indicate_store (s : State) (l : Line) (b : IndicationBody) :
    (s.indicate l b).store = s.store := by simp [State.indicate]
@[simp] theorem State.indicate_retire (s : State) (l : Line) (b : IndicationBody) :
    (s.indicate l b).retire = s.retire := by simp [State.indicate]
@[simp] theorem State.indicate_cplRing (s : State) (l : Line) (b : IndicationBody) :
    (s.indicate l b).cplRing = s.cplRing := by simp [State.indicate]
@[simp] theorem State.indicate_indRing (s : State) (l : Line) (b : IndicationBody) :
    (s.indicate l b).indRing = s.indRing := by simp [State.indicate]
@[simp] theorem State.indicate_notify (s : State) (l : Line) (b : IndicationBody) :
    (s.indicate l b).notify = s.notify := by simp [State.indicate]
@[simp] theorem State.indicate_busWrites (s : State) (l : Line) (b : IndicationBody) :
    (s.indicate l b).busWrites = s.busWrites := by simp [State.indicate]
@[simp] theorem State.indicate_freeSeq (s : State) (l : Line) (b : IndicationBody) :
    (s.indicate l b).freeSeq = s.freeSeq := by simp [State.indicate]
@[simp] theorem State.indicate_line (s : State) (l : Line) (b : IndicationBody) (m : Line) :
    (s.indicate l b).line m = s.line m := by simp [State.line]
@[simp] theorem State.indicate_station (s : State) (l : Line) (b : IndicationBody) (m : Line) (a : Station) :
    (s.indicate l b).station m a = s.station m a := by simp [State.station]
@[simp] theorem State.indicate_entry (s : State) (l : Line) (b : IndicationBody) (i : EntryIx) :
    (s.indicate l b).entry i = s.entry i := by simp [State.entry]
@[simp] theorem State.indicate_ringUnit (s : State) (l : Line) (b : IndicationBody) (r : Ring) :
    (s.indicate l b).ringUnit r = s.ringUnit r := by simp [State.ringUnit]

/-- Beginning a write reaches the Indication Unit alone (R153). -/
theorem State.beginIndication_eq (s : State) :
    s.beginIndication = { s with ind := s.beginIndication.ind } := by
  unfold State.beginIndication
  split
  · split <;> rfl
  · rfl

theorem State.takeIndication_eq (s : State) (x : Indication) :
    s.takeIndication x = { s with ind := (s.takeIndication x).ind } := by
  unfold State.takeIndication
  split
  · exact State.beginIndication_eq _
  · rfl

/-- Giving an indication reaches the Indication Unit alone (R152, R153). -/
theorem State.indicate_eq (s : State) (l : Line) (b : IndicationBody) :
    s.indicate l b = { s with ind := (s.indicate l b).ind } := by
  unfold State.indicate
  generalize ({ line := l, stamp := s.time.now, lost := 0, body := b } : Indication) = x
  rw [State.takeIndication_eq]
  have e := State.beginIndication_eq s
  generalize (s.beginIndication.takeIndication x).ind = i
  generalize s.beginIndication.ind = j at e
  rw [e]

/-- Beginning a write keeps how many records wait, and the lost count in its range (R152, R153). -/
theorem State.beginIndication_bounds (s : State) :
    s.beginIndication.ind.queue.length = s.ind.queue.length
      ∧ (s.ind.lost ≤ 65535 → s.beginIndication.ind.lost ≤ 65535) := by
  unfold State.beginIndication
  split
  · split
    · exact ⟨rfl, id⟩
    · next h => exact ⟨by simp [h], fun _ => Nat.zero_le _⟩
  · exact ⟨rfl, id⟩

/-- An indication given begins a write only when the indication ring has room. -/
theorem State.indicate_room (s : State) (l : Line) (b : IndicationBody)
    (h : (s.indicate l b).ind.writing ≠ s.ind.writing) :
    s.device.state = .running ∧ s.hasRoom .indication = true := by
  by_cases e : s.beginIndication.ind.writing = s.ind.writing
  · unfold State.indicate State.takeIndication at h
    split at h
    · have hr := State.beginIndication_room
        { s.beginIndication with ind := { s.beginIndication.ind with
            queue := s.beginIndication.ind.queue
              ++ [{ line := l, stamp := s.time.now, lost := 0, body := b }] } } (by rw [e]; exact h)
      have hd : s.beginIndication.hasRoom .indication = s.hasRoom .indication := by
        unfold State.hasRoom State.unseen State.writtenRing State.cfg
        rw [State.beginIndication_device, State.beginIndication_indRing]
      exact ⟨by simpa using hr.1, hd.symm.trans hr.2⟩
    · exact absurd e h
  · exact State.beginIndication_room s e

/-! ### All three -/

@[simp] theorem State.wake_queue (s : State) : s.wake.retire.queue = s.retire.queue := by
  simp [State.wake]

@[simp] theorem State.wake_ringUnit (s : State) (r : Ring) : s.wake.ringUnit r = s.ringUnit r := by
  rw [State.ringUnit, State.wake, State.beginIndication_admission, State.beginPosting_admission]
  exact State.grantStage_ringUnit s r

@[simp] theorem State.wake_places (s : State) : s.wake.admission.places = s.admission.places := by
  simp [State.wake]

@[simp] theorem State.wake_credit (s : State) : s.wake.admission.credit = s.admission.credit := by
  simp [State.wake]

@[simp] theorem State.wake_counter (s : State) : s.wake.admission.counter = s.admission.counter := by
  simp [State.wake]

@[simp] theorem State.wake_line (s : State) (l : Line) : s.wake.line l = s.line l := by
  simp [State.line]

@[simp] theorem State.wake_station (s : State) (l : Line) (a : Station) :
    s.wake.station l a = s.station l a := by simp [State.station]

@[simp] theorem State.wake_entry (s : State) (i : EntryIx) : s.wake.entry i = s.entry i := by
  simp [State.entry]

@[simp] theorem State.grantStage_asked (s : State) :
    s.grantStage.admission.asked = s.admission.asked := by
  unfold State.grantStage; split <;> (try split) <;> rfl

@[simp] theorem State.wake_asked (s : State) : s.wake.admission.asked = s.admission.asked := by
  simp [State.wake]

theorem State.wake_stage (s : State) (h : s.device.state = .running) :
    s.wake.admission.stage =
      match s.admission.stage with
      | some g => some g
      | none => (ringChoice (s.isReady .h) (s.isReady .l) s.admission.credit).map fun r =>
          { ring := r, lowReady := s.isReady .l } := by
  rw [State.wake, State.beginIndication_admission, State.beginPosting_admission,
    State.grantStage_stage s h]

theorem State.wake_stage_some (s : State) (g : Grant) (h : s.admission.stage = some g) :
    s.wake.admission.stage = some g := by
  rw [State.wake, State.beginIndication_admission, State.beginPosting_admission]
  simp [State.grantStage, h]

@[simp] theorem State.wake_ind (s : State) : s.wake.ind = s.beginIndication.ind := by
  rw [State.wake]
  exact State.beginIndication_congr (by simp) (by simp) (by simp)

/-! ### Leaving the hold -/

@[simp] theorem RingUnit.beginFetch_head (u : RingUnit) : u.beginFetch.head = u.head := by
  unfold RingUnit.beginFetch; split <;> rfl

@[simp] theorem RingUnit.beginFetch_tail (u : RingUnit) : u.beginFetch.tail = u.tail := by
  unfold RingUnit.beginFetch; split <;> rfl

@[simp] theorem RingUnit.leave_head (u : RingUnit) : u.leave.head = u.head + 1 := by
  simp [RingUnit.leave]

@[simp] theorem RingUnit.leave_tail (u : RingUnit) : u.leave.tail = u.tail := by
  simp [RingUnit.leave]

/-- The hold is EMPTY, or fetches the next record, when a record has left it (R128). -/
theorem RingUnit.leave_hold (u : RingUnit) :
    u.leave.hold.state = if u.tail = u.head + 1 then .empty else .fetching := by
  unfold RingUnit.leave RingUnit.beginFetch
  split
  · next h => rw [if_neg h.2]
  · next h =>
    have h2 : u.tail = u.head + 1 := by
      by_contra hn
      exact h ⟨rfl, hn⟩
    rw [if_pos h2]; rfl

/-- The read in flight when a record has left its hold: the fetch of the next, if there is one (R128). -/
theorem RingUnit.leave_read (u : RingUnit) (r : Ring) :
    u.leave.hold.read r = if u.tail = u.head + 1 then none else some (.fetch r) := by
  rw [Hold.read, RingUnit.leave_hold]
  by_cases e : u.tail = u.head + 1
  · rw [if_pos e, if_pos e]
  · rw [if_neg e, if_neg e]

theorem RingUnit.leave_shadow (u : RingUnit) :
    u.leave.shadow = u.shadow.advance (u.head + 1) := by
  unfold RingUnit.leave RingUnit.beginFetch
  split <;> rfl

/-- What a record that leaves its hold does to the order of accesses: a load in flight leaves it; the shadow
write joins, unless one is in flight, and the next fetch, if there is a next record (R128). -/
theorem orderAsked_leave (r : Ring) (u : RingUnit) (asked : List AdmissionAccess)
    (h : u.hold.read r ≠ some (.fetch r)) :
    orderAsked r u u.leave asked = (asked.filter fun a => !(u.hold.read r == some a))
      ++ ((if u.shadow = .idle then [.shadow r] else [])
        ++ (if u.tail = u.head + 1 then [] else [.fetch r])) := by
  unfold orderAsked
  rw [RingUnit.leave_shadow, RingUnit.leave_read]
  by_cases e : u.tail = u.head + 1
  · simp only [if_pos e]
    cases hr : u.hold.read r with
    | none => cases u.shadow <;> simp [ShadowState.advance, ShadowState.begins, ShadowState.ends]
    | some x =>
      have hn : (none != some x) = true := rfl
      rw [hn]
      cases u.shadow <;> simp [ShadowState.advance, ShadowState.begins, ShadowState.ends]
  · simp only [if_neg e]
    have hn : (some (AdmissionAccess.fetch r) != u.hold.read r) = true := by
      simpa using fun e => h e.symm
    rw [hn]
    cases u.shadow <;> simp [ShadowState.advance, ShadowState.begins, ShadowState.ends]

/-- The same for a hold that is READY. -/
theorem orderAsked_leave_ready (r : Ring) (u : RingUnit) (asked : List AdmissionAccess)
    (h : u.hold.read r = none) :
    orderAsked r u u.leave asked = asked ++ ((if u.shadow = .idle then [.shadow r] else [])
      ++ (if u.tail = u.head + 1 then [] else [.fetch r])) := by
  rw [orderAsked_leave r u asked (by rw [h]; simp), h]
  simp

/-- The same at the end of a load. -/
theorem orderAsked_leave_load (r : Ring) (u : RingUnit) (asked : List AdmissionAccess)
    (h : u.hold.read r = some (.load r)) :
    orderAsked r u u.leave asked = asked.filter (· != .load r)
      ++ ((if u.shadow = .idle then [.shadow r] else [])
        ++ (if u.tail = u.head + 1 then [] else [.fetch r])) := by
  rw [orderAsked_leave r u asked (by rw [h]; simp), h]
  have hf : (fun a : AdmissionAccess => !(some (AdmissionAccess.load r) == some a))
      = fun a => a != .load r := by
    funext a
    simp [bne, Bool.beq_comm]
  rw [hf]

/-! ### The end of a record's stay in its hold -/

theorem State.applyAndLeave_eq (s : State) (g : Grant) :
    s.applyAndLeave g = ((s.numbered.applied g).leaveHold g.ring) := rfl

@[simp] theorem State.leaveHold_retire (s : State) (r : Ring) :
    (s.leaveHold r).retire = s.retire := rfl

end Sys2Proof.Machine
end

