-- ==== Sys2Proof/Laws/Keeps.lean ====
section
/-! SUPPORT. What every operation of a line's work leaves alone: one lemma per shared operation, from the
indication up to the ending of an exchange and the evaluation of the arbiter. -/

namespace Sys2Proof.Machine

/-! ### The relation -/

/-- What stays with an entry from its allocation to its freeing: an entry with everything its work
changes taken out. -/
def Entry.identity (e : Entry) : Entry :=
  { e with
    state := .free, attemptsUsed := 0, collectAttemptsUsed := 0, collectsUsed := 0,
    deadlineTimer := .stopped, phaseTimer := .stopped, dueTime := none, token := none,
    everSent := false, unansweredAttempt := false, abortPending := false, deadlinePassed := false,
    wasDeferred := false, lastEnding := .none, replyTrueLength := none, waitsFor := [],
    notOkCount := 0, final := none }

/-- The record of address 31 is as R74 fixes it, but for its FIFO. -/
def StationRecord.isBroadcast (r : StationRecord) : Prop :=
  r = { StationRecord.broadcast with fifo := r.fifo }

/-- The counts of a line engine lie in their ranges (R50, R54). -/
def LineEngine.inBounds (ln : LineEngine) : Prop := ln.errors ≤ 65535 ∧ ln.credit ≤ 8

/-- The Indication Unit's queue and count lie in their ranges (R152). -/
def IndicationUnit.inBounds (u : IndicationUnit) : Prop := u.queue.length ≤ 8 ∧ u.lost ≤ 65535

/-- Work of line `l` leads from `s` to `t`: the host's side, the other lines, the allocation of entries
and segments and the order of the retire queue are as they were, and every range is kept. -/
structure Keeps (l : Line) (s t : State) : Prop where
  pending : t.pending = s.pending
  resetInput : t.resetInput = s.resetInput
  device : t.device = s.device
  time : t.time = s.time
  cplRing : t.cplRing = s.cplRing
  indRing : t.indRing = s.indRing
  notify : t.notify = s.notify
  busWrites : t.busWrites = s.busWrites
  freeSeq : t.freeSeq = s.freeSeq
  unit : ∀ r, t.ringUnit r = s.ringUnit r
  stage : t.admission.stage = s.admission.stage
  credit : t.admission.credit = s.admission.credit
  counter : t.admission.counter = s.admission.counter
  asked : t.admission.asked = s.admission.asked
  freeQueue : t.store.freeQueue = s.store.freeQueue
  memory : s.store.bytes.wf = true → t.store.bytes.wf = true
  posting : t.retire.posting = s.retire.posting
  queue : s.retire.queue <+: t.retire.queue
  writing : t.ind.writing ≠ s.ind.writing → s.device.state = .running ∧ s.hasRoom .indication = true
  indications : s.ind.inBounds → t.ind.inBounds
  otherLines : ∀ m, m ≠ l → t.line m = s.line m
  params : (t.line l).params = (s.line l).params
  bounds : (s.line l).inBounds → (t.line l).inBounds
  identity : ∀ i, (t.entry i).identity = (s.entry i).identity
  occupied : ∀ i, (t.entry i).state = .free ↔ (s.entry i).state = .free
  fences : ∀ i, (t.entry i).state = .fenceWait → (s.entry i).state = .fenceWait
  broadcast : ∀ m, (s.station m broadcastStation).isBroadcast → (t.station m broadcastStation).isBroadcast

theorem Keeps.refl (l : Line) (s : State) : Keeps l s s := by
  constructor <;> try simp

theorem Keeps.trans {l : Line} {s t u : State} (h : Keeps l s t) (k : Keeps l t u) : Keeps l s u where
  pending := k.pending.trans h.pending
  resetInput := k.resetInput.trans h.resetInput
  device := k.device.trans h.device
  time := k.time.trans h.time
  cplRing := k.cplRing.trans h.cplRing
  indRing := k.indRing.trans h.indRing
  notify := k.notify.trans h.notify
  busWrites := k.busWrites.trans h.busWrites
  freeSeq := k.freeSeq.trans h.freeSeq
  unit := fun r => (k.unit r).trans (h.unit r)
  stage := k.stage.trans h.stage
  credit := k.credit.trans h.credit
  counter := k.counter.trans h.counter
  asked := k.asked.trans h.asked
  freeQueue := k.freeQueue.trans h.freeQueue
  memory := fun m => k.memory (h.memory m)
  posting := k.posting.trans h.posting
  queue := h.queue.trans k.queue
  writing := fun e => by
    by_cases e1 : t.ind.writing = s.ind.writing
    · have := k.writing (by rw [e1]; exact e)
      rw [h.device] at this
      refine ⟨this.1, ?_⟩
      have e2 : t.hasRoom .indication = s.hasRoom .indication := by
        unfold State.hasRoom State.unseen State.writtenRing State.cfg
        rw [h.device, h.indRing]
      rw [← e2]; exact this.2
    · exact h.writing e1
  indications := fun b => k.indications (h.indications b)
  otherLines := fun m hm => (k.otherLines m hm).trans (h.otherLines m hm)
  params := k.params.trans h.params
  bounds := fun b => k.bounds (h.bounds b)
  identity := fun i => (k.identity i).trans (h.identity i)
  occupied := fun i => (k.occupied i).trans (h.occupied i)
  fences := fun i e => h.fences i (k.fences i e)
  broadcast := fun m b => k.broadcast m (h.broadcast m b)

/-! ### The small updates -/

theorem Keeps.modLine (l : Line) (s : State) (f : LineEngine → LineEngine)
    (hp : (f (s.line l)).params = (s.line l).params)
    (hb : (s.line l).inBounds → (f (s.line l)).inBounds) : Keeps l s (s.modLine l f) := by
  constructor <;> try simp [hp]
  · exact fun m hm => by simp [State.line_modLine, Ne.symm hm]
  · exact hb

theorem Keeps.modStation (l m : Line) (s : State) (a : Station) (f : StationRecord → StationRecord)
    (h : a = broadcastStation → (s.station m a).isBroadcast → (f (s.station m a)).isBroadcast) :
    Keeps l s (s.modStation m a f) := by
  constructor <;> try simp
  intro m' hm'
  rw [State.station_modStation]
  split
  · next e => obtain ⟨rfl, rfl⟩ := e; exact h rfl hm'
  · exact hm'

theorem Keeps.modStation_real (l m : Line) (s : State) (a : Station)
    (f : StationRecord → StationRecord) (h : a ≠ broadcastStation) :
    Keeps l s (s.modStation m a f) := Keeps.modStation l m s a f fun e => absurd e h

theorem Keeps.mapStations (l m : Line) (s : State) (f : StationRecord → StationRecord)
    (h : ∀ r : StationRecord, r.isBroadcast → (f r).isBroadcast) : Keeps l s (s.mapStations m f) := by
  constructor <;> try simp
  intro m' hm'
  rw [State.station_mapStations]
  split
  · exact h _ hm'
  · exact hm'

theorem Keeps.setEntry (l : Line) (s : State) (i : EntryIx) (e : Entry)
    (hi : e.identity = (s.entry i).identity) (hf : e.state = .free ↔ (s.entry i).state = .free)
    (hw : e.state = .fenceWait → (s.entry i).state = .fenceWait := by first | exact id | simp) :
    Keeps l s (s.setEntry i e) := by
  constructor <;> try simp
  · intro j; rw [State.entry_setEntry]; split
    · next h => subst h; exact hi
    · rfl
  · intro j; rw [State.entry_setEntry]; split
    · next h => subst h; exact hf
    · rfl
  · intro j; rw [State.entry_setEntry]; split
    · next h => subst h; exact hw
    · exact id

theorem Keeps.modEntry (l : Line) (s : State) (i : EntryIx) (f : Entry → Entry)
    (hi : (f (s.entry i)).identity = (s.entry i).identity)
    (hf : (f (s.entry i)).state = .free ↔ (s.entry i).state = .free)
    (hw : (f (s.entry i)).state = .fenceWait → (s.entry i).state = .fenceWait := by
      first | exact id | simp) :
    Keeps l s (s.modEntry i f) := Keeps.setEntry l s i _ hi hf hw

theorem Keeps.enqueue (l : Line) (s : State) (item : RetireItem) : Keeps l s (s.enqueue item) := by
  constructor <;> try simp
  rfl

theorem Keeps.setPlace (l : Line) (s : State) (p : PlaceIx) (c : Option Immediate) :
    Keeps l s (s.setPlace p c) := by
  constructor <;> try simp
  all_goals rfl

theorem saturate16_le {n : Nat} (h : n ≤ 65535) : saturate16 n ≤ 65535 := by
  unfold saturate16; split <;> omega

theorem Keeps.indicate (l m : Line) (s : State) (body : IndicationBody) :
    Keeps l s (s.indicate m body) := by
  constructor <;> try simp
  · exact fun e => State.indicate_room s m body e
  · intro hb
    obtain ⟨b1, b2⟩ := State.beginIndication_bounds s
    unfold State.indicate State.takeIndication
    split
    · next h =>
      obtain ⟨h1, h2⟩ := State.beginIndication_bounds
        { s.beginIndication with ind := { s.beginIndication.ind with
            queue := s.beginIndication.ind.queue
              ++ [{ line := m, stamp := s.time.now, lost := 0, body := body }] } }
      refine ⟨?_, h2 (b2 hb.2)⟩
      rw [h1]
      simp
      omega
    · exact ⟨b1 ▸ hb.1, saturate16_le (b2 hb.2)⟩

theorem Keeps.indicateStation (l m : Line) (s : State) (a : Station) (old new : StationState)
    (reason : Reason) (word : Option Half) : Keeps l s (s.indicateStation m a old new reason word) :=
  Keeps.indicate l m s _

theorem Keeps.indicateLine (l m : Line) (s : State) : Keeps l s (s.indicateLine m) :=
  Keeps.indicate l m s _

theorem Keeps.appendRelease (l m : Line) (s : State) (a : Station) (item : ReleaseItem) :
    Keeps l s (s.appendRelease m a item) := by
  unfold State.appendRelease
  split
  · exact Keeps.refl l s
  · next h => exact Keeps.modStation_real l m s a _ h

/-! ### Retirement -/

theorem StationRecord.unlink_isBroadcast {r : StationRecord} (i : EntryIx) (h : r.isBroadcast) :
    (r.unlink i).isBroadcast := by
  unfold StationRecord.isBroadcast at h ⊢
  rw [h]; rfl

theorem Keeps.settleToken (l m : Line) (s : State) (station : Option Station) (release : Option Nat) :
    Keeps l s (s.settleToken m station release) := by
  unfold State.settleToken
  split
  · exact Keeps.appendRelease l m s _ _
  · exact Keeps.refl l s

theorem Keeps.makeSuspect (l m : Line) (s : State) (station : Option Station) (may : Bool) :
    Keeps l s (s.makeSuspect m station may) := by
  unfold State.makeSuspect
  split
  · next a =>
    split
    · next h =>
      refine (Keeps.modStation_real l m s a _ ?_).trans (Keeps.indicateStation l m _ _ _ _ _ _)
      simp at h
      exact h.1.2
    · exact Keeps.refl l s
  · exact Keeps.refl l s

theorem Keeps.finishAbort (l : Line) (s : State) (place : Option PlaceIx) (status : Status) :
    Keeps l s (s.finishAbort place status) := by
  unfold State.finishAbort
  split
  · split
    · exact (Keeps.setPlace l s _ _).trans (Keeps.enqueue l _ _)
    · exact Keeps.refl l s
  · exact Keeps.refl l s

theorem Keeps.unlinkEntry (l : Line) (s : State) (i : EntryIx) : Keeps l s (s.unlinkEntry i) := by
  unfold State.unlinkEntry
  split
  · exact Keeps.modStation l _ s _ _ fun _ hb => StationRecord.unlink_isBroadcast i hb
  · exact Keeps.refl l s

theorem Keeps.retireCore (l : Line) (s : State) (i : EntryIx) (status : Status) (release : Option Nat)
    (abort : Option PlaceIx) (h : (s.entry i).state ≠ .free) :
    Keeps l s (s.retireCore i status release abort) := by
  unfold State.retireCore
  simp only
  have h1 := Keeps.unlinkEntry l s i
  refine h1.trans ((Keeps.setEntry l _ i _ ?_ ?_ ?_).trans ((Keeps.settleToken l _ _ _ _).trans
    ((Keeps.enqueue l _ _).trans ((Keeps.makeSuspect l _ _ _ _).trans (Keeps.finishAbort l _ _ _)))))
  · rw [h1.identity]; rfl
  · rw [h1.occupied]; simp [Entry.retired, h]
  · simp [Entry.retired]

theorem Keeps.countAtFence (l : Line) (s : State) (status : Status) (i j : EntryIx)
    (h : (s.entry j).state ≠ .free) : Keeps l s (State.countAtFence status i s j) := by
  unfold State.countAtFence
  simp only
  have h1 : Keeps l s (s.modEntry j fun e => e.countRetired i status) :=
    Keeps.modEntry l s j _ rfl Iff.rfl
  split
  · exact h1.trans (Keeps.retireCore l _ j _ _ _ fun e => h ((h1.occupied j).1 e))
  · exact h1

theorem Keeps.countAtFences (l : Line) (status : Status) (i : EntryIx) (js : List EntryIx) (s : State)
    (h : ∀ j ∈ js, (s.entry j).state ≠ .free) :
    Keeps l s (js.foldl (State.countAtFence status i) s) := by
  induction js generalizing s with
  | nil => exact Keeps.refl l s
  | cons j js ih =>
    have h1 := Keeps.countAtFence l s status i j (h j (by simp))
    exact h1.trans (ih _ fun k hk e => h k (by simp [hk]) ((h1.occupied k).1 e))

theorem mem_insertByKey {α : Type} {key : α → Nat} {x y : α} {xs : List α} :
    y ∈ insertByKey key x xs ↔ y = x ∨ y ∈ xs := by
  induction xs with
  | nil => simp [insertByKey]
  | cons z zs ih =>
    simp only [insertByKey]
    split
    · simp
    · simp [ih]; tauto

theorem mem_sortByKey {α : Type} {key : α → Nat} {y : α} {xs : List α} :
    y ∈ sortByKey key xs ↔ y ∈ xs := by
  induction xs with
  | nil => simp [sortByKey]
  | cons x xs ih => simp [sortByKey, mem_insertByKey, ih]

theorem State.fencesOn_waiting {s : State} {i j : EntryIx} (h : j ∈ s.fencesOn i) :
    (s.entry j).state = .fenceWait := by
  simp [State.fencesOn, mem_sortByKey] at h
  exact h.1

theorem Keeps.retireFor (l : Line) (s : State) (i : EntryIx) (status : Status)
    (release : Option Nat) (abort : Option PlaceIx) :
    Keeps l s (s.retireFor i status release abort) := by
  unfold State.retireFor
  split
  · exact Keeps.refl l s
  · next h =>
    have h1 := Keeps.retireCore l s i status release abort fun e => h (Or.inl e)
    exact h1.trans (Keeps.countAtFences l _ _ _ _ fun j hj => by
      rw [State.fencesOn_waiting hj]; simp)

theorem Keeps.retireEntry (l : Line) (s : State) (i : EntryIx) (status : Status)
    (release : Option Nat) : Keeps l s (s.retireEntry i status release) :=
  Keeps.retireFor l s i status release _

theorem Keeps.retireAll (l : Line) (s : State) (status : Status) (keepToken : Bool)
    (is : List EntryIx) : Keeps l s (s.retireAll status keepToken is) := by
  unfold State.retireAll
  induction is generalizing s with
  | nil => exact Keeps.refl l s
  | cons i is ih => exact (Keeps.retireEntry l s i _ _).trans (ih _)

/-! ### The ending of an exchange -/

theorem Keeps.copyReply (l : Line) (s : State) (i : EntryIx) (payload : List Byte) :
    Keeps l s (s.copyReply i payload) := by
  constructor <;> try simp [State.copyReply, State.ringUnit, State.line, State.entry, State.station]
  exact fun h => Memory.writeChain_wf _ _ h

theorem Keeps.moveToDeferred (l : Line) (s : State) (i : EntryIx) : Keeps l s (s.moveToDeferred i) := by
  unfold State.moveToDeferred
  split
  · split
    · exact Keeps.refl l s
    · next hb => exact Keeps.modStation_real l _ s _ _ hb
  · exact Keeps.refl l s

theorem Keeps.deferEntry (l : Line) (s : State) (i : EntryIx) (t : Nat)
    (h : (s.entry i).state ≠ .free) : Keeps l s (s.deferEntry i t) := by
  unfold State.deferEntry
  simp only
  have h1 := Keeps.moveToDeferred l s i
  refine h1.trans (Keeps.setEntry l _ i _ ?_ ?_)
  · rw [h1.identity]; rfl
  · rw [h1.occupied]; simp [h]

theorem Keeps.takeFate (l : Line) (s : State) (i : EntryIx) (fate : Fate)
    (h : (s.entry i).state ≠ .free) : Keeps l s (s.takeFate i fate) := by
  unfold State.takeFate
  split
  · exact Keeps.retireEntry l s i _ _
  · exact Keeps.modEntry l s i _ rfl (by simp [h])
  · exact Keeps.modEntry l s i _ rfl (by simp [h])
  · exact Keeps.deferEntry l s i _ h
  · exact Keeps.modEntry l s i _ rfl (by simp [h])
  · exact Keeps.modEntry l s i _ rfl (by simp [h])

theorem Entry.afterPoll_identity (e : Entry) (x : Ending) :
    (e.afterPoll x).identity = e.identity := by
  unfold Entry.afterPoll; split <;> rfl

theorem Entry.afterPoll_state (e : Entry) (x : Ending) : (e.afterPoll x).state = e.state := by
  unfold Entry.afterPoll; split <;> rfl

theorem Entry.afterCollect_identity (e : Entry) (x : Ending) :
    (e.afterCollect x).identity = e.identity := by
  unfold Entry.afterCollect; split <;> rfl

theorem Entry.afterCollect_state (e : Entry) (x : Ending) :
    (e.afterCollect x).state = e.state := by
  unfold Entry.afterCollect; split <;> rfl

theorem Keeps.keepReply (l : Line) (s : State) (i : EntryIx) (ending : Ending) :
    Keeps l s (s.keepReply i ending) := by
  unfold State.keepReply
  split
  · exact Keeps.copyReply l s i _
  · exact Keeps.refl l s

theorem Keeps.pollEnding (l : Line) (s : State) (i : EntryIx) (ending : Ending)
    (h : (s.entry i).state ≠ .free) : Keeps l s (s.pollEnding i ending) := by
  unfold State.pollEnding
  refine (Keeps.setEntry l s i _ (Entry.afterPoll_identity _ _) ?_ ?_).trans (Keeps.takeFate l _ i _ ?_)
  · rw [Entry.afterPoll_state]
  · rw [Entry.afterPoll_state]; exact id
  · rw [State.entry_setEntry_self, Entry.afterPoll_state]; exact h

theorem Keeps.collectEnding (l : Line) (s : State) (i : EntryIx) (ending : Ending)
    (h : (s.entry i).state ≠ .free) : Keeps l s (s.collectEnding i ending) := by
  unfold State.collectEnding
  refine (Keeps.setEntry l s i _ (Entry.afterCollect_identity _ _) ?_ ?_).trans
    (Keeps.takeFate l _ i _ ?_)
  · rw [Entry.afterCollect_state]
  · rw [Entry.afterCollect_state]; exact id
  · rw [State.entry_setEntry_self, Entry.afterCollect_state]; exact h

theorem Keeps.entryEnding (l : Line) (s : State) (i : EntryIx) (kind : MasterKind) (ending : Ending) :
    Keeps l s (s.entryEnding i kind ending) := by
  unfold State.entryEnding
  split
  · next he =>
    have h1 := Keeps.keepReply l s i ending
    have hs : ((s.keepReply i ending).entry i).state ≠ .free := fun e => by
      have := (h1.occupied i).1 e
      simp [he] at this
    split
    · exact h1.trans (Keeps.collectEnding l _ i _ hs)
    · exact h1.trans (Keeps.pollEnding l _ i _ hs)
  · exact Keeps.refl l s

theorem Keeps.takeSync (l m : Line) (s : State) (a : Station) (ex : Exchange) (attention : Bool)
    (word : Half) (h : a ≠ broadcastStation) : Keeps l s (s.takeSync m a ex attention word) := by
  unfold State.takeSync
  simp only
  have h1 := Keeps.modStation_real l m s a (fun r => r.synced ex.seq ex.flag attention word) h
  split
  · exact h1.trans ((Keeps.modStation_real l m _ a _ h).trans (Keeps.indicateStation l m _ _ _ _ _ _))
  · exact h1

theorem Keeps.takeEvent (l m : Line) (s : State) (a : Station) (number : Nat) (payload : List Byte)
    (attention : Bool) (h : a ≠ broadcastStation) :
    Keeps l s (s.takeEvent m a number payload attention) := by
  unfold State.takeEvent
  simp only
  have h1 := Keeps.modStation_real l m s a (fun r => { r with attention := attention }) h
  split
  · exact h1
  · exact h1.trans ((Keeps.indicate l m _ _).trans (Keeps.appendRelease l m _ _ _))

theorem Keeps.takeAttention (l m : Line) (s : State) (a : Station) (attention : Bool)
    (h : a ≠ broadcastStation) : Keeps l s (s.takeAttention m a attention) := by
  unfold State.takeAttention
  exact Keeps.modStation_real l m s a _ h

theorem Keeps.takeExecuted (l m : Line) (s : State) (a : Station) (attention : Bool)
    (h : a ≠ broadcastStation) : Keeps l s (s.takeExecuted m a attention) := by
  unfold State.takeExecuted
  exact Keeps.modStation_real l m s a _ h

theorem Keeps.takePoll (l m : Line) (s : State) (a : Station) (attention : Bool) (answer : Answer)
    (h : a ≠ broadcastStation) : Keeps l s (s.takePoll m a attention answer) := by
  cases answer
  case reply => exact Keeps.takeExecuted l m s a _ h
  case defer => exact Keeps.takeExecuted l m s a _ h
  all_goals exact Keeps.takeAttention l m s a _ h

theorem Keeps.takeProbe (l m : Line) (s : State) (a : Station) (attention : Bool) (answer : Answer)
    (h : a ≠ broadcastStation) : Keeps l s (s.takeProbe m a attention answer) := by
  cases answer
  case status word =>
    exact Keeps.modStation_real l m s a
      (fun r => { r.seeAttention attention with statusWord := some word }) h
  all_goals exact Keeps.takeAttention l m s a _ h

theorem Keeps.takeFetch (l m : Line) (s : State) (a : Station) (attention : Bool) (answer : Answer)
    (h : a ≠ broadcastStation) : Keeps l s (s.takeFetch m a attention answer) := by
  cases answer
  case event => exact Keeps.takeEvent l m s a _ _ _ h
  case noEvent => exact Keeps.modStation_real l m s a (fun r => { r with attention := false }) h
  all_goals exact Keeps.takeAttention l m s a _ h

theorem Keeps.takeSynced (l m : Line) (s : State) (a : Station) (ex : Exchange) (attention : Bool)
    (answer : Answer) (h : a ≠ broadcastStation) :
    Keeps l s (s.takeSynced m a ex attention answer) := by
  cases answer
  case status => exact Keeps.takeSync l m s a ex _ _ h
  all_goals exact Keeps.takeAttention l m s a _ h

theorem Keeps.takeContent (l m : Line) (s : State) (a : Station) (ex : Exchange) (answer : Answer)
    (attention : Bool) (h : a ≠ broadcastStation) :
    Keeps l s (s.takeContent m a ex answer attention) := by
  unfold State.takeContent
  split
  · exact Keeps.takePoll l m s a _ _ h
  · exact Keeps.takeSynced l m s a ex _ _ h
  · exact Keeps.takeProbe l m s a _ _ h
  · exact Keeps.takeFetch l m s a _ _ h
  · exact Keeps.takeAttention l m s a _ h
  · exact Keeps.takeAttention l m s a _ h

theorem Keeps.offlineCascade (l m : Line) (s : State) (a : Station) (owner : Owner)
    (old : StationState) (h : a ≠ broadcastStation) :
    Keeps l s (s.offlineCascade m a owner old) := by
  unfold State.offlineCascade
  exact (Keeps.retireAll l s _ _ _).trans
    ((Keeps.modStation_real l m _ a _ h).trans (Keeps.indicateStation l m _ _ _ _ _ _))

theorem Keeps.takeAnswer (l m : Line) (s : State) (ex : Exchange) (ending : Ending)
    (h : ex.station ≠ broadcastStation) : Keeps l s (s.takeAnswer m ex ending) := by
  unfold State.takeAnswer
  split
  · exact Keeps.takeContent l m s ex.station ex _ _ h
  · exact Keeps.refl l s

theorem Keeps.ownerTakes (l : Line) (s : State) (ex : Exchange) (ending : Ending) :
    Keeps l s (s.ownerTakes ex ending) := by
  unfold State.ownerTakes
  split
  · exact Keeps.entryEnding l s _ _ _
  · exact Keeps.refl l s

theorem Keeps.stationEnding (l m : Line) (s : State) (ex : Exchange) (ending : Ending)
    (h : ex.station ≠ broadcastStation) : Keeps l s (s.stationEnding m ex ending) := by
  unfold State.stationEnding
  simp only
  have h1 := Keeps.modStation_real l m s ex.station (fun r => r.takeRelease ex.carried ending) h
  have h2 := h1.trans (Keeps.modStation_real l m _ ex.station
    (fun r => r.takeFailures (s.line m).params.failureThreshold ending) h)
  have h4 := h2.trans ((Keeps.takeAnswer l m _ ex ending h).trans (Keeps.ownerTakes l _ ex ending))
  split
  · exact h4.trans (Keeps.offlineCascade l m _ _ _ _ h)
  · exact h4

/-! ### The arbiter -/

/-- A frame is sent: at the line only TRANSMIT begins. -/
theorem Keeps.transmit (l : Line) (s : State) (ex : Exchange) :
    Keeps l s (s.modLine l fun ln => ln.transmit ex) :=
  Keeps.modLine l s _ rfl fun h => h

theorem StationRecord.granted_isBroadcast {r : StationRecord} (linger : Nat) (h : r.isBroadcast) :
    (r.granted linger).isBroadcast := by
  have h1 : r.release = [] := by
    unfold StationRecord.isBroadcast at h; rw [h]; rfl
  unfold StationRecord.granted
  rw [h1]
  exact h

theorem Keeps.sendToStation (l : Line) (s : State) (a : Station) (kind : MasterKind) (owner : Owner)
    (seq flag : Bool) (token : Nat) (payload : List Byte) :
    Keeps l s (s.sendToStation l a kind owner seq flag token payload) := by
  unfold State.sendToStation
  exact (Keeps.transmit l s _).trans (Keeps.modStation l l _ a _ fun _ h =>
    StationRecord.granted_isBroadcast _ h)

theorem Keeps.sendBroadcast (l : Line) (s : State) (kind : MasterKind) (owner : Owner)
    (payload : List Byte) : Keeps l s (s.sendBroadcast l kind owner payload) := by
  unfold State.sendBroadcast
  exact Keeps.transmit l s _

theorem Keeps.grantPoll (l : Line) (s : State) (a : Station) (i : EntryIx)
    (h : (s.entry i).state ≠ .free) : Keeps l s (s.grantPoll l a i) := by
  unfold State.grantPoll
  simp only
  have h1 : Keeps l s (s.modEntry i fun e =>
      { e with state := .exchange, attemptsUsed := e.attemptsUsed + 1, everSent := true }) :=
    Keeps.modEntry l s i _ rfl (by simp [h])
  split
  · exact h1.trans (Keeps.sendBroadcast l _ _ _ _)
  · exact h1.trans (Keeps.sendToStation l _ _ _ _ _ _ _ _)

theorem Keeps.grantSync (l : Line) (s : State) (a : Station) (purge : Bool) :
    Keeps l s (s.grantSync l a purge) := Keeps.sendToStation l s a _ _ _ _ _ _

theorem Keeps.grantCollect (l : Line) (s : State) (i : EntryIx) (h : (s.entry i).state ≠ .free) :
    Keeps l s (s.grantCollect l i) := by
  unfold State.grantCollect
  split
  · exact (Keeps.modEntry l s i _ rfl (by simp [h])).trans (Keeps.sendToStation l _ _ _ _ _ _ _ _)
  · exact Keeps.refl l s

theorem Keeps.grantHead (l : Line) (s : State) (a : Station) (i : EntryIx)
    (h : (s.entry i).state ≠ .free) : Keeps l s (s.grantHead l a i) := by
  unfold State.grantHead
  split
  · exact Keeps.grantSync l s a _
  · split
    · exact Keeps.grantSync l s a _
    · exact Keeps.grantPoll l s a i h

theorem Keeps.grantBeacon (l : Line) (s : State) : Keeps l s (s.grantBeacon l) := by
  unfold State.grantBeacon
  exact (Keeps.modLine l s (fun ln => { ln with beaconDue := false }) rfl fun h => h).trans
    (Keeps.sendBroadcast l _ _ _ _)

theorem Keeps.grantReprobe (l : Line) (s : State) : Keeps l s (s.grantReprobe l) := by
  unfold State.grantReprobe
  simp only
  have h1 := Keeps.modLine l s (fun ln => { ln with reprobeDue := false }) rfl fun h => h
  split
  · next a _ =>
    exact h1.trans ((Keeps.modLine l _ (fun ln => { ln with probeRotation := addressOf a }) rfl
      fun h => h).trans (Keeps.grantSync l _ _ _))
  · exact h1

theorem leastBy_mem {α : Type} {key : α → Nat} {xs : List α} {x : α} (h : leastBy key xs = some x) :
    x ∈ xs := by
  induction xs generalizing x with
  | nil => simp [leastBy] at h
  | cons y ys ih =>
    simp only [leastBy] at h
    split at h
    · simp at h; simp [h]
    · next z hz =>
      split at h
      · simp at h; subst h; simp [ih hz]
      · simp at h; simp [h]

/-- A candidate that names an entry names one that is DEFERRED or QUEUED. -/
def Candidate.isLive (s : State) : Candidate → Prop
  | .collect i => (s.entry i).state = .deferred
  | .head _ i => (s.entry i).state = .queued
  | _ => True

theorem State.dueCollect_live {s : State} {l : Line} {c : Candidate} (h : s.dueCollect l = some c) :
    c.isLive s := by
  simp only [State.dueCollect, Option.map_eq_some_iff] at h
  obtain ⟨i, hi, rfl⟩ := h
  have := leastBy_mem hi
  simp at this
  exact this.1.1

theorem State.ringHead_live {s : State} {l : Line} {r : Ring} {c : Candidate}
    (h : s.ringHead l r = some c) : c.isLive s := by
  simp only [State.ringHead, Option.map_eq_some_iff] at h
  obtain ⟨⟨a, i⟩, hi, rfl⟩ := h
  have := leastBy_mem hi
  simp only [List.mem_filterMap, State.queuedHead] at this
  obtain ⟨b, -, hb⟩ := this
  split at hb
  · split at hb
    · next hq => simp at hb; obtain ⟨-, rfl⟩ := hb; exact hq.1
    · simp at hb
  · simp at hb

theorem firstOf_mem {xs : List (Option Candidate)} {c : Candidate} (h : firstOf xs = some c) :
    some c ∈ xs := by
  induction xs with
  | nil => simp [firstOf] at h
  | cons x xs ih =>
    cases x with
    | none => simp [firstOf] at h; simp [ih h]
    | some y => simp [firstOf] at h; simp [h]

theorem State.choose_live {s : State} {l : Line} {c : Candidate} (h : s.choose l = some c) :
    c.isLive s := by
  unfold State.choose at h
  simp only at h
  split at h
  · exact State.ringHead_live h
  · have := firstOf_mem h
    simp only [List.mem_cons, List.not_mem_nil, or_false] at this
    rcases this with h | h | h | h | h | h | h
    · split at h
      · simp at h; subst h; trivial
      · simp at h
    · exact State.dueCollect_live h.symm
    · exact State.ringHead_live h.symm
    · simp only [State.fetchCandidate] at h
      obtain ⟨a, -, rfl⟩ := Option.map_eq_some_iff.1 h.symm
      trivial
    · exact State.ringHead_live h.symm
    · split at h
      · simp at h; subst h; trivial
      · simp at h
    · simp only [State.flushCandidate] at h
      obtain ⟨a, -, rfl⟩ := Option.map_eq_some_iff.1 h.symm
      trivial

theorem State.creditAfter_le {s : State} {l : Line} {c : Candidate} (h : (s.line l).credit ≤ 8) :
    s.creditAfter l c ≤ 8 := by
  unfold State.creditAfter
  simp only
  split
  · split
    · omega
    · split
      · next hc => have := hc.2; omega
      · exact h
  all_goals first
    | exact h
    | (split
       · next hc => have := hc.2; omega
       · exact h)

theorem Keeps.grant (l : Line) (s : State) (c : Candidate) (h : c.isLive s) :
    Keeps l s (s.grant l c) := by
  unfold State.grant
  simp only
  have h1 : Keeps l s (s.modLine l fun ln => { ln with credit := s.creditAfter l c }) :=
    Keeps.modLine l s _ rfl fun hb => ⟨hb.1, State.creditAfter_le hb.2⟩
  split
  · exact h1.trans (Keeps.grantBeacon l _)
  · next i =>
    refine h1.trans (Keeps.grantCollect l _ i ?_)
    simp only [Candidate.isLive] at h
    simp [h]
  · next a i =>
    refine h1.trans (Keeps.grantHead l _ a i ?_)
    simp only [Candidate.isLive] at h
    simp [h]
  · next a =>
    exact h1.trans ((Keeps.modLine l _ (fun ln => { ln with eventRotation := addressOf a }) rfl
      fun h => h).trans (Keeps.sendToStation l _ _ _ _ _ _ _ _))
  · exact h1.trans (Keeps.grantReprobe l _)
  · exact h1.trans (Keeps.sendToStation l _ _ _ _ _ _ _ _)

theorem Keeps.evaluateOnce (l : Line) (s : State) : Keeps l s (s.evaluateOnce l) := by
  unfold State.evaluateOnce
  split
  · split
    · next c hc => exact Keeps.grant l s c (State.choose_live hc)
    · exact Keeps.refl l s
  · exact Keeps.refl l s

theorem Keeps.evaluate (l : Line) (s : State) : Keeps l s (s.evaluate l) :=
  (Keeps.evaluateOnce l s).trans (Keeps.evaluateOnce l _)

/-! ### The line engine -/

theorem Keeps.lineCascade (l : Line) (s : State) (status : Status) :
    Keeps l s (s.lineCascade l status) := Keeps.retireAll l s _ _ _

theorem Keeps.completeControl (l : Line) (s : State) (status : Status) :
    Keeps l s (s.completeControl l status) := by
  unfold State.completeControl
  split
  · exact (Keeps.modLine l s _ rfl fun h => h).trans (Keeps.enqueue l _ _)
  · exact Keeps.refl l s

theorem StationRecord.rested_isBroadcast {r : StationRecord} (h : r.isBroadcast) :
    StationRecord.isBroadcast { r with linger := .stopped, flushDue := none } := by
  unfold StationRecord.isBroadcast at h ⊢
  rw [h]; rfl

theorem Keeps.restLine (l : Line) (s : State) (state : LineState) (cause : FaultCause) :
    Keeps l s (s.restLine l state cause) := by
  unfold State.restLine
  exact (Keeps.modLine l s (fun ln => ln.atRest state cause) rfl fun h => h).trans
    (Keeps.mapStations l l _ _ fun _ h => StationRecord.rested_isBroadcast h)

theorem Keeps.stopLine (l : Line) (s : State) : Keeps l s (s.stopLine l) := by
  unfold State.stopLine
  exact (Keeps.lineCascade l s _).trans ((Keeps.completeControl l _ _).trans
    ((Keeps.restLine l _ _ _).trans (Keeps.indicateLine l l _)))

theorem Keeps.beaconEnding (l : Line) (s : State) (ex : Exchange) (ending : Ending) :
    Keeps l s (s.beaconEnding l ex ending) := by
  unfold State.beaconEnding
  split
  · simp only
    have h1 := Keeps.modLine l s (fun ln => { ln with beaconNumber := ln.beaconNumber + 1 }) rfl
      fun h => h
    split
    · exact h1.trans ((Keeps.modLine l _ (fun ln => { ln with markCount := 0 }) rfl fun h => h).trans
        (Keeps.indicate l l _ _))
    · exact h1.trans (Keeps.modLine l _ (fun ln => { ln with markCount := ln.markCount + 1 }) rfl
        fun h => h)
  · exact Keeps.refl l s

theorem Keeps.deliver (l : Line) (s : State) (ex : Exchange) (ending : Ending) :
    Keeps l s (s.deliver l ex ending) := by
  unfold State.deliver
  split
  · exact Keeps.beaconEnding l s ex ending
  · split
    · exact Keeps.entryEnding l s _ _ _
    · next h => exact Keeps.stationEnding l l s ex ending h
  · split
    · exact Keeps.refl l s
    · next h => exact Keeps.stationEnding l l s ex ending h

theorem Keeps.cutExchange (l : Line) (s : State) : Keeps l s (s.cutExchange l) := by
  unfold State.cutExchange
  split
  · split
    · exact Keeps.deliver l s _ _
    · exact Keeps.refl l s
  · exact Keeps.refl l s

theorem Keeps.faultLine (l : Line) (s : State) (cause : FaultCause) :
    Keeps l s (s.faultLine l cause) := by
  unfold State.faultLine
  exact (Keeps.cutExchange l s).trans ((Keeps.restLine l _ _ _).trans ((Keeps.lineCascade l _ _).trans
    ((Keeps.completeControl l _ _).trans (Keeps.indicateLine l l _))))

theorem Keeps.countError (l : Line) (s : State) : Keeps l s (s.countError l) :=
  Keeps.modLine l s _ rfl fun h => ⟨saturate16_le h.1, h.2⟩

theorem Keeps.settleLine (l : Line) (s : State) : Keeps l s (s.settleLine l) := by
  unfold State.settleLine
  split
  · exact Keeps.evaluate l s
  · split
    · exact Keeps.refl l s
    · split
      · exact Keeps.stopLine l s
      · exact Keeps.evaluate l s
  · split
    · exact Keeps.refl l s
    · exact Keeps.stopLine l s
  · exact Keeps.refl l s
  · exact Keeps.refl l s

theorem Keeps.endExchange (l : Line) (s : State) (ending : Ending) :
    Keeps l s (s.endExchange l ending) := by
  unfold State.endExchange
  split
  · simp only
    have h1 := (Keeps.deliver l s ‹_› ending).trans
      (Keeps.modLine l _ (fun ln => ln.enterGuard ending) rfl fun h => h)
    split
    · exact h1.trans (Keeps.faultLine l _ _)
    · exact h1.trans (Keeps.settleLine l _)
  · exact Keeps.refl l s

/-! ### The receiver and the echo check -/

theorem Keeps.wakeIdle (l : Line) (s : State) : Keeps l s (s.wakeIdle l) := by
  unfold State.wakeIdle
  split
  · exact Keeps.settleLine l s
  · exact Keeps.refl l s

theorem Keeps.handBad (l : Line) (s : State) : Keeps l s (s.handBad l) := by
  unfold State.handBad
  split
  · exact (Keeps.countError l s).trans (Keeps.endExchange l _ _)
  · exact Keeps.countError l s

theorem Keeps.syncSeen (l : Line) (s : State) : Keeps l s (s.syncSeen l) :=
  Keeps.modLine l s _ rfl fun h => h

theorem Keeps.rxFail (l : Line) (s : State) : Keeps l s (s.rxFail l) :=
  (Keeps.modLine l s (fun ln => ln.leaveHunt .discard) rfl fun h => h).trans (Keeps.handBad l _)

theorem Keeps.rxBadComplete (l : Line) (s : State) : Keeps l s (s.rxBadComplete l) :=
  (Keeps.modLine l s (fun ln => ln.enterHunt) rfl fun h => h).trans
    ((Keeps.handBad l _).trans (Keeps.wakeIdle l _))

theorem Keeps.stray (l : Line) (s : State) (f : StationFrame) (late : Bool) :
    Keeps l s (s.stray l f late) := by
  unfold State.stray
  split
  · exact Keeps.indicate l l s _
  · exact Keeps.refl l s

theorem Keeps.handValid (l : Line) (s : State) (f : StationFrame) : Keeps l s (s.handValid l f) := by
  unfold State.handValid
  split
  · simp only
    split
    · exact (Keeps.countError l s).trans (Keeps.endExchange l _ _)
    · exact Keeps.endExchange l s _
  · exact (Keeps.stray l s f _).trans (Keeps.wakeIdle l _)

theorem Keeps.rxValid (l : Line) (s : State) (last : Byte) : Keeps l s (s.rxValid l last) := by
  unfold State.rxValid
  exact (Keeps.modLine l s (fun ln => { ln.enterHunt with rxBuffer := ln.rxBuffer ++ [last] }) rfl
    fun h => h).trans (Keeps.handValid l _ _)

theorem Keeps.transmitEnd (l : Line) (s : State) (ex : Exchange) : Keeps l s (s.transmitEnd l ex) := by
  unfold State.transmitEnd
  simp only
  have h1 := Keeps.modLine l s (fun ln => ln.enterHunt) rfl fun h => h
  split
  · exact h1.trans (Keeps.endExchange l _ _)
  · exact h1.trans (Keeps.modLine l _ _ rfl fun h => h)

theorem Keeps.echoFailed (l : Line) (s : State) (full : Bool) : Keeps l s (s.echoFailed l full) :=
  (Keeps.modLine l s (fun ln => ln.enterHunt) rfl fun h => h).trans
    ((Keeps.countError l _).trans (Keeps.endExchange l _ _))

theorem Keeps.noteHeard (l : Line) (s : State) (heard : Heard) : Keeps l s (s.noteHeard l heard) := by
  unfold State.noteHeard
  split
  · exact Keeps.modLine l s _ rfl fun h => h
  · exact Keeps.refl l s

theorem Keeps.checkEcho (l : Line) (s : State) (ex : Exchange) (heard : Heard) :
    Keeps l s (s.checkEcho l ex heard) := by
  unfold State.checkEcho
  simp only
  have h1 := Keeps.noteHeard l s ((s.line l).hears heard)
  split
  · have h2 := h1.trans (Keeps.modLine l _
      (fun ln => { ln with current := some { ex with echoed := ex.echoed + 1 } }) rfl fun h => h)
    split
    · exact h2.trans (Keeps.transmitEnd l _ _)
    · exact h2
  · exact h1.trans (Keeps.echoFailed l _ _)

end Sys2Proof.Machine
end

