-- ==== Sys2Proof/Laws/Port.lean ====
section
/-! SUPPORT. What the Host Bus Port's operations can do: a write in flight that stops leaves a leading part
in host memory and touches nothing else; a read that stops leaves what it had received; a halt does both,
and stops the part. -/

namespace Sys2Proof.Machine

/-! ### Writes -/

/-- From `s` to `t` only `x` was placed in host memory, and the count of free values has moved. -/
def Adds (x : List BusWrite) (s t : State) : Prop :=
  ∃ n, t = { s with busWrites := x ++ s.busWrites, freeSeq := n }

theorem Adds.refl (s : State) : Adds [] s s := ⟨s.freeSeq, rfl⟩

theorem Adds.trans {x y : List BusWrite} {s t u : State} (h : Adds x s t) (k : Adds y t u) :
    Adds (y ++ x) s u := by
  obtain ⟨n, rfl⟩ := h
  obtain ⟨m, rfl⟩ := k
  exact ⟨m, by rw [List.append_assoc]⟩

theorem State.placed_adds (s : State) (addr : HostAddr) (bytes : List Byte) :
    ∃ x, (x = [] ∨ x = [{ addr := addr, bytes := bytes }]) ∧ Adds x s (s.placed addr bytes) := by
  unfold State.placed
  split
  · exact ⟨[], Or.inl rfl, Adds.refl s⟩
  · exact ⟨_, Or.inr rfl, s.freeSeq, rfl⟩

theorem State.placedRecordPart_adds (s : State) (w : WriteAccess) (n : Nat) :
    ∃ x, Adds x s (s.placedRecordPart w n) :=
  (State.placed_adds s _ _).imp fun _ h => h.2

theorem State.placedShadowPart_adds (s : State) (w : WriteAccess) (n : Nat) :
    ∃ x, (x = [] ∨ x = [{ addr := w.addr, bytes := w.bytes.take 1 }]
        ∨ x = [{ addr := w.addr + 1, bytes := w.bytes.drop 1 }])
      ∧ Adds x s (s.placedShadowPart w n) := by
  unfold State.placedShadowPart
  split
  · obtain ⟨x, hx, h⟩ := State.placed_adds s w.addr (w.bytes.take 1)
    exact ⟨x, hx.imp id Or.inl, h⟩
  · split
    · obtain ⟨x, hx, h⟩ := State.placed_adds s (w.addr + 1) (w.bytes.drop 1)
      exact ⟨x, hx.imp id Or.inr, h⟩
    · exact ⟨[], Or.inl rfl, Adds.refl s⟩

theorem State.stopShadow_adds (s : State) (skip : Option WriteId) (n : Nat) (r : Ring) :
    ∃ x, s.ShadowPart skip r x ∧ Adds x s (s.stopShadow skip n r) := by
  unfold State.stopShadow
  split
  · next w hw =>
    split
    · exact ⟨[], Or.inl rfl, Adds.refl s⟩
    · next hs =>
      obtain ⟨x, hx, h⟩ := State.placedShadowPart_adds s w (Config.placedBytes n)
      exact ⟨x, hx.imp id fun e => ⟨hs, w, hw, e⟩, h⟩
  · exact ⟨[], Or.inl rfl, Adds.refl s⟩

theorem State.stopPosting_adds (s : State) (skip : Option WriteId) (n : Nat) :
    ∃ x, s.PostingPart skip x ∧ Adds x s (s.stopPosting skip n) := by
  unfold State.stopPosting
  split
  · exact ⟨[], Or.inl rfl, Adds.refl s⟩
  · next hp =>
    split
    · next w hw =>
      split
      · exact ⟨[], Or.inl rfl, Adds.refl s⟩
      · next hs =>
        obtain ⟨x, hx, h⟩ := State.placed_adds s w.addr
          (w.bytes.take (Config.placedBytes n % (w.bytes.length + 1)))
        refine ⟨x, hx.imp id fun e => Or.inl ⟨hp, hs, w, _, hw, ?_, e⟩, h⟩
        exact Nat.le_of_lt_succ (Nat.mod_lt _ (Nat.succ_pos _))
    · exact ⟨[], Or.inl rfl, Adds.refl s⟩
  · next c hp =>
    split
    · next w hw =>
      split
      · exact ⟨[], Or.inl rfl, Adds.refl s⟩
      · next hs =>
        by_cases hl : w.bytes.length = 0
        · refine ⟨[], Or.inl rfl, s.freeSeq, ?_⟩
          simp [State.placedRecordPart, State.placed, hl]
        · obtain ⟨x, hx, h⟩ := State.placed_adds s w.addr
            (w.bytes.take (min (Config.placedBytes n % w.bytes.length) (w.bytes.length - 1)))
          refine ⟨x, hx.imp id fun e => Or.inr ⟨c, hp, hs, w, _, hw, ?_, e⟩, h⟩
          omega
    · exact ⟨[], Or.inl rfl, Adds.refl s⟩

theorem State.stopIndication_adds (s : State) (skip : Option WriteId) (n : Nat) :
    ∃ x, s.IndicationPart skip x ∧ Adds x s (s.stopIndication skip n) := by
  unfold State.stopIndication
  split
  · next hp =>
    split
    · next w hw =>
      split
      · exact ⟨[], Or.inl rfl, Adds.refl s⟩
      · next hs =>
        by_cases hl : w.bytes.length = 0
        · refine ⟨[], Or.inl rfl, s.freeSeq, ?_⟩
          simp [State.placedRecordPart, State.placed, hl]
        · obtain ⟨x, hx, h⟩ := State.placed_adds s w.addr
            (w.bytes.take (min (Config.placedBytes n % w.bytes.length) (w.bytes.length - 1)))
          refine ⟨x, hx.imp id fun e => ⟨hp, hs, w, _, hw, ?_, e⟩, h⟩
          omega
    · exact ⟨[], Or.inl rfl, Adds.refl s⟩
  · exact ⟨[], Or.inl rfl, Adds.refl s⟩

/-- What stopping the writes in flight can do (R165, R171). -/
theorem State.stopWrites_adds (s : State) (skip : Option WriteId) :
    ∃ x, s.StoppedWrites skip x ∧ Adds x s (s.stopWrites skip) := by
  unfold State.stopWrites
  obtain ⟨h, ph, ah⟩ := State.stopShadow_adds s skip s.freeSeq .h
  obtain ⟨n1, e1⟩ := ah
  simp only [e1]
  obtain ⟨l, pl, al⟩ := State.stopShadow_adds
    { s with busWrites := h ++ s.busWrites, freeSeq := n1 } skip (s.freeSeq + 1) .l
  obtain ⟨n2, e2⟩ := al
  simp only [e2]
  obtain ⟨p, pp, ap⟩ := State.stopPosting_adds
    { s with busWrites := l ++ (h ++ s.busWrites), freeSeq := n2 } skip (s.freeSeq + 2)
  obtain ⟨n3, e3⟩ := ap
  simp only [e3]
  obtain ⟨i, pi, ai⟩ := State.stopIndication_adds
    { s with busWrites := p ++ (l ++ (h ++ s.busWrites)), freeSeq := n3 } skip (s.freeSeq + 3)
  obtain ⟨n4, e4⟩ := ai
  simp only [e4]
  exact ⟨i ++ (p ++ (l ++ h)), ⟨h, l, p, i, rfl, ph, pl, pp, pi⟩, s.freeSeq + 4,
    by simp [List.append_assoc]⟩

/-! ### Reads -/

theorem Memory.writeRun_nil (m : Memory) (a : Nat) : Memory.writeRun m a [] = m := rfl

@[simp] theorem Memory.writeChain_nil (m : Memory) (chain : List SegIx) :
    Memory.writeChain m chain [] = m := by
  induction chain generalizing m with
  | nil => rfl
  | cons seg chain ih => simp [Memory.writeChain, Memory.writeRun_nil, ih]

/-- From `s` to `t` the read of ring `r` was stopped: `bytes` stand in its hold, `received` in the segments
of its load, and nothing else changed but the count of free values. -/
structure Stops (s t : State) (r : Ring) (bytes received : List Byte) : Prop where
  eq : t = { s with
    admission := t.admission
    store := { s.store with bytes := s.store.bytes.writeChain (s.loadChain r) received }
    freeSeq := t.freeSeq }
  part : s.LoadPart r received
  unit : t.ringUnit r = { s.ringUnit r with hold := { (s.ringUnit r).hold with bytes := bytes } }
  other : t.ringUnit (otherRing r) = s.ringUnit (otherRing r)
  rest : t.admission = { s.admission with h := t.admission.h, l := t.admission.l }

/-- Nothing was read, and nothing changed. -/
theorem Stops.refl {s : State} {r : Ring} (h : s.LoadPart r []) :
    Stops s s r (s.ringUnit r).hold.bytes [] :=
  ⟨by simp, h, rfl, rfl, rfl⟩

theorem State.loadPart_nil (s : State) (r : Ring) : s.LoadPart r [] := by
  unfold State.LoadPart
  split
  · exact ⟨Nat.zero_le _, fun _ => rfl⟩
  · rfl

theorem State.stopRead_stops (s : State) (n : Nat) (r : Ring) :
    ∃ bytes received, Stops s (s.stopRead n r) r bytes received
      ∧ (if (s.ringUnit r).hold.state = .fetching ∧ s.fetchAllowed r = true then bytes.length ≤ 64
        else bytes = (s.ringUnit r).hold.bytes) := by
  unfold State.stopRead
  split
  · next hf =>
    split
    · next ha =>
      refine ⟨(Config.receivedBytes n).take 64, [], ?_, ?_⟩
      · refine ⟨?_, State.loadPart_nil s r, State.ringUnit_modRing_self s r _,
          State.ringUnit_modRing_other s r _, ?_⟩
        · simp [State.modHold, State.modRing]
        · have e := orderAsked_same (r := r) (u := s.ringUnit r)
            (v := { s.ringUnit r with hold :=
              { (s.ringUnit r).hold with bytes := (Config.receivedBytes n).take 64 } })
            s.admission.asked rfl rfl
          unfold State.modHold State.modRing
          simp only [e]
          cases r <;> rfl
      · rw [if_pos ⟨hf, ha⟩]
        simp
    · next ha =>
      refine ⟨_, _, Stops.refl (State.loadPart_nil s r), ?_⟩
      rw [if_neg (fun e => ha e.2)]
  · next i hl =>
    split
    · next ha =>
      refine ⟨(s.ringUnit r).hold.bytes, (Config.receivedBytes n).take (s.entry i).requestLength, ?_, ?_⟩
      · refine ⟨?_, ?_, rfl, rfl, rfl⟩
        · simp [State.storeRequest, State.loadChain, hl]
        · simp [State.LoadPart, hl, ha]
      · rw [if_neg (fun e => by rw [hl] at e; cases e.1)]
    · refine ⟨_, _, Stops.refl (State.loadPart_nil s r), ?_⟩
      rw [if_neg (fun e => by rw [hl] at e; cases e.1)]
  · next h1 h2 =>
    refine ⟨_, _, Stops.refl (State.loadPart_nil s r), ?_⟩
    rw [if_neg (fun e => h1 e.1)]

/-! ### The halt -/

theorem State.stopped_device (s : State) (source : HaltSource) :
    ((s.stopWrites source.failedWrite).stopReads source.failedFetch).device = s.device := by
  obtain ⟨x, -, n, e⟩ := State.stopWrites_adds s source.failedWrite
  rw [e]
  have h : ∀ (t : State) (c : Prop) [Decidable c] (n : Nat) (r : Ring),
      (if c then t else t.stopRead n r).device = t.device := by
    intro t c _ n r
    split
    · rfl
    · obtain ⟨_, _, hs, -⟩ := State.stopRead_stops t n r
      rw [hs.eq]
  simp only [State.stopReads, h]

/-- What stopping the read of one ring, or not, can do. -/
theorem State.stopRead_or (s : State) (n : Nat) (r : Ring) (c : Prop) [Decidable c] :
    ∃ bytes received, Stops s (if c then s else s.stopRead n r) r bytes received
      ∧ (¬ c → if (s.ringUnit r).hold.state = .fetching ∧ s.fetchAllowed r = true then bytes.length ≤ 64
        else bytes = (s.ringUnit r).hold.bytes) := by
  by_cases hc : c
  · rw [if_pos hc]
    exact ⟨_, _, Stops.refl (State.loadPart_nil s r), fun h => absurd hc h⟩
  · rw [if_neg hc]
    obtain ⟨b, x, h1, h2⟩ := State.stopRead_stops s n r
    exact ⟨b, x, h1, fun _ => h2⟩

/-- A halt in RUNNING keeps all the part holds, but for what the reads in flight had received; host memory
gains only leading parts of the writes in flight (R165, R167). -/
theorem State.halt_haltedBy {s : State} (h : s.device.state = .running) (cause : HaltCause)
    (source : HaltSource) : s.HaltedBy (s.halt cause source) cause source s.busWrites := by
  unfold State.halt
  rw [if_pos h]
  obtain ⟨x, hx, n, e⟩ := State.stopWrites_adds s source.failedWrite
  rw [e]
  unfold State.stopReads
  simp only
  obtain ⟨bh, rh, sh, kh⟩ := State.stopRead_or
    { s with busWrites := x ++ s.busWrites, freeSeq := n } n .h (source.failedFetch = some .h)
  generalize (if source.failedFetch = some .h then
      ({ s with busWrites := x ++ s.busWrites, freeSeq := n } : State)
    else State.stopRead { s with busWrites := x ++ s.busWrites, freeSeq := n } n .h) = t1 at sh
  obtain ⟨bl, rl, sl, kl⟩ := State.stopRead_or t1 (n + 1) .l (source.failedFetch = some .l)
  generalize (if source.failedFetch = some .l then t1 else t1.stopRead (n + 1) .l) = t2 at sl
  have uh : t1.ringUnit .h = { s.ringUnit .h with hold := { (s.ringUnit .h).hold with bytes := bh } } :=
    sh.unit
  have ul : t1.ringUnit .l = s.ringUnit .l := sh.other
  have ec : t1.cfg = s.cfg := by rw [sh.eq]; rfl
  have ee : ∀ i, t1.entry i = s.entry i := fun i => by rw [sh.eq]; rfl
  have ea : ∀ i, t1.loadAllowed i = s.loadAllowed i := fun i => by
    simp only [State.loadAllowed, ec, ee]
  have ef : t1.fetchAllowed .l = s.fetchAllowed .l := by
    simp only [State.fetchAllowed, State.fetchAddress, ec, ul]
  have ech : t1.loadChain .l = s.loadChain .l := by simp only [State.loadChain, ul, ee]
  have epl : s.LoadPart .l rl := by
    have := sl.part
    simp only [State.LoadPart, ul, ee, ea] at this
    exact this
  have hm : t2.store.bytes
      = (s.store.bytes.writeChain (s.loadChain .h) rh).writeChain (s.loadChain .l) rl := by
    rw [sl.eq, sh.eq]
    simp only
    rw [← ech]
    rw [sh.eq]
    rfl
  have hf : t2.store.freeQueue = s.store.freeQueue := by rw [sl.eq, sh.eq]
  have hr : t2.admission = { s.admission with h := t2.admission.h, l := t2.admission.l } := by
    rw [sl.rest, sh.rest]
  refine
    { device := by simp only; rw [sl.eq, sh.eq]
      notify := by simp only; rw [sl.eq, sh.eq]
      pending := by simp only; rw [sl.eq, sh.eq]
      resetInput := by simp only; rw [sl.eq, sh.eq]
      time := by simp only; rw [sl.eq, sh.eq]
      lines := by simp only; rw [sl.eq, sh.eq]
      stations := by simp only; rw [sl.eq, sh.eq]
      entries := by simp only; rw [sl.eq, sh.eq]
      freeQueue := hf
      memory := ⟨rh, rl, sh.part, epl, hm⟩
      retire := by simp only; rw [sl.eq, sh.eq]
      ind := by simp only; rw [sl.eq, sh.eq]
      cplRing := by simp only; rw [sl.eq, sh.eq]
      indRing := by simp only; rw [sl.eq, sh.eq]
      places := by simp only; rw [hr]
      stage := by simp only; rw [hr]
      credit := by simp only; rw [hr]
      counter := by simp only; rw [hr]
      asked := by simp only; rw [hr]
      units := ?_
      writes := ⟨x, hx, by simp only; rw [sl.eq, sh.eq]⟩ }
  intro r
  cases r with
  | h =>
    refine ⟨bh, ?_, fun hs => ?_⟩
    · have : t2.ringUnit .h = t1.ringUnit .h := sl.other
      exact this.trans uh
    · exact kh (fun e => hs (by cases source <;> simp_all [HaltSource.failedFetch]))
  | l =>
    refine ⟨bl, ?_, fun hs => ?_⟩
    · have := sl.unit
      rw [ul] at this
      exact this
    · have := kl (fun e => hs (by cases source <;> simp_all [HaltSource.failedFetch]))
      rw [ul, ef] at this
      exact this

end Sys2Proof.Machine
end

