-- ==== Sys2Proof/Laws/Steady.lean ====
section
/-! SUPPORT. The relation that every operation between two device states keeps: the queue of commands and
device time stay, the device goes on or halts, and every invariant of Safety.lean is kept. One lemma per
shared operation. -/

namespace Sys2Proof.Machine

/-- From `s` to `t` by an operation that is neither a reset, a START nor a carry; it may halt the part only
where `halts` says so. -/
structure Steady (halts : Bool) (s t : State) : Prop where
  pending : t.pending = s.pending
  time : t.time = s.time
  device : t.device = s.device
    ∨ (halts = true ∧ s.device.state = .running
      ∧ ∃ c, t.device = { s.device with state := .halted, haltCause := c })
  memory : s.MemoryOk → t.MemoryOk
  segments : s.SegmentsOk → t.SegmentsOk
  tags : s.TagsOk → t.TagsOk
  fences : s.FencesOk → t.FencesOk
  room : s.RoomOk → t.RoomOk
  broadcast : s.BroadcastOk → t.BroadcastOk

variable {halts : Bool}

theorem Steady.refl (s : State) : Steady halts s s :=
  ⟨rfl, rfl, Or.inl rfl, id, id, id, id, id, id⟩

theorem Steady.trans {s t u : State} (h : Steady halts s t) (k : Steady halts t u) : Steady halts s u where
  pending := k.pending.trans h.pending
  time := k.time.trans h.time
  device := by
    rcases k.device with kd | ⟨kh, kr, c, kd⟩
    · rcases h.device with hd | ⟨hh, hr, c, hd⟩
      · exact Or.inl (kd.trans hd)
      · exact Or.inr ⟨hh, hr, c, kd.trans hd⟩
    · rcases h.device with hd | ⟨_, hr, c', hd⟩
      · exact Or.inr ⟨kh, by rw [← hd]; exact kr, c, by rw [kd, hd]⟩
      · rw [hd] at kr; cases kr
  memory := fun m => k.memory (h.memory m)
  segments := fun m => k.segments (h.segments m)
  tags := fun m => k.tags (h.tags m)
  fences := fun m => k.fences (h.fences m)
  room := fun m => k.room (h.room m)
  broadcast := fun m => k.broadcast (h.broadcast m)

theorem Steady.whenRunning {s t : State} (h : s.device.state = .running → Steady halts s t) :
    Steady halts s (s.whenRunning t) := by
  unfold State.whenRunning
  split
  · next hr => exact h hr
  · exact Steady.refl s

/-! ### How the invariants are carried over -/

theorem State.heldSegments_congr {s t : State}
    (h : ∀ i, (t.entry i).requestChain = (s.entry i).requestChain
      ∧ (t.entry i).replyReservation = (s.entry i).replyReservation) :
    t.heldSegments = s.heldSegments := by
  simp only [State.heldSegments]
  congr 1
  funext i
  rw [(h i).1, (h i).2]

theorem State.SegmentsOk.congr {s t : State} (hs : s.SegmentsOk)
    (hq : t.store.freeQueue = s.store.freeQueue)
    (h : ∀ i, (t.entry i).requestChain = (s.entry i).requestChain
      ∧ (t.entry i).replyReservation = (s.entry i).replyReservation)
    (hf : ∀ i, (t.entry i).state = .free ↔ (s.entry i).state = .free) : t.SegmentsOk := by
  refine ⟨?_, fun i hi => ?_⟩
  · rw [hq, State.heldSegments_congr h]; exact hs.1
  · rw [(h i).1, (h i).2]; exact hs.2 i ((hf i).1 hi)

theorem State.TagsOk.congr {s t : State} (hs : s.TagsOk)
    (h : ∀ i, (t.entry i).ring = (s.entry i).ring ∧ (t.entry i).tag = (s.entry i).tag)
    (hf : ∀ i, (t.entry i).state = .free ↔ (s.entry i).state = .free) : t.TagsOk := by
  intro i j hij hi hj hr
  rw [(h i).1, (h j).1] at hr
  rw [(h i).2, (h j).2]
  exact hs i j hij (fun e => hi ((hf i).2 e)) (fun e => hj ((hf j).2 e)) hr

theorem State.FencesOk.keep {s t : State} (hs : s.FencesOk)
    (hw : ∀ i, (t.entry i).state = .fenceWait → (s.entry i).state = .fenceWait)
    (h : ∀ i, (t.entry i).kind = (s.entry i).kind ∧ (t.entry i).station = (s.entry i).station) :
    t.FencesOk := by
  intro j hj
  rw [(h j).1, (h j).2]
  exact hs j (hw j hj)

theorem State.FencesOk.congr {s t : State} (hs : s.FencesOk) (h : ∀ i, t.entry i = s.entry i) :
    t.FencesOk := by
  intro j hj
  rw [h j] at hj ⊢
  exact hs j hj

/-- The fences stay so when one entry changes, to no fence or to a proper one. -/
theorem State.FencesOk.change {s t : State} (hs : s.FencesOk) (i : EntryIx)
    (h : ∀ j, j ≠ i → t.entry j = s.entry j)
    (hn : (t.entry i).state = .fenceWait → (t.entry i).kind = .fence ∧ (t.entry i).station = none) :
    t.FencesOk := by
  intro j hj
  by_cases e : j = i
  · subst e; exact hn hj
  · rw [h j e] at hj ⊢; exact hs j hj

theorem State.RoomOk.congr {s t : State} (hs : s.RoomOk) (hd : t.device = s.device)
    (hc : t.cplRing = s.cplRing) (hi : t.indRing = s.indRing)
    (hp : t.retire.posting = s.retire.posting) (hw : t.ind.writing = s.ind.writing) : t.RoomOk := by
  unfold State.RoomOk State.unseen State.writtenRing State.cfg at hs ⊢
  rw [hd, hc, hi, hp, hw]
  exact hs

/-- As `congr`, where an indication write may have begun: it begins only with room in its ring. -/
theorem State.RoomOk.congr_room {s t : State} (hs : s.RoomOk) (hd : t.device = s.device)
    (hc : t.cplRing = s.cplRing) (hi : t.indRing = s.indRing)
    (hp : t.retire.posting = s.retire.posting)
    (hw : t.ind.writing ≠ s.ind.writing → s.device.state = .running ∧ s.hasRoom .indication = true) :
    t.RoomOk := by
  by_cases e : t.ind.writing = s.ind.writing
  · exact hs.congr hd hc hi hp e
  · obtain ⟨hr, hroom⟩ := hw e
    have eu : ∀ r, t.unseen r = s.unseen r := by
      intro r; cases r <;> simp [State.unseen, State.writtenRing, hc, hi]
    have ec : t.cfg = s.cfg := by simp [State.cfg, hd]
    refine ⟨fun h => ?_, fun h => ?_⟩
    · rw [hd, hr] at h; simp at h
    · rw [hd] at h
      obtain ⟨h1, h2, h3, h4, h5, h6⟩ := hs.2 h
      rw [ec, eu, eu, hp]
      exact ⟨h1, h2, h3, h4, h5, fun _ => of_decide_eq_true hroom⟩

/-- An operation that leaves entries, stations and segments alone, and the writing of records too. -/
theorem Steady.of_eq {s t : State} (hp : t.pending = s.pending) (ht : t.time = s.time)
    (hd : t.device = s.device) (he : t.entries = s.entries) (hst : t.stations = s.stations)
    (hs : t.store = s.store) (hc : t.cplRing = s.cplRing) (hi : t.indRing = s.indRing)
    (hpo : t.retire.posting = s.retire.posting) (hw : t.ind.writing = s.ind.writing) : Steady halts s t where
  pending := hp
  time := ht
  device := Or.inl hd
  memory := fun m => by unfold State.MemoryOk at m ⊢; rw [hs]; exact m
  segments := fun m => m.congr (by rw [hs]) (by simp [State.entry, he]) (by simp [State.entry, he])
  tags := fun m => m.congr (by simp [State.entry, he]) (by simp [State.entry, he])
  fences := fun m => m.congr (by simp [State.entry, he])
  room := fun m => m.congr hd hc hi hpo hw
  broadcast := fun m l => by
    have := m l
    simp only [State.station, hst] at this ⊢
    exact this

/-- Work of a line is steady. -/
theorem Keeps.steady {l : Line} {s t : State} (h : Keeps l s t) : Steady halts s t where
  pending := h.pending
  time := h.time
  device := Or.inl h.device
  memory := h.memory
  segments := fun m => m.congr h.freeQueue (fun i => by
    have h1 := congrArg Entry.requestChain (h.identity i)
    have h2 := congrArg Entry.replyReservation (h.identity i)
    exact ⟨h1, h2⟩) h.occupied
  tags := fun m => m.congr (fun i => by
    have h1 := congrArg Entry.ring (h.identity i)
    have h2 := congrArg Entry.tag (h.identity i)
    exact ⟨h1, h2⟩) h.occupied
  fences := fun m => m.keep h.fences fun i => by
    have h1 := congrArg Entry.kind (h.identity i)
    have h2 := congrArg Entry.station (h.identity i)
    exact ⟨h1, h2⟩
  room := fun m => m.congr_room h.device h.cplRing h.indRing h.posting h.writing
  broadcast := fun m l => h.broadcast l (m l)

/-! ### What begins of itself -/

theorem Steady.grantStage (s : State) : Steady halts s s.grantStage :=
  Steady.of_eq (by simp) (by simp) (by simp) (by simp) (by simp) (by simp) (by simp) (by simp) (by simp)
    (by simp)

theorem Steady.beginPosting (s : State) : Steady halts s s.beginPosting where
  pending := by simp
  time := by simp
  device := Or.inl (by simp)
  memory := fun m => by unfold State.MemoryOk at m ⊢; simpa using m
  segments := fun m => m.congr (by simp) (by simp [State.entry]) (by simp [State.entry])
  tags := fun m => m.congr (by simp [State.entry]) (by simp [State.entry])
  fences := fun m => m.congr (by simp [State.entry])
  room := fun m => by
    by_cases hp : s.beginPosting.retire.posting = s.retire.posting
    · exact m.congr (by simp) (by simp) (by simp) hp (by simp)
    · have hr := State.beginPosting_room s hp
      have hb : s.beginPosting.device = s.device := by simp
      have e : ∀ r, s.beginPosting.unseen r = s.unseen r := by
        intro r; cases r <;> simp [State.unseen, State.writtenRing]
      have hc : s.beginPosting.cfg = s.cfg := by simp [State.cfg]
      refine ⟨fun h => ?_, fun h => ?_⟩
      · rw [hb, hr.1] at h; simp at h
      · rw [hb] at h
        obtain ⟨h1, h2, h3, h4, h5, h6⟩ := m.2 h
        rw [hc, e, e]
        refine ⟨h1, h2, h3, h4, fun _ => ?_, fun hw => h6 (by simpa using hw)⟩
        exact of_decide_eq_true hr.2
  broadcast := fun m l => by
    have := m l
    simpa [State.station] using this

theorem Steady.beginIndication (s : State) : Steady halts s s.beginIndication where
  pending := by simp
  time := by simp
  device := Or.inl (by simp)
  memory := fun m => by unfold State.MemoryOk at m ⊢; simpa using m
  segments := fun m => m.congr (by simp) (by simp [State.entry]) (by simp [State.entry])
  tags := fun m => m.congr (by simp [State.entry]) (by simp [State.entry])
  fences := fun m => m.congr (by simp [State.entry])
  room := fun m =>
    m.congr_room (by simp) (by simp) (by simp) (by simp) (State.beginIndication_room s)
  broadcast := fun m l => by
    have := m l
    simpa [State.station] using this

theorem Steady.wake (s : State) : Steady halts s s.wake :=
  (Steady.grantStage s).trans ((Steady.beginPosting _).trans (Steady.beginIndication _))

/-! ### The port, the holds and the places -/

theorem Steady.placed (s : State) (addr : HostAddr) (bytes : List Byte) :
    Steady halts s (s.placed addr bytes) := by
  unfold State.placed
  split
  · exact Steady.refl s
  · exact Steady.of_eq rfl rfl rfl rfl rfl rfl rfl rfl rfl rfl

theorem Steady.placedRecordPart (s : State) (w : WriteAccess) (n : Nat) :
    Steady halts s (s.placedRecordPart w n) := Steady.placed s _ _

theorem Steady.placedShadowPart (s : State) (w : WriteAccess) (n : Nat) :
    Steady halts s (s.placedShadowPart w n) := by
  unfold State.placedShadowPart
  split
  · exact Steady.placed s _ _
  · split
    · exact Steady.placed s _ _
    · exact Steady.refl s

theorem Steady.stopShadow (s : State) (skip : Option WriteId) (n : Nat) (r : Ring) :
    Steady halts s (s.stopShadow skip n r) := by
  unfold State.stopShadow
  split
  · split
    · exact Steady.refl s
    · exact Steady.placedShadowPart s _ _
  · exact Steady.refl s

theorem Steady.stopPosting (s : State) (skip : Option WriteId) (n : Nat) :
    Steady halts s (s.stopPosting skip n) := by
  unfold State.stopPosting
  split
  · exact Steady.refl s
  · split
    · split
      · exact Steady.refl s
      · exact Steady.placed s _ _
    · exact Steady.refl s
  · split
    · split
      · exact Steady.refl s
      · exact Steady.placedRecordPart s _ _
    · exact Steady.refl s

theorem Steady.stopIndication (s : State) (skip : Option WriteId) (n : Nat) :
    Steady halts s (s.stopIndication skip n) := by
  unfold State.stopIndication
  split
  · split
    · split
      · exact Steady.refl s
      · exact Steady.placedRecordPart s _ _
    · exact Steady.refl s
  · exact Steady.refl s

theorem Steady.stopWrites (s : State) (skip : Option WriteId) : Steady halts s (s.stopWrites skip) := by
  unfold State.stopWrites
  exact (Steady.stopShadow s _ _ _).trans ((Steady.stopShadow _ _ _ _).trans
    ((Steady.stopPosting _ _ _).trans ((Steady.stopIndication _ _ _).trans
      (Steady.of_eq rfl rfl rfl rfl rfl rfl rfl rfl rfl rfl))))

/-! ### The holds, the stage and the places -/

theorem Steady.modRing (s : State) (r : Ring) (f : RingUnit → RingUnit) : Steady halts s (s.modRing r f) :=
  Steady.of_eq rfl rfl rfl rfl rfl rfl rfl rfl rfl rfl

theorem Steady.modHold (s : State) (r : Ring) (f : Hold → Hold) : Steady halts s (s.modHold r f) :=
  Steady.modRing s r _

theorem Steady.setPlace (s : State) (p : PlaceIx) (c : Option Immediate) : Steady halts s (s.setPlace p c) :=
  Steady.of_eq rfl rfl rfl rfl rfl rfl rfl rfl rfl rfl

theorem Steady.enqueue (s : State) (item : RetireItem) : Steady halts s (s.enqueue item) :=
  Steady.of_eq rfl rfl rfl rfl rfl rfl rfl rfl rfl rfl

theorem Steady.applied (s : State) (g : Grant) : Steady halts s (s.applied g) :=
  Steady.of_eq rfl rfl rfl rfl rfl rfl rfl rfl rfl rfl

theorem Steady.numbered (s : State) : Steady halts s s.numbered :=
  Steady.of_eq rfl rfl rfl rfl rfl rfl rfl rfl rfl rfl

theorem Steady.leaveHold (s : State) (r : Ring) : Steady halts s (s.leaveHold r) := Steady.modRing s r _

theorem Steady.applyAndLeave (s : State) (g : Grant) : Steady halts s (s.applyAndLeave g) :=
  (Steady.numbered s).trans ((Steady.applied _ g).trans (Steady.leaveHold _ _))

theorem Steady.setAside (s : State) (g : Grant) (lacks : List Resource) :
    Steady halts s (s.setAside g lacks) :=
  Steady.of_eq rfl rfl rfl rfl rfl rfl rfl rfl rfl rfl

theorem Steady.returned (s : State) (x : Resource) : Steady halts s (s.returned x) :=
  (Steady.modHold s .h _).trans (Steady.modHold _ .l _)

theorem Steady.returnedEntry (s : State) (held : Bool) : Steady halts s (s.returnedEntry held) := by
  unfold State.returnedEntry
  split
  · exact (Steady.returned s _).trans (Steady.returned _ _)
  · exact Steady.returned s _

theorem Steady.placeImmediate (s : State) (p : PlaceIx) (c : Immediate) :
    Steady halts s (s.placeImmediate p c) :=
  (Steady.setPlace s p _).trans (Steady.enqueue _ _)

/-- A record that completes at once is steady when its effect is. -/
theorem Steady.completeNow {s : State} (g : Grant) (b : List Byte)
    {f : State → State × Status × List Byte} (h : Steady halts s (f s).1) : Steady halts s (s.completeNow g b f) := by
  unfold State.completeNow
  split
  · exact Steady.setAside s g _
  · exact h.trans ((Steady.placeImmediate _ _ _).trans (Steady.applyAndLeave _ _))

theorem Steady.reject (s : State) (g : Grant) (b : List Byte) (status : Status) :
    Steady halts s (s.reject g b status) := Steady.completeNow g b (Steady.refl s)

/-- The application of the granted record is steady when its effect is. -/
theorem Steady.onGranted {s : State} (isKind : List Byte → Bool) {f : Grant → List Byte → State}
    (h : ∀ g b, Steady halts s (f g b)) : Steady halts s (s.onGranted isKind f) := by
  unfold State.onGranted
  split
  · simp only
    split
    · exact (h _ _).trans (Steady.wake _)
    · exact Steady.refl s
  · exact Steady.refl s

/-! ### The halt -/

theorem Steady.storeRequest (s : State) (i : EntryIx) (bytes : List Byte) :
    Steady halts s (s.storeRequest i bytes) where
  pending := rfl
  time := rfl
  device := Or.inl rfl
  memory := fun m => Memory.writeChain_wf _ _ m
  segments := fun m => m.congr rfl (fun _ => ⟨rfl, rfl⟩) (fun _ => Iff.rfl)
  tags := fun m => m.congr (fun _ => ⟨rfl, rfl⟩) (fun _ => Iff.rfl)
  fences := id
  room := fun m => m.congr rfl rfl rfl rfl rfl
  broadcast := id

theorem Steady.stopRead (s : State) (n : Nat) (r : Ring) : Steady halts s (s.stopRead n r) := by
  unfold State.stopRead
  split
  · split
    · exact Steady.modHold s r _
    · exact Steady.refl s
  · split
    · exact Steady.storeRequest s _ _
    · exact Steady.refl s
  · exact Steady.refl s

theorem Steady.stopReads (s : State) (failed : Option Ring) : Steady halts s (s.stopReads failed) := by
  have h : ∀ (t : State) (c : Prop) [Decidable c] (n : Nat) (r : Ring),
      Steady halts t (if c then t else t.stopRead n r) := by
    intro t c _ n r
    split
    · exact Steady.refl t
    · exact Steady.stopRead t n r
  unfold State.stopReads
  exact (h s _ _ _).trans ((h _ _ _ _).trans (Steady.of_eq rfl rfl rfl rfl rfl rfl rfl rfl rfl rfl))

theorem Steady.halt (s : State) (cause : HaltCause) (source : HaltSource) :
    Steady true s (s.halt cause source) := by
  unfold State.halt
  split
  · next hr =>
    have hs : Steady true s _ :=
      (Steady.stopWrites s source.failedWrite).trans (Steady.stopReads _ source.failedFetch)
    have hd := State.stopped_device s source
    refine hs.trans ?_
    exact
      { pending := rfl
        time := rfl
        device := Or.inr ⟨rfl, by rw [hd]; exact hr, cause, rfl⟩
        memory := id
        segments := fun m => m.congr rfl (fun _ => ⟨rfl, rfl⟩) (fun _ => Iff.rfl)
        tags := fun m => m.congr (fun _ => ⟨rfl, rfl⟩) (fun _ => Iff.rfl)
        fences := id
        room := fun m => ⟨fun e => by simp at e, fun _ => m.2 (Or.inl (by rw [hd]; exact hr))⟩
        broadcast := id }
  · exact Steady.refl s

/-! ### Entries and segments -/

/-- The segments held are those of entry `i` and those of the others. -/
theorem State.heldSegments_perm (s : State) (i : EntryIx) :
    s.heldSegments.Perm ((s.entry i).requestChain ++ (s.entry i).replyReservation
      ++ ((List.finRange 64).erase i).flatMap fun j =>
        (s.entry j).requestChain ++ (s.entry j).replyReservation) := by
  unfold State.heldSegments
  have h := List.perm_cons_erase (List.mem_finRange i)
  simpa using (h.flatMap_right fun j => (s.entry j).requestChain ++ (s.entry j).replyReservation)

/-- What the other entries hold is the same when they are. -/
theorem State.otherSegments_congr {s t : State} {i : EntryIx} (h : ∀ j, j ≠ i → t.entry j = s.entry j) :
    (((List.finRange 64).erase i).flatMap fun j =>
        (t.entry j).requestChain ++ (t.entry j).replyReservation)
      = ((List.finRange 64).erase i).flatMap fun j =>
        (s.entry j).requestChain ++ (s.entry j).replyReservation := by
  simp only [List.flatMap_def]
  congr 1
  apply List.map_congr_left
  intro j hj
  have : j ≠ i := fun e => by
    rw [e] at hj
    exact (List.Nodup.not_mem_erase (List.nodup_finRange 64)) hj
  rw [h j this]

/-- Segments move between the free queue and one entry, and none is lost. -/
theorem State.SegmentsOk.move {s t : State} (hs : s.SegmentsOk) (i : EntryIx)
    (h : ∀ j, j ≠ i → t.entry j = s.entry j)
    (hm : (t.store.freeQueue ++ ((t.entry i).requestChain ++ (t.entry i).replyReservation)).Perm
      (s.store.freeQueue ++ ((s.entry i).requestChain ++ (s.entry i).replyReservation)))
    (hf : (t.entry i).state = .free → (t.entry i).requestChain = [] ∧ (t.entry i).replyReservation = []) :
    t.SegmentsOk := by
  refine ⟨?_, fun j hj => ?_⟩
  · refine List.Perm.trans ?_ hs.1
    refine ((List.Perm.refl _).append (State.heldSegments_perm t i)).trans ?_
    refine List.Perm.trans ?_ ((List.Perm.refl _).append (State.heldSegments_perm s i)).symm
    rw [State.otherSegments_congr h]
    simpa only [List.append_assoc] using hm.append (List.Perm.refl _)
  · by_cases e : j = i
    · subst e; exact hf hj
    · rw [h j e] at hj ⊢; exact hs.2 j hj

/-- The tags stay distinct when one entry takes a tag that no other occupied entry of its ring holds. -/
theorem State.TagsOk.change {s t : State} (hs : s.TagsOk) (i : EntryIx)
    (h : ∀ j, j ≠ i → t.entry j = s.entry j)
    (hn : (t.entry i).state ≠ .free → ∀ j, j ≠ i → (s.entry j).state ≠ .free →
      (s.entry j).ring = (t.entry i).ring → (s.entry j).tag ≠ (t.entry i).tag) : t.TagsOk := by
  intro a b hab ha hb hr
  by_cases e : a = i
  · subst e
    rw [h b (Ne.symm hab)] at hb hr ⊢
    exact fun e2 => hn ha b (Ne.symm hab) hb hr.symm e2.symm
  · by_cases e2 : b = i
    · subst e2
      rw [h a e] at ha hr ⊢
      exact hn hb a e ha hr
    · rw [h a e] at ha hr ⊢
      rw [h b e2] at hb hr ⊢
      exact hs a b hab ha hb hr

/-- An entry's segments return to the free queue with its freeing. -/
theorem Steady.freeEntryAt (s : State) (i : EntryIx) : Steady halts s (s.freeEntryAt i) where
  pending := rfl
  time := rfl
  device := Or.inl rfl
  memory := id
  segments := fun m => by
    refine m.move i (fun j hj => ?_) ?_ (fun _ => ?_)
    · exact Table.get_set_ne _ _ (Ne.symm hj)
    · simp only [State.freeEntryAt, State.entry, Table.get_set_self]
      simp [Entry.reset]
    · simp only [State.freeEntryAt, State.entry, Table.get_set_self]
      exact ⟨rfl, rfl⟩
  tags := fun m => by
    refine m.change i (fun j hj => Table.get_set_ne _ _ (Ne.symm hj)) (fun h => ?_)
    exact absurd (by simp [State.freeEntryAt, State.entry, Entry.reset]) h
  fences := fun m => m.change i (fun j hj => Table.get_set_ne _ _ (Ne.symm hj)) fun h => by
    simp [State.freeEntryAt, State.entry, Entry.reset] at h
  room := fun m => m.congr rfl rfl rfl rfl rfl
  broadcast := id

/-- An entry whose tag, ring and segments stay, and that is as free as it was. -/
theorem Steady.setEntry (s : State) (i : EntryIx) (e : Entry)
    (h : e.identity = (s.entry i).identity) (hf : e.state = .free ↔ (s.entry i).state = .free)
    (hw : e.state = .fenceWait → (s.entry i).state = .fenceWait := by first | exact id | simp) :
    Steady halts s (s.setEntry i e) :=
  (Keeps.setEntry 0 s i e h hf hw).steady

theorem Steady.settleLine (s : State) (l : Line) : Steady halts s (s.settleLine l) :=
  (Keeps.settleLine l s).steady

theorem Steady.retireFor (s : State) (i : EntryIx) (status : Status) (release : Option Nat)
    (abort : Option PlaceIx) : Steady halts s (s.retireFor i status release abort) :=
  (Keeps.retireFor 0 s i status release abort).steady

theorem Steady.retireEntry (s : State) (i : EntryIx) (status : Status) (release : Option Nat) :
    Steady halts s (s.retireEntry i status release) :=
  Steady.retireFor s i status release _

end Sys2Proof.Machine
end

