-- ==== Sys2Proof/Laws/Application.lean ====
section
/-! SUPPORT. That the application of a record, the end of a load, a posting and an indication write keep
what Steady says: one lemma per shared operation. -/

namespace Sys2Proof.Machine

/-! ### Placement and loads -/

variable {halts : Bool}

theorem Steady.modLine (s : State) (l : Line) (f : LineEngine → LineEngine) : Steady halts s (s.modLine l f) :=
  Steady.of_eq rfl rfl rfl rfl rfl rfl rfl rfl rfl rfl

theorem Steady.indicate (s : State) (l : Line) (body : IndicationBody) :
    Steady halts s (s.indicate l body) := by
  unfold State.indicate State.takeIndication
  refine (Steady.beginIndication s).trans ?_
  split
  · refine Steady.trans ?_ (Steady.beginIndication _)
    exact Steady.of_eq rfl rfl rfl rfl rfl rfl rfl rfl rfl rfl
  · exact Steady.of_eq rfl rfl rfl rfl rfl rfl rfl rfl rfl rfl

/-- A change of station records is steady when it keeps the record of address 31. -/
theorem Steady.stations {s t : State} (h : t = { s with stations := t.stations })
    (hb : ∀ l, (s.station l broadcastStation).isBroadcast → (t.station l broadcastStation).isBroadcast) :
    Steady halts s t := by
  have e : t.entry = s.entry := by unfold State.entry; rw [h]
  refine
    { pending := by rw [h]
      time := by rw [h]
      device := Or.inl (by rw [h])
      memory := fun m => by unfold State.MemoryOk at m ⊢; rw [h]; exact m
      segments := fun m => m.congr (by rw [h]) (fun i => by rw [e]; exact ⟨rfl, rfl⟩)
        (fun i => by rw [e])
      tags := fun m => m.congr (fun i => by rw [e]; exact ⟨rfl, rfl⟩) (fun i => by rw [e])
      fences := fun m => m.congr (fun i => by rw [e])
      room := fun m => m.congr (by rw [h]) (by rw [h]) (by rw [h]) (by rw [h]) (by rw [h])
      broadcast := fun m l => hb l (m l) }

theorem Steady.modStation (s : State) (l : Line) (a : Station) (f : StationRecord → StationRecord)
    (h : ∀ r : StationRecord, a = broadcastStation → r.isBroadcast → (f r).isBroadcast) :
    Steady halts s (s.modStation l a f) := by
  refine Steady.stations rfl fun m hm => ?_
  unfold State.modStation
  rw [State.station_setStation]
  split
  · next e =>
    obtain ⟨e1, e2⟩ := e
    subst e1
    exact h _ e2 (by rw [e2]; exact hm)
  · exact hm

theorem Steady.mapStations (s : State) (l : Line) (f : StationRecord → StationRecord)
    (h : ∀ r : StationRecord, r.isBroadcast → (f r).isBroadcast) : Steady halts s (s.mapStations l f) := by
  refine Steady.stations rfl fun m hm => ?_
  by_cases e : l = m
  · subst e
    have : (s.mapStations l f).station l broadcastStation = f (s.station l broadcastStation) := by
      simp [State.mapStations, State.station]
    rw [this]
    exact h _ hm
  · have : (s.mapStations l f).station m broadcastStation = s.station m broadcastStation := by
      simp [State.mapStations, State.station, Table.get_set_ne _ _ e]
    rw [this]
    exact hm

theorem StationRecord.pushFifo_isBroadcast {r : StationRecord} (xs : List EntryIx)
    (h : r.isBroadcast) : ({ r with fifo := xs } : StationRecord).isBroadcast := by
  unfold StationRecord.isBroadcast at h ⊢
  rw [h]

theorem Steady.placeEntry (s : State) (i : EntryIx) : Steady halts s (s.placeEntry i) := by
  unfold State.placeEntry
  simp only
  cases hs : (s.entry i).state <;> try exact Steady.refl s
  cases ha : (s.entry i).station with
  | none => exact Steady.refl s
  | some a =>
    simp only
    cases (s.line (s.entry i).line).state <;> simp only <;> try exact Steady.retireEntry _ _ _ _
    all_goals
      split
      · exact Steady.retireEntry _ _ _ _
      · refine Steady.trans (t := s.modStation (s.entry i).line a fun r =>
          { r with fifo := r.fifo ++ [i] }) ?_ ?_
        · exact Steady.modStation _ _ _ _ fun r _ hr => StationRecord.pushFifo_isBroadcast _ hr
        · refine Steady.setEntry _ _ _ (by simp [Entry.identity, ha]) ⟨fun e => ?_, fun e => ?_⟩
          · simp at e
          · rw [State.modStation_entry, hs] at e
            cases e

theorem Steady.placeLoaded (s : State) (r : Ring) (i : EntryIx) : Steady halts s (s.placeLoaded r i) :=
  (Steady.placeEntry s i).trans ((Steady.leaveHold _ r).trans (Steady.returned _ _))

theorem Steady.placeOther (s : State) (r : Ring) : Steady halts s (s.placeOther r) := by
  unfold State.placeOther
  split
  · exact Steady.placeLoaded s _ _
  · exact Steady.refl s

theorem Steady.loadDone (s : State) (r : Ring) (i : EntryIx) : Steady halts s (s.loadDone r i) := by
  unfold State.loadDone
  split
  · exact Steady.modHold s r _
  · exact (Steady.placeLoaded s r i).trans ((Steady.placeOther _ r).trans (Steady.settleLine _ _))

theorem Steady.loadFailed (s : State) (r : Ring) (i : EntryIx) : Steady halts s (s.loadFailed r i) :=
  (Steady.freeEntryAt s i).trans ((Steady.modHold _ r _).trans ((Steady.returnedEntry _ _).trans
    ((Steady.returned _ _).trans ((Steady.placeOther _ r).trans (Steady.settleLine _ _)))))

/-! ### The records -/

/-- No occupied entry of a ring holds a tag that is not found. -/
theorem State.findTag_none {s : State} {r : Ring} {tag : Half} (h : s.findTag r tag = none)
    (j : EntryIx) (hj : (s.entry j).state ≠ .free) (hr : (s.entry j).ring = r) :
    (s.entry j).tag ≠ tag := by
  intro e
  have := List.find?_eq_none.1 h j (List.mem_finRange j)
  simp [hj, hr, e] at this

/-- The entry found is FREE, and none before it is. -/
theorem State.freeEntry_some {s : State} {i : EntryIx} (h : s.freeEntry = some i) :
    (s.entry i).state = .free := by
  have := List.find?_some h
  simpa using this

/-- The free queue split by a demand. -/
theorem perm_take_drop (xs : List SegIx) (a b : Nat) :
    (xs.drop (a + b) ++ (xs.take a ++ (xs.drop a).take b)).Perm xs := by
  refine List.perm_append_comm.trans ?_
  rw [List.append_assoc, ← List.drop_drop, List.take_append_drop,
    List.take_append_drop]

theorem Steady.transactTake (s : State) (g : Grant) (b : List Byte) (i : EntryIx)
    (hf : (s.entry i).state = .free) (ht : s.findTag g.ring (recTag b) = none) :
    Steady halts s (s.transactTake g b i) := by
  have key : Steady halts s { s.setEntry i (s.transactEntry g.ring b) with
      store := { (s.setEntry i (s.transactEntry g.ring b)).store with
        freeQueue := (s.setEntry i (s.transactEntry g.ring b)).store.freeQueue.drop (demand b) } } := by
    have he : ∀ j, j ≠ i → (s.setEntry i (s.transactEntry g.ring b)).entry j = s.entry j :=
      fun j hj => Table.get_set_ne _ _ (Ne.symm hj)
    have hi : (s.setEntry i (s.transactEntry g.ring b)).entry i = s.transactEntry g.ring b :=
      Table.get_set_self _ _ _
    refine
      { pending := rfl, time := rfl, device := Or.inl rfl, memory := id
        segments := fun m => m.move i he ?_ ?_
        tags := fun m => m.change i he ?_
        fences := fun m => m.change i he fun h => by
          have h2 : ((s.setEntry i (s.transactEntry g.ring b)).entry i).state = .fenceWait := h
          rw [hi] at h2
          cases h2
        room := fun m => m.congr rfl rfl rfl rfl rfl
        broadcast := id }
    · obtain ⟨h1, h2⟩ := m.2 i hf
      rw [h1, h2]
      show List.Perm (_ ++ (((s.setEntry i _).entry i).requestChain
        ++ ((s.setEntry i _).entry i).replyReservation)) _
      rw [hi]
      simpa [demand, State.transactEntry] using
        perm_take_drop s.store.freeQueue (requestPart b) (segmentsFor (recReplyLimit b))
    · intro h
      have h2 : ((s.setEntry i (s.transactEntry g.ring b)).entry i).state = .free := h
      rw [hi] at h2
      cases h2
    · intro _ j _ hj hr
      have h2 : (s.entry j).ring = g.ring := by
        have : (s.entry j).ring = ((s.setEntry i (s.transactEntry g.ring b)).entry i).ring := hr
        rwa [hi] at this
      have h3 := State.findTag_none ht j hj h2
      show (s.entry j).tag ≠ ((s.setEntry i (s.transactEntry g.ring b)).entry i).tag
      rw [hi]
      exact h3
  unfold State.transactTake
  simp only
  have k2 := key.trans ((Steady.numbered _).trans ((Steady.applied _ g).trans
    (Steady.modHold _ g.ring fun h => { h with state := .loading i false })))
  split
  · exact k2.trans (Steady.loadDone _ _ _)
  · exact k2

theorem Steady.fenceTake (s : State) (g : Grant) (b : List Byte) (i : EntryIx)
    (hf : (s.entry i).state = .free) (ht : s.findTag g.ring (recTag b) = none) :
    Steady halts s (s.fenceTake g b i) := by
  have key : Steady halts s (s.setEntry i (s.fenceEntry g.ring b)) := by
    have he : ∀ j, j ≠ i → (s.setEntry i (s.fenceEntry g.ring b)).entry j = s.entry j :=
      fun j hj => Table.get_set_ne _ _ (Ne.symm hj)
    have hi : (s.setEntry i (s.fenceEntry g.ring b)).entry i = s.fenceEntry g.ring b :=
      Table.get_set_self _ _ _
    refine
      { pending := rfl, time := rfl, device := Or.inl rfl, memory := id
        segments := fun m => m.move i he ?_ ?_
        tags := fun m => m.change i he ?_
        fences := fun m => m.change i he fun h => by rw [hi]; exact ⟨rfl, rfl⟩
        room := fun m => m.congr rfl rfl rfl rfl rfl
        broadcast := id }
    · obtain ⟨h1, h2⟩ := m.2 i hf
      rw [hi, h1, h2]
      exact List.Perm.refl _
    · intro _
      rw [hi]
      exact ⟨rfl, rfl⟩
    · intro _ j _ hj hr
      rw [hi] at hr ⊢
      exact State.findTag_none ht j hj hr
  unfold State.fenceTake
  simp only
  refine key.trans (Steady.trans ?_ (Steady.applyAndLeave _ g))
  split
  · refine (Keeps.retireCore 0 _ i _ _ _ ?_).steady
    show ((s.entries.set i _).get i).state ≠ .free
    rw [Table.get_set_self]
    exact fun e => by cases e
  · exact Steady.refl _

/-! ### The ends of writes -/

/-- A count, a freeing and a queue that moves on: the posting of a completion. -/
theorem Steady.posted (s : State) (q : QueuedItem) (hp : s.retire.posting ≠ .idle)
    (hr : s.device.state = .running) : Steady halts s (s.posted q) := by
  have hc : Steady halts s { s.countPosted .completion with
      retire := { (s.countPosted .completion).retire with posting := .idle } } := by
    refine
      { pending := rfl, time := rfl, device := Or.inl rfl, memory := id
        segments := fun m => m.congr rfl (fun _ => ⟨rfl, rfl⟩) (fun _ => Iff.rfl)
        tags := fun m => m.congr (fun _ => ⟨rfl, rfl⟩) (fun _ => Iff.rfl)
        fences := id
        room := fun m => ⟨fun h => ?_, fun h => ?_⟩
        broadcast := id }
    · have h2 : s.device.state = .idle ∨ s.device.state = .starting := h
      rw [hr] at h2
      simp at h2
    · obtain ⟨h1, h2, h3, h4, h5, h6⟩ := m.2 (Or.inl hr)
      refine ⟨h1, h2, ?_, h4, fun h => absurd rfl h, h6⟩
      have h7 := h5 hp
      show (s.cplRing.posted + 1 - s.cplRing.hostHead).toNat ≤ s.cfg.completionRing.size
      have h8 : (s.cplRing.posted - s.cplRing.hostHead).toNat < s.cfg.completionRing.size := h7
      bv_omega
  have hf : ∀ t : State, Steady halts t (t.freeItem q.item) := by
    intro t
    unfold State.freeItem
    split
    · exact (Steady.freeEntryAt t _).trans (Steady.returnedEntry _ _)
    · exact (Steady.setPlace t _ _).trans (Steady.returned _ _)
    · exact (Steady.modLine t _ _).trans (Steady.returned _ _)
  refine hc.trans ((hf _).trans ?_)
  have hs : ∀ (t : State) (b : Bool), t.returnedEntry b = { t with admission := (t.returnedEntry b).admission } := by
    intro t b
    unfold State.returnedEntry
    split <;> rfl
  unfold State.posted
  obtain ⟨item, stamp⟩ := q
  cases item with
  | entry i =>
    simp only [State.freeItem]
    rw [hs ((s.countPosted .completion).freeEntryAt i), hs (State.freeEntryAt _ i)]
    exact Steady.of_eq rfl rfl rfl rfl rfl rfl rfl rfl rfl rfl
  | immediate p => exact Steady.of_eq rfl rfl rfl rfl rfl rfl rfl rfl rfl rfl
  | lineControl l => exact Steady.of_eq rfl rfl rfl rfl rfl rfl rfl rfl rfl rfl

theorem Steady.indicationWritten (s : State) (hw : s.ind.writing = true)
    (hr : s.device.state = .running) : Steady halts s s.indicationWritten := by
  refine
    { pending := rfl, time := rfl, device := Or.inl rfl, memory := id
      segments := fun m => m.congr rfl (fun _ => ⟨rfl, rfl⟩) (fun _ => Iff.rfl)
      tags := fun m => m.congr (fun _ => ⟨rfl, rfl⟩) (fun _ => Iff.rfl)
      fences := id
      room := fun m => ⟨fun h => ?_, fun h => ?_⟩
      broadcast := id }
  · have h2 : s.device.state = .idle ∨ s.device.state = .starting := h
    rw [hr] at h2
    simp at h2
  · obtain ⟨h1, h2, h3, h4, h5, h6⟩ := m.2 (Or.inl hr)
    refine ⟨h1, h2, h3, ?_, h5, fun h => by cases h⟩
    have h7 := h6 hw
    show (s.indRing.posted + 1 - s.indRing.hostHead).toNat ≤ s.cfg.indicationRing.size
    have h8 : (s.indRing.posted - s.indRing.hostHead).toNat < s.cfg.indicationRing.size := h7
    bv_omega

end Sys2Proof.Machine
end

