-- ==== Sys2Proof/Laws/Frames.lean ====
section
/-! SUPPORT. The frames of Safety.lean: how they compose, and that what the part begins of itself (a grant
of the stage, a posting, an indication write) keeps them. -/

namespace Sys2Proof.Machine

theorem State.SameHost.refl (s : State) : s.SameHost s :=
  ⟨rfl, rfl, rfl, rfl, rfl, rfl, rfl, rfl, rfl⟩

theorem State.SameHost.trans {s t u : State} (h : s.SameHost t) (k : t.SameHost u) : s.SameHost u :=
  ⟨k.pending.trans h.pending, k.resetInput.trans h.resetInput, k.device.trans h.device,
    k.time.trans h.time, k.cplRing.trans h.cplRing, k.indRing.trans h.indRing,
    k.notify.trans h.notify, k.busWrites.trans h.busWrites, k.freeSeq.trans h.freeSeq⟩

theorem State.SameWork.refl (s : State) : s.SameWork s := ⟨rfl, rfl, rfl, rfl⟩

theorem State.SameWork.trans {s t u : State} (h : s.SameWork t) (k : t.SameWork u) : s.SameWork u :=
  ⟨k.lines.trans h.lines, k.stations.trans h.stations, k.entries.trans h.entries,
    k.store.trans h.store⟩

theorem State.SameAdmission.refl (s : State) : s.SameAdmission s :=
  ⟨fun _ => rfl, rfl, rfl, rfl, rfl, fun _ h => h⟩

theorem State.SameAdmission.trans {s t u : State} (h : s.SameAdmission t) (k : t.SameAdmission u) :
    s.SameAdmission u :=
  ⟨fun r => (k.unit r).trans (h.unit r), k.credit.trans h.credit, k.counter.trans h.counter,
    k.places.trans h.places, k.asked.trans h.asked, fun g e => k.stage g (h.stage g e)⟩

theorem State.SameAdmission.of_eq {s t : State} (h : t.admission = s.admission) : s.SameAdmission t :=
  ⟨fun r => by unfold State.ringUnit; rw [h], by rw [h], by rw [h], by rw [h], by rw [h],
    fun g e => by rw [h]; exact e⟩

theorem State.SameOtherLines.refl (s : State) (l : Line) : s.SameOtherLines s l :=
  ⟨fun _ _ => rfl, fun _ _ _ => rfl⟩

theorem State.SameOtherLines.trans {s t u : State} {l : Line} (h : s.SameOtherLines t l)
    (k : t.SameOtherLines u l) : s.SameOtherLines u l :=
  ⟨fun m e => (k.lines m e).trans (h.lines m e),
    fun m a e => (k.stations m a e).trans (h.stations m a e)⟩

/-! ### What the part begins of itself -/

theorem State.wake_sameHost (s : State) : s.SameHost s.wake := by constructor <;> simp

theorem State.wake_sameWork (s : State) : s.SameWork s.wake := by constructor <;> simp

theorem State.wake_sameAdmission (s : State) : s.SameAdmission s.wake :=
  ⟨fun r => by simp, by simp, by simp, by simp, by simp, fun g h => State.wake_stage_some s g h⟩

theorem State.wake_sameOtherLines (s : State) (l : Line) : s.SameOtherLines s.wake l :=
  ⟨fun _ _ => by simp, fun _ _ _ => by simp⟩

theorem State.wake_noIndication (s : State) : s.NoIndication s.wake := State.wake_ind s

/-- The indication unit after the wake, from what the operation itself did to it. -/
theorem State.noIndication_wake {s t : State} (hi : t.ind = s.ind) (hh : s.SameHost t) :
    s.NoIndication t.wake := by
  unfold State.NoIndication
  rw [State.wake_ind]
  exact State.beginIndication_congr hi hh.device hh.indRing

/-- What the unit does with a record depends on itself, its ring and the device alone. -/
theorem State.takeIndication_congr {s t : State} (hi : t.ind = s.ind) (hd : t.device = s.device)
    (hr : t.indRing = s.indRing) (x : Indication) :
    (t.takeIndication x).ind = (s.takeIndication x).ind := by
  unfold State.takeIndication
  rw [hi]
  split
  · exact State.beginIndication_congr rfl hd hr
  · rfl

/-- What an indication does to the Indication Unit depends on that unit, its ring, the device and the device
time alone. -/
theorem State.indicate_ind_congr {s t : State} (hi : t.ind = s.ind) (ht : t.time = s.time)
    (hd : t.device = s.device) (hr : t.indRing = s.indRing) (l : Line) (b : IndicationBody) :
    (t.indicate l b).ind = (s.indicate l b).ind := by
  unfold State.indicate
  rw [ht]
  exact State.takeIndication_congr (State.beginIndication_congr hi hd hr) (by simpa using hd)
    (by simpa using hr) _

/-- A beginning that has been made is not made again. -/
theorem State.beginIndication_idem (s : State) :
    s.beginIndication.beginIndication.ind = s.beginIndication.ind := by
  unfold State.beginIndication
  split
  · cases hq : s.ind.queue with
    | nil => simp [hq]
    | cons x rest => simp
  · rfl

/-- What the unit may begin it begins before it takes a record, so beginning it first changes nothing. -/
theorem State.indicate_ind_begun {s t : State} (hi : t.ind = s.beginIndication.ind) (ht : t.time = s.time)
    (hd : t.device = s.device) (hr : t.indRing = s.indRing) (l : Line) (b : IndicationBody) :
    (t.indicate l b).ind = (s.indicate l b).ind := by
  unfold State.indicate
  rw [ht]
  refine State.takeIndication_congr ?_ (by simpa using hd) (by simpa using hr) _
  rw [State.beginIndication_congr (s := s.beginIndication) hi (by simpa using hd) (by simpa using hr)]
  exact State.beginIndication_idem s

theorem State.oneIndication_wake {s t : State} {l : Line} {b : IndicationBody}
    (hi : t.ind = (s.indicate l b).ind) (hh : s.SameHost t) : s.OneIndication t.wake l b := by
  unfold State.OneIndication
  rw [State.wake_ind]
  exact State.beginIndication_congr hi (by rw [State.indicate_device]; exact hh.device)
    (by rw [State.indicate_indRing]; exact hh.indRing)

/-! ### The work of a line -/

theorem Keeps.sameHost {l : Line} {s t : State} (h : Keeps l s t) : s.SameHost t :=
  ⟨h.pending, h.resetInput, h.device, h.time, h.cplRing, h.indRing, h.notify, h.busWrites, h.freeSeq⟩

/-- No grant is made away from IDLE. -/
theorem State.evaluate_busy {s : State} {l : Line} (h : (s.line l).phase ≠ .idle) : s.evaluate l = s := by
  have : (s.line l).mayGrant = false := by
    simp only [LineEngine.mayGrant, Bool.and_eq_false_iff]
    left
    simpa using h
  simp [State.evaluate, State.evaluateOnce, this]

/-- A RUNNING line that is not IDLE goes on as it is. -/
theorem State.settleLine_busy {s : State} {l : Line} (h : (s.line l).state = .running)
    (hp : (s.line l).phase ≠ .idle) : s.settleLine l = s := by
  unfold State.settleLine
  rw [h]
  exact State.evaluate_busy hp

/-- The work of a line that is at rest brings nothing about. -/
theorem State.settleLine_rest {s : State} {l : Line}
    (h : (s.line l).state = .stopped ∨ (s.line l).state = .faulted) : s.settleLine l = s := by
  unfold State.settleLine
  rcases h with h | h <;> rw [h]

/-- A STOPPING or DRAINING line waits for the end of its exchange. -/
theorem State.settleLine_inFlight {s : State} {l : Line}
    (h : (s.line l).state = .stopping ∨ (s.line l).state = .draining)
    (hf : (s.line l).inFlight = true) : s.settleLine l = s := by
  unfold State.settleLine
  rcases h with h | h <;> simp [h, hf]

end Sys2Proof.Machine
end

