-- ==== Sys2Proof/Laws/Returns.lean ====
section
/-! SUPPORT. What a return of resources does at the holds that wait (R130): one lemma for one return, and
how returns add up. -/

namespace Sys2Proof.Machine

@[simp] theorem State.ringUnit_returned (s : State) (x : Resource) (r : Ring) :
    (s.returned x).ringUnit r
      = { s.ringUnit r with hold := (s.ringUnit r).hold.onReturn x } := by cases r <;> rfl

/-- A return begins and ends no access. -/
@[simp] theorem State.returned_asked (s : State) (x : Resource) :
    (s.returned x).admission.asked = s.admission.asked := by
  have e : ∀ (t : State) (r : Ring),
      (t.modHold r fun h => h.onReturn x).admission.asked = t.admission.asked := by
    intro t r
    refine (State.modRing_asked _ _ _).trans (orderAsked_same _ rfl ?_)
    unfold Hold.read Hold.onReturn
    cases hw : (t.ringUnit r).hold.state with
    | waiting lacks => by_cases h : x ∈ lacks <;> simp [h, hw]
    | _ => simp [hw]
  exact (e _ .l).trans (e s .h)

theorem State.ReturnedTo.congr {s s' t t' : State} {freed : List Resource} {r : Ring}
    (h : s.ReturnedTo t freed r) (hs : s'.ringUnit r = s.ringUnit r) (ht : t'.ringUnit r = t.ringUnit r) :
    s'.ReturnedTo t' freed r := by
  unfold State.ReturnedTo at h ⊢
  rw [hs, ht]
  exact h

theorem State.ReturnedTo.append {s t u : State} {xs ys : List Resource} {r : Ring}
    (h : s.ReturnedTo t xs r) (k : t.ReturnedTo u ys r) : s.ReturnedTo u (xs ++ ys) r := by
  refine ⟨fun lacks hw hx => ?_, fun hn => ?_⟩
  · by_cases hxs : ∃ x ∈ xs, x ∈ lacks
    · have e := h.1 lacks hw hxs
      rw [k.2 (fun l hl => by rw [e] at hl; cases hl), e]
    · have e := h.2 fun l hl x hx hm => hxs ⟨x, hx, by rw [hw] at hl; cases hl; exact hm⟩
      obtain ⟨x, hm, hl⟩ := hx
      rcases List.mem_append.1 hm with hm | hm
      · exact absurd ⟨x, hm, hl⟩ hxs
      · rw [k.1 lacks (by rw [e]; exact hw) ⟨x, hm, hl⟩, e]
  · have e := h.2 fun l hl x hx => hn l hl x (List.mem_append_left _ hx)
    rw [k.2 fun l hl x hx => hn l (by rw [e] at hl; exact hl) x (List.mem_append_right _ hx), e]

/-- One return (R130). -/
theorem State.returned_to (s : State) (x : Resource) (r : Ring) : s.ReturnedTo (s.returned x) [x] r := by
  refine ⟨fun lacks hw hx => ?_, fun hn => ?_⟩
  · obtain ⟨y, hy, hl⟩ := hx
    rw [List.mem_singleton] at hy
    subst hy
    simp [Hold.onReturn, hw, hl]
  · rw [State.ringUnit_returned]
    have : (s.ringUnit r).hold.onReturn x = (s.ringUnit r).hold := by
      unfold Hold.onReturn
      split
      · next lacks hw => rw [if_neg (hn lacks hw x (List.mem_singleton_self x))]
      · rfl
    rw [this]

/-- The freeing of an entry returns the entry, and segments when it held any (R123, R130). -/
theorem State.returnedEntry_to (s : State) (held : Bool) (r : Ring) :
    s.ReturnedTo (s.returnedEntry held) (.entry :: if held then [.segments] else []) r := by
  unfold State.returnedEntry
  cases held
  · exact s.returned_to .entry r
  · exact (s.returned_to .entry r).append ((s.returned .entry).returned_to .segments r)

end Sys2Proof.Machine
end

