-- ==== Sys2Proof/Tests/Slice0.lean ====
section
/-! SUPPORT. Tests: the checks of WellFormed, one step of each family against the spec's worked sequences,
and for every statement a concrete case that meets its hypotheses. -/

open Sys2Proof Sys2Proof.Machine

-- One elaboration thread: many waiting kernel evaluations would each hold a stack of their own.
set_option Elab.async false

namespace Sys2Proof.Tests

/-! ### Helpers -/

/-- One aperture over the first 1 MiB, all rings of 16 slots but the completion ring of 64, 4 MHz, strays
on, COMPLETION threshold 4 and holdoff 1000, INDICATION threshold 1, re-arm gap 100. -/
def cfg : ConfigCopy where
  ringH := { base := 0x1000, size := 16 }
  ringL := { base := 0x2000, size := 16 }
  completionRing := { base := 0x3000, size := 64 }
  indicationRing := { base := 0x4000, size := 16 }
  shadow := 0x5000
  aperture0 := { base := 0, limit := 0xFF000, read := true, write := true }
  aperture1 := { base := 0, limit := 0, read := false, write := false }
  aperture2 := { base := 0, limit := 0, read := false, write := false }
  aperture3 := { base := 0, limit := 0, read := false, write := false }
  clock := 4
  strays := true
  completionCause := { threshold := 4, holdoff := 1000 }
  indicationCause := { threshold := 1, holdoff := 0 }
  rearmGap := 100

/-- The part in RUNNING on `cfg`, everything else as after reset. -/
def run : State :=
  { State.reset with device := { State.reset.device with state := .running, config := some cfg } }

/-- The part in a device state. -/
def inState (d : DeviceState) : State :=
  { State.reset with device := { State.reset.device with state := d } }

/-- The state a command leads to. -/
def after (c : Instr) (s : State) : State :=
  match exec c s with
  | .next t => t
  | _ => s

/-- A record with the given bytes at the given offsets, zeros elsewhere. -/
def rec (fields : List (Nat × Byte)) : List Byte :=
  (List.range 64).map fun i => (fields.lookup i).getD 0

/-- Ring H's record `b` granted the application stage of `s`. -/
def grantedIn (s : State) (b : List Byte) : State :=
  { s with admission := { s.admission with
      h := { s.admission.h with tail := 1, hold := { state := .ready, bytes := b, readFailed := false } }
      stage := some { ring := .h, lowReady := false } } }

/-- The grant of `grantedIn`. -/
def gH : Grant := { ring := .h, lowReady := false }

/-- `s` with every immediate place held. -/
def noPlaces (s : State) : State :=
  { s with admission := { s.admission with places := Table.fill 8 (some
      { tag := 0, ring := .h, kind := 6, status := .ok, result := zeroResult, target := none }) } }

/-- Line 0 RUNNING in a phase, HUNT. -/
def lineIn (s : State) (p : Phase) : State :=
  s.modLine 0 fun ln => { ln with state := .running, phase := p, receiver := .hunt }

/-- Station 3 of line 0 ONLINE with sequence bit 1. -/
def online3 (s : State) : State :=
  s.modStation 0 2 fun r => { r with state := .online, seqBit := true }

/-- A TRANSACT entry for station 3 of line 0, tag 0x0101 of ring H. -/
def entry3 (st : EntryState) : Entry :=
  { Entry.reset with
    state := st, tag := 0x0101, station := some 2, requestLength := 6, replyLimit := 16
    replyBufferLength := 16, replyBufferAddress := 0x9000, attemptLimit := 3, requestChain := [0]
    replyReservation := [1] }

/-- An exchange of a kind to station 3 of line 0 for an owner, its frame the minimal one. -/
def exchangeOf (k : MasterKind) (o : Owner) : Exchange :=
  { kind := k, owner := o, station := 2, seq := true, flag := false, token := 0, carried := none
    chars := masterChars k 3 true false 0 none [], echoed := 0, beaconTime := 0, beaconNumber := 0 }

/-- Line 0 of `s` with a current exchange. -/
def withExchange (s : State) (ex : Exchange) : State := s.modLine 0 fun ln => { ln with current := some ex }

/-- Line 0 of `s` assembling a frame: all but its last character are in the buffer. -/
def assembling (s : State) (frame : List Byte) : State :=
  s.modLine 0 fun ln => { ln with receiver := .assemble, rxBuffer := frame.dropLast }

/-- A station frame from station 3. -/
def reply3 (kind : Nat) (seq : Bool) (token : Nat) (payload : List Byte) : List Byte :=
  frameChars 3 (ctrlByte kind seq false false true) token 0 payload

/-! ### WellFormed and the decoder -/

theorem test_reset_without_its_bit_is_refused : (Instr.controlReset 1).wellFormed = false := by decide
theorem test_start_with_reset_is_refused : (Instr.controlStart 3).wellFormed = false := by decide
theorem test_write_of_a_taken_register_is_no_ignored_write :
    (Instr.registerWriteIgnored 0x18 4 0).wellFormed = false := by decide
theorem test_write_of_ident_is_ignored : (Instr.registerWriteIgnored 0 4 0).wellFormed = true := by decide
theorem test_short_configuration_block_is_refused :
    (Instr.configReadEnd (.data [0])).wellFormed = false := by decide
theorem test_short_record_is_refused : (Instr.fetchEnd .h (.data [0])).wellFormed = false := by decide
theorem test_record_error_after_its_end_is_refused :
    (Instr.fetchEnd .h (.error (List.replicate 64 0))).wellFormed = false := by decide
theorem test_long_load_is_refused :
    (Instr.loadEnd .h (List.replicate 249 0)).wellFormed = false := by decide +kernel
theorem test_load_error_after_its_end_is_refused :
    (Instr.loadError .h (List.replicate 248 0)).wellFormed = false := by decide +kernel
theorem test_broadcast_has_no_linger : (Instr.releaseLingerExpiry 0 30).wellFormed = false := by decide
theorem test_no_row_gives_bits : decodeTableWord 32 5 = none := by decide

/-! ### Against the spec -/

/-- A read that brings another number of bytes than the record has is the one fault (log 5). -/
theorem test_wrong_record_length_faults :
    exec (.fetchEnd .h (.data [0])) (after (.subTailWrite .h 1) run) = .fault .illFormedOperand :=
  rfl

/-- R7's generator, preset and bit order give 0x29B1 for the characters 1 to 9 (the published check value
of this cyclic redundancy check). -/
theorem test_crc_check_value :
    crc [0x31, 0x32, 0x33, 0x34, 0x35, 0x36, 0x37, 0x38, 0x39] = 0x29B1 := by decide +kernel

/-- R8: the shortest frame is 8 characters; R3 and R5: sync, ADDR, CTRL of a SYNC with SEQ and PURGE. -/
theorem test_sync_frame :
    (masterChars .sync 3 true true 0 none []).take 6 = [0xB4, 3, 0x34, 0, 0, 0] := by decide +kernel

/-- R27's table. -/
theorem test_jabber_lengths :
    (List.range 8).map jabberLength =
      [312500, 156250, 78125, 52084, 26042, 13021, 6511, 3256] := by decide

/-- R169 to R172: START is bit 0 of CONTROL. -/
theorem test_start : (after (.controlStart 1) State.reset).device.state = .starting := by decide +kernel

/-- R161: RESET with START is a reset. -/
theorem test_reset_wins : (after (.controlReset 3) run).device.state = .idle := by decide +kernel

/-- R126: 17 records do not fit a ring of 16. -/
theorem test_tail_error : (after (.subTailWrite .h 17) run).device.haltCause = .ringIndex := by
  decide +kernel

/-- A full ring is no error, and the fetch begins. -/
theorem test_tail_full : (after (.subTailWrite .h 16) run).admission.h.hold.state = .fetching := by
  decide +kernel

/-- R155: a head beyond what was posted halts. -/
theorem test_head_error : (after (.hostHeadWrite .completion 1) run).device.haltCause = .hostHead := by
  decide +kernel

/-- R24: device time wraps to 0. -/
theorem test_time_wraps :
    (after .prescalerCarry { run with time := { run.time with now := 0xFFFFFFFF } }).time.now = 0 := by
  decide +kernel

/-- The worked sequence 'a simple transaction', its record: tag 0x0101, station 3, request 6 bytes, reply
buffer 16 bytes, attempts 0, deadline 0. -/
def simple : List Byte :=
  rec [(0, 1), (2, 1), (3, 1), (4, 3), (10, 6), (12, 16), (25, 0x80), (33, 0x90)]

/-- Its state when the fetch has ended. -/
def simpleReady : State := grantedIn (online3 (lineIn run .idle)) simple

/-- Applied: demand 1 + 1, attempt limit 3, 254 segments free. -/
theorem test_simple_applied :
    let t := after .transact simpleReady
    (t.entry 0).state = .loading ∧ (t.entry 0).requestChain = [0] ∧ (t.entry 0).replyReservation = [1]
      ∧ (t.entry 0).replyLimit = 16 ∧ (t.entry 0).attemptLimit = 3
      ∧ t.store.freeQueue.length = 254 := by decide +kernel

/-- Load ends; placed, and granted at once on the IDLE line: POLL with SEQ 1 and no release item. -/
theorem test_simple_placed :
    let t := after (.loadEnd .h [1, 2, 3, 4, 5, 6]) (after .transact simpleReady)
    (t.entry 0).state = .exchange ∧ (t.entry 0).attemptsUsed = 1 ∧ t.admission.h.head = 1
      ∧ (t.line 0).phase = .transmit
      ∧ (t.line 0).current.map (fun ex => (ex.kind, ex.seq, ex.carried)) = some (.poll, true, none) := by
  decide +kernel

/-- REPLY, SEQ 1, LEN 10, accepted: the sequence bit becomes 0, RETIRING OK with true length 10, 10 bytes
into segment 1. -/
theorem test_simple_reply :
    let f := reply3 8 true 0 [9, 8, 7, 6, 5, 4, 3, 2, 1, 9]
    let s := assembling (withExchange
      (((lineIn (online3 run) .receive).setEntry 0 (entry3 .exchange))) (exchangeOf .poll (.entry 0))) f
    let t := after (.validStationFrame 0 (f.getLastD 0)) s
    (t.entry 0).state = .retiring ∧ (t.entry 0).replyTrueLength = some 10
      ∧ (t.entry 0).final.map (·.status) = some .ok ∧ (t.station 0 2).seqBit = false
      ∧ t.store.bytes.readRun 64 10 = [9, 8, 7, 6, 5, 4, 3, 2, 1, 9] := by decide +kernel

/-- 'The length of one exchange on the wire': a POLL with 10 bytes is 18 characters. -/
theorem test_poll_length :
    (masterChars .poll 3 false false 0 none (List.replicate 10 0)).length = 18 := by decide +kernel

/-- 'Coalescing completions', 1530: the fourth record posted brings unseen to the threshold of 4. -/
def fourth : State :=
  { run with
    cplRing := { posted := 207, hostHead := 204 }
    retire := { queue := [{ item := .immediate 0, stamp := 0 }], posting := .writing false }
    notify := { run.notify with
      completion := { cause := false, holdoff := .running 970, rearm := .stopped }
      mask := { completion := true, indication := false, halt := false } } }

theorem test_threshold_sets_cause :
    let t := after (.completionRecordWriteEnd .done) fourth
    t.notify.completion = { cause := true, holdoff := .stopped, rearm := .stopped }
      ∧ t.interruptActive = true ∧ t.interruptPinHigh = false := by decide +kernel

/-- 1600: 1 written to COMPLETION with unseen 4: holdoff 1000 and re-arm gap 100 started. -/
theorem test_clear_reevaluates :
    let t := after (.notifyCauseWrite 1) (after (.completionRecordWriteEnd .done) fourth)
    t.notify.completion = { cause := false, holdoff := .running 1000, rearm := .running 100 } := by
  decide +kernel

/-- 'A station reaching its threshold': the third failure takes station 14 OFFLINE and its entry 20, with
3 attempts used, retires NO_RESPONSE with MAY_HAVE_EXECUTED, entry 23 STATION_OFFLINE. -/
theorem test_threshold :
    let e20 : Entry :=
      { entry3 .exchange with
        station := some 13, attemptsUsed := 3, everSent := true, unansweredAttempt := true }
    let s := ((run.setEntry 20 e20).setEntry 23 { entry3 .queued with station := some 13 }).modStation 0 13
      fun r => { r with state := .online, seqBit := true, failures := 2, fifo := [20, 23] }
    let t := after (.responseWindowExpiry 0) (withExchange (s.modLine 0 fun ln =>
      { ln with state := .running, phase := .listen, receiver := .hunt, windowTimer := .expired })
      { exchangeOf .poll (.entry 20) with station := 13 })
    (t.station 0 13).state = .offline ∧ (t.station 0 13).failures = 3 ∧ (t.station 0 13).fifo = []
      ∧ (t.entry 20).final.map (fun f => (f.status, f.flags.mayHaveExecuted)) = some (.noResponse, true)
      ∧ (t.entry 23).final.map (·.status) = some .stationOffline
      ∧ t.retire.queue.map (·.item) = [.entry 20, .entry 23] := by decide +kernel

/-- 'The fairness credit', grant 9: at a credit of 8 the ring L head goes before a ring H head. -/
theorem test_fairness :
    let s := ((((lineIn run .idle).setEntry 0 (entry3 .queued)).setEntry 1
      { entry3 .queued with ring := .l, station := some 8 }).modStation 0 2 fun r =>
      { r with state := .online, fifo := [0] }).modStation 0 8 fun r =>
      { r with state := .online, fifo := [1] }
    s.choose 0 = some (.head 2 0)
      ∧ (s.modLine 0 fun ln => { ln with credit := 8 }).choose 0 = some (.head 8 1) := by decide +kernel

/-- R103: a DEFER under a token that a deferred entry of the station holds fails the token test. -/
theorem test_token_test :
    let s := (online3 run).modStation 0 2 fun r => { r with deferred := [5] }
    (s.setEntry 5 { entry3 .deferred with token := some 7 }).tokenTest 0 (exchangeOf .poll (.entry 0)) 7
      = false := by decide +kernel

/-- R39: a SET with a turnaround gap of 19 is out of range. -/
theorem test_set_out_of_range :
    ({ LineParams.defaults with turnaroundGap := 19 } : LineParams).inRange = false := by decide

end Sys2Proof.Tests

/-! ### Cases that meet the hypotheses of the statements -/

namespace Sys2Proof.Tests

theorem at_h (s : State) (b : List Byte) (h : s.device.state = .running) : (grantedIn s b).AtApplication gH b :=
  ⟨h, rfl, rfl⟩

theorem has_place (s : State) (h : s.admission.places = Table.fill 8 none) : s.HasPlace :=
  ⟨0, by rw [h, Table.get_fill]⟩

theorem no_abort (s : State) (h : s.admission.places = Table.fill 8 none) (i : EntryIx) : s.NoAbortOn i := by
  intro p c hc; rw [h, Table.get_fill] at hc; cases hc

theorem no_place (s : State) : ¬ (noPlaces s).HasPlace := by
  rintro ⟨p, hp⟩; simp [noPlaces] at hp

/-! #### The step, reset and the device state -/

theorem witness_StepRunsFrontCommand :
    ({ run with pending := [.prescalerCarry] } : State).pending = .prescalerCarry :: []
      ∧ ∃ t, exec .prescalerCarry run = .next t := ⟨rfl, _, rfl⟩

theorem witness_IdleStepIsOneClockCycle :
    (State.reset.pending = [] ∧ State.reset.device.state ≠ .running)
      ∧ (run.pending = [] ∧ run.device.state = .running ∧ run.time.prescaler + 1 < run.cfg.clock)
      ∧ ({ run with time := { run.time with prescaler := 2 } }).time.prescaler + 1
          < ({ run with time := { run.time with prescaler := 2 } }).cfg.clock
      ∧ ({ run with time := { run.time with prescaler := 3 } }).cfg.clock
          ≤ ({ run with time := { run.time with prescaler := 3 } }).time.prescaler + 1 := by decide +kernel

/-- The part in RUNNING with the hard reset input asserted. -/
def pulled : State := { run with resetInput := true }

theorem witness_ResetsReturnEveryBlock :
    (pulled.resetInput = true ∧ isRegisterWrite (.subTailWrite .h 1) = true)
      ∧ ((2 : Word).getLsbD 1 = true ∧ (3 : Word).getLsbD 1 = true ∧ run.resetInput = false
        ∧ run.device.state = .running)
      ∧ State.reset.device.state ≠ .running := by decide +kernel

theorem witness_OutsideRunningNothingWorks :
    isReset .prescalerCarry = false
      ∧ (State.reset.device.state = .idle ∧ (∀ v, Instr.prescalerCarry ≠ .notifyMaskWrite v)
          ∧ (∀ v, Instr.prescalerCarry ≠ .controlStart v) ∧ (∀ v, Instr.prescalerCarry ≠ .controlReset v)
          ∧ ∀ h v, Instr.prescalerCarry ≠ .configAddrWrite h v)
      ∧ ((inState .starting).device.state = .starting ∧ ∀ r, Instr.prescalerCarry ≠ .configReadEnd r)
      ∧ (inState .halted).device.state = .halted := by
  refine ⟨rfl, ⟨rfl, ?_, ?_, ?_, ?_⟩, ⟨rfl, ?_⟩, rfl⟩ <;> intros <;> simp

/-- A configuration block that gives `cfg`. -/
def block : List Byte :=
  let fields : List (Nat × Byte) :=
    [(1, 0x10), (9, 0x20), (17, 0x30), (25, 0x40), (32, 16), (34, 16), (36, 64), (38, 16), (41, 0x50),
      (57, 0xF0), (58, 0x0F), (112, 3), (116, 4), (117, 1), (118, 4), (119, 1), (120, 0xE8), (121, 3),
      (124, 100)]
  (List.range 128).map fun i => (fields.lookup i).getD 0

theorem witness_DeviceStateMoves :
    (∃ t, exec (.controlStart 1) State.reset = .next t ∧ t.device.state ≠ State.reset.device.state)
      ∧ (∃ t, exec (.configReadEnd (.error [])) (inState .starting) = .next t
          ∧ t.device.state ≠ (inState .starting).device.state)
      ∧ (after (.configReadEnd (.data block)) (inState .starting)).device.state
          ≠ (inState .starting).device.state
      ∧ (∃ t, exec (.subTailWrite .h 17) run = .next t ∧ t.device.state ≠ run.device.state)
      ∧ ∃ t, exec (.hardReset true) run = .next t ∧ t.device.state ≠ run.device.state :=
  ⟨⟨_, rfl, by decide +kernel⟩, ⟨_, rfl, by decide +kernel⟩, by decide +kernel,
    ⟨_, rfl, by decide +kernel⟩, ⟨_, rfl, by decide +kernel⟩⟩

theorem witness_StartAndConfigAddr :
    State.reset.resetInput = false ∧ State.reset.device.state = .idle
      ∧ (1 : Word).getLsbD 1 = false ∧ (1 : Word).getLsbD 0 = true ∧ (0 : Word).getLsbD 0 = false
      ∧ run.resetInput = false ∧ run.device.state ≠ .idle := by decide

/-- The block's layout is the one the spec's tables give: its copy is `cfg`. -/
theorem test_block : blockConfig block = cfg := by decide +kernel

theorem witness_ConfigReadEnds :
    (inState .starting).device.state = .starting ∧ block.length = 128
      ∧ (blockConfig block).startCheck = .none
      ∧ (List.replicate 128 (0 : Byte)).length = 128
      ∧ (blockConfig (List.replicate 128 0)).startCheck ≠ .none := by decide +kernel

/-- The first failing check of each kind, at the boundaries: 3 and 65 MHz, ring sizes 8 and 48, an aperture
whose base lies above its limit, a ring past the aperture's last page, a shadow field in a ring. -/
theorem test_start_checks :
    cfg.startCheck = .none ∧ ({ cfg with clock := 64 } : ConfigCopy).startCheck = .none
      ∧ ({ cfg with clock := 3 } : ConfigCopy).startCheck = .badClock
      ∧ ({ cfg with clock := 65 } : ConfigCopy).startCheck = .badClock
      ∧ ({ cfg with ringH := { base := 0x1000, size := 8 } } : ConfigCopy).startCheck = .badRingSize
      ∧ ({ cfg with ringL := { base := 0x2000, size := 48 } } : ConfigCopy).startCheck = .badRingSize
      ∧ ({ cfg with aperture1 := { base := 0x2000, limit := 0x1FFF, read := true, write := false } } :
          ConfigCopy).startCheck = .badAperture
      ∧ ({ cfg with ringH := { base := 0xFFC40, size := 16 } } : ConfigCopy).startCheck
          = .ringOutsideAperture
      ∧ ({ cfg with shadow := 0x13FE } : ConfigCopy).startCheck = .ringOverlap := by decide +kernel

theorem pow_ok {n : Nat} (k : Nat) (h : 4 ≤ k ∧ k ≤ 12 ∧ n = 2 ^ k) : ∃ k, 4 ≤ k ∧ k ≤ 12 ∧ n = 2 ^ k :=
  ⟨k, h⟩

theorem not_pow {n : Nat} (h : ∀ k : Fin 13, 4 ≤ k.val → n ≠ 2 ^ k.val) : ¬ ∃ k, 4 ≤ k ∧ k ≤ 12 ∧ n = 2 ^ k := by
  rintro ⟨k, h1, h2, h3⟩
  exact h ⟨k, by omega⟩ h1 h3

/-- `base` for `n` bytes lies within an aperture that grants reading, or writing. -/
def Placed (c : ConfigCopy) (p : Aperture → Bool) (base : HostAddr) (n : Nat) : Prop :=
  ∃ a ∈ [c.aperture0, c.aperture1, c.aperture2, c.aperture3], p a = true ∧ ∀ x, base.toNat ≤ x →
    x < base.toNat + n → a.base.toNat / 4096 * 4096 ≤ x ∧ x ≤ a.limit.toNat / 4096 * 4096 + 4095

theorem placed_of {c : ConfigCopy} {p : Aperture → Bool} {base : HostAddr} {n : Nat}
    (hp : p c.aperture0 = true) (h : c.aperture0.base.toNat / 4096 * 4096 ≤ base.toNat)
    (h2 : base.toNat + n ≤ c.aperture0.limit.toNat / 4096 * 4096 + 4096) : Placed c p base n :=
  ⟨c.aperture0, by simp, hp, fun x h3 h4 => ⟨by omega, by omega⟩⟩

/-- A case for each clause but the first two: `cfg` itself meets every check, and each variant fails the
next one alone. -/
theorem witness_StartChecksInOrder :
    (¬ (4 ≤ ({ cfg with clock := 3 } : ConfigCopy).clock ∧ ({ cfg with clock := 3 } : ConfigCopy).clock ≤ 64))
      ∧ (4 ≤ cfg.clock ∧ cfg.clock ≤ 64)
      ∧ (¬ ∃ k, 4 ≤ k ∧ k ≤ 12 ∧ 8 = 2 ^ k)
      ∧ (∃ k, 4 ≤ k ∧ k ≤ 12 ∧ cfg.ringH.size = 2 ^ k) ∧ (∃ k, 4 ≤ k ∧ k ≤ 12 ∧ cfg.ringL.size = 2 ^ k)
      ∧ (∃ k, 4 ≤ k ∧ k ≤ 12 ∧ cfg.completionRing.size = 2 ^ k)
      ∧ (∃ k, 4 ≤ k ∧ k ≤ 12 ∧ cfg.indicationRing.size = 2 ^ k)
      ∧ (¬ (0x2000 / 4096 ≤ 0x1FFF / 4096))
      ∧ (∀ a ∈ [cfg.aperture0, cfg.aperture1, cfg.aperture2, cfg.aperture3],
          a.read = true ∨ a.write = true → a.base.toNat / 4096 ≤ a.limit.toNat / 4096)
      ∧ (¬ Placed { cfg with ringH := { base := 0xFFC40, size := 16 } } (·.read) 0xFFC40 1024)
      ∧ (Placed cfg (·.read) cfg.ringH.base (cfg.ringH.size * 64)
          ∧ Placed cfg (·.read) cfg.ringL.base (cfg.ringL.size * 64)
          ∧ Placed cfg (·.write) cfg.completionRing.base (cfg.completionRing.size * 32)
          ∧ Placed cfg (·.write) cfg.indicationRing.base (cfg.indicationRing.size * 64)
          ∧ Placed cfg (·.write) cfg.shadow 4)
      ∧ (∃ z, ((0x1000 : HostAddr).toNat ≤ z ∧ z < (0x1000 : HostAddr).toNat + 1024)
          ∧ ((0x13FE : HostAddr).toNat ≤ z ∧ z < (0x13FE : HostAddr).toNat + 4))
      ∧ ∀ i j : Fin 5, i < j → ∀ x y : HostAddr × Nat, cfg.structures[i.val]? = some x →
          cfg.structures[j.val]? = some y →
          ¬ ∃ z, (x.1.toNat ≤ z ∧ z < x.1.toNat + x.2) ∧ (y.1.toNat ≤ z ∧ z < y.1.toNat + y.2) := by
  refine ⟨by decide, by decide, not_pow (by decide), pow_ok 4 (by decide), pow_ok 4 (by decide),
    pow_ok 6 (by decide), pow_ok 4 (by decide), by decide, by decide, ?_,
    ⟨placed_of rfl (by decide) (by decide), placed_of rfl (by decide) (by decide),
      placed_of rfl (by decide) (by decide), placed_of rfl (by decide) (by decide),
      placed_of rfl (by decide) (by decide)⟩, ⟨0x13FE, by decide⟩, ?_⟩
  · rintro ⟨a, ha, hp, h⟩
    have h2 := h 0x100000 (by decide) (by decide)
    have : a = cfg.aperture0 ∨ a = cfg.aperture1 := by simpa [cfg] using ha
    rcases this with rfl | rfl
    · exact absurd h2.2 (by decide)
    · cases hp
  · have : ∀ i j : Fin 5, i < j → ∀ x ∈ cfg.structures[i.val]?, ∀ y ∈ cfg.structures[j.val]?,
        x.1.toNat + x.2 ≤ y.1.toNat ∨ y.1.toNat + y.2 ≤ x.1.toNat := by decide +kernel
    rintro i j hij x y hx hy ⟨z, h1, h2⟩
    rcases this i j hij x hx y hy with h | h <;> omega

/-! #### Registers and notifications -/

/-- The part running with ring H's hold READY on a record. -/
def held : State :=
  run.modRing .h fun u => { u with tail := 1, hold := { state := .ready, bytes := simple, readFailed := false } }

theorem witness_TailWrite :
    run.resetInput = false ∧ run.device.state = .running ∧ State.reset.device.state ≠ .running
      ∧ (run.cfg.subRing .h).size < (((17 : Word).extractLsb' 0 16) - (run.ringUnit .h).head).toNat
      ∧ ((held.ringUnit .h).hold.state ≠ .empty
          ∧ ((0 : Word).extractLsb' 0 16 : Half) = (held.ringUnit .h).head)
      ∧ ¬ ((run.cfg.subRing .h).size < (((16 : Word).extractLsb' 0 16) - (run.ringUnit .h).head).toNat
          ∨ ((run.ringUnit .h).hold.state ≠ .empty
            ∧ ((16 : Word).extractLsb' 0 16 : Half) = (run.ringUnit .h).head)) := by decide +kernel

/-- Four completions are unseen, the cause clear with the holdoff running. -/
def unseen4 : State :=
  { run with
    cplRing := { posted := 208, hostHead := 204 }
    notify := { run.notify with
      completion := { cause := true, holdoff := .stopped, rearm := .stopped } } }

/-- Both written rings full, a completion and an indication waiting for room. -/
def roomless : State :=
  { run with
    cplRing := { posted := 64, hostHead := 0 }
    retire := { queue := [{ item := .immediate 0, stamp := 0 }], posting := .idle }
    indRing := { posted := 16, hostHead := 0 }
    ind := { queue := [{ line := 0, stamp := 0, lost := 0, body := .mark 0 0 }], lost := 5, writing := false } }

/-- A host head write that makes room lets the head completion, and the head indication, begin (R147, R153). -/
theorem test_room_begins :
    (after (.hostHeadWrite .completion 1) roomless).retire.posting = .writing false
      ∧ (after (.hostHeadWrite .completion 1) roomless).ind.writing = false
      ∧ (after (.hostHeadWrite .indication 1) roomless).ind
        = { queue := [{ line := 0, stamp := 0, lost := 5, body := .mark 0 0 }], lost := 0, writing := true }
      ∧ (after (.hostHeadWrite .indication 1) roomless).retire.posting = .idle := by decide +kernel

theorem witness_HostHeadWrite :
    unseen4.resetInput = false ∧ unseen4.device.state = .running
      ∧ unseen4.unseen .completion
          < (((209 : Word).extractLsb' 0 16) - (unseen4.writtenRing .completion).hostHead).toNat
      ∧ ((204 : Word).extractLsb' 0 16 : Half) = (unseen4.writtenRing .completion).hostHead
      ∧ ((208 : Word).extractLsb' 0 16 : Half) ≠ (unseen4.writtenRing .completion).hostHead
      ∧ (((208 : Word).extractLsb' 0 16) - (unseen4.writtenRing .completion).hostHead).toNat
          ≤ unseen4.unseen .completion
      ∧ (after (.hostHeadWrite .completion 208) unseen4).unseen .completion = 0
      ∧ (after (.hostHeadWrite .completion 207) unseen4).unseen .completion ≠ 0
      ∧ (((1 : Word).extractLsb' 0 16 : Half) ≠ (roomless.writtenRing .indication).hostHead
        ∧ (((1 : Word).extractLsb' 0 16) - (roomless.writtenRing .indication).hostHead).toNat
          ≤ roomless.unseen .indication)
      ∧ State.reset.device.state ≠ .running := by decide +kernel

/-- A state with both timers of the COMPLETION cause expired. -/
def bothExpired (posted : Half) : State :=
  { run with
    cplRing := { posted := posted, hostHead := 204 }
    notify := { run.notify with completion := { cause := false, holdoff := .expired, rearm := .expired } } }

/-- The head indication of `run` being written. -/
def indicating : State :=
  { run with ind := { queue := [{ line := 0, stamp := 0, lost := 0, body := .mark 0 0 }], lost := 0,
                      writing := true } }

theorem witness_CauseWriteAndTimers :
    (bothExpired 208).device.state = .running
      ∧ ((bothExpired 208).notify.coalesced .completion).holdoff = .expired
      ∧ ((bothExpired 208).notify.coalesced .completion).rearm = .expired
      ∧ ((bothExpired 208).cfg.cause .completion).threshold ≤ (bothExpired 208).unseen .completion
      ∧ (bothExpired 207).unseen .completion < ((bothExpired 207).cfg.cause .completion).threshold
      ∧ (fourth.device.state = .running ∧ fourth.retire.posting = .writing false
          ∧ fourth.retire.queue = { item := .immediate 0, stamp := 0 } :: []
          ∧ fourth.cfg.mayWrite (fourth.cfg.completionRing.slot fourth.cplRing.posted 32) 32 = true
          ∧ (fourth.notify.coalesced .completion).cause = false
          ∧ (fourth.cfg.cause .completion).threshold ≤ ((207 : Half) + 1 - 204).toNat
          ∧ (fourth.notify.coalesced .completion).rearm.isRunning = false)
      ∧ (({ fourth with cplRing := { posted := 204, hostHead := 204 } } : State).writtenRing
            .completion).posted + 1 - 204 = 1
      ∧ (indicating.ind.writing = true ∧ indicating.ind.queue ≠ []
          ∧ indicating.cfg.mayWrite (indicating.cfg.indicationRing.slot indicating.indRing.posted 64) 64
            = true)
      ∧ (unseen4.resetInput = false ∧ unseen4.device.state = .running
          ∧ (unseen4.notify.coalesced .completion).cause = true ∧ (1 : Word).getLsbD 0 = true
          ∧ 1 ≤ unseen4.unseen .completion
          ∧ (unseen4.cfg.cause .completion).threshold ≤ unseen4.unseen .completion)
      ∧ ((0 : Word).getLsbD 0 = false ∧ State.reset.device.state ≠ .running) := by decide +kernel

theorem witness_MaskWriteAndInterrupt :
    run.resetInput = false ∧ run.device.state ≠ .halted ∧ (inState .halted).resetInput = false
      ∧ (inState .halted).device.state = .halted ∧ (3 : Nat) < 4 := by decide

theorem witness_PrescalerCarry :
    2 ≤ 2 ∧ run.device.state = .running
      ∧ (∃ t, exec (.notifyMaskWrite 7) run = .next t) ∧ Instr.notifyMaskWrite 7 ≠ .prescalerCarry
      ∧ isReset (.notifyMaskWrite 7) = false :=
  ⟨by decide, rfl, ⟨_, rfl⟩, by decide, rfl⟩

/-! #### Bus ends -/

/-- A fetch of ring H in flight. -/
def fetching : State := after (.subTailWrite .h 1) run

/-- Ring L's fetch asked for after ring H's. -/
def fetchingBoth : State := after (.subTailWrite .l 1) fetching

/-- `run` on a configuration whose apertures are all unused. -/
def shut (s : State) : State :=
  let none : Aperture := { base := 0, limit := 0, read := false, write := false }
  { s with device := { s.device with config := some { cfg with aperture0 := none } } }

theorem witness_FetchEnds :
    fetching.device.state = .running ∧ (fetching.ringUnit .h).hold.state = .fetching
      ∧ simple.length = 64
      ∧ fetching.cfg.mayRead ((fetching.cfg.subRing .h).slot (fetching.ringUnit .h).head 64) 64 = true
      ∧ (0 : Nat) ≤ 8 ∧ (8 : Nat) ≤ 8 ∧ gH.ring = .h ∧ gH.lowReady = false
      ∧ fetching.inTurn (.fetch .h) = true
      ∧ (fetchingBoth.inTurn (.fetch .l) = false
        ∧ fetchingBoth.admission.asked = [.fetch .h] ++ .fetch .l :: []
        ∧ AdmissionAccess.fetch .l ∉ [AdmissionAccess.fetch .h]) := by decide +kernel

/-- A shadow write of ring H in flight. -/
def shadowing (p : ShadowState) : State :=
  { (run.modRing .h fun u => { u with head := 2, shadow := p }) with
    admission := { (run.modRing .h fun u => { u with head := 2, shadow := p }).admission with
      asked := [.shadow .h] } }

theorem witness_RingErrorsHalt :
    ((fetching.ringUnit .h).hold.state = .fetching ∧ fetching.inTurn (.fetch .h) = true
        ∧ fetching.checkedRead ((fetching.cfg.subRing .h).slot (fetching.ringUnit .h).head 64) 64
            (.error [1]) = .error [1]
        ∧ (shut fetching).checkedRead (((shut fetching).cfg.subRing .h).slot
            ((shut fetching).ringUnit .h).head 64) 64 (.data simple) = .error [])
      ∧ (∃ w, (shadowing (.writing 1)).shadowAccess .h = some w
          ∧ (shadowing (.writing 1)).inTurn (.shadow .h) = true
          ∧ (shadowing (.writing 1)).checkedWrite w (.error 1) = .error 1)
      ∧ (fourth.retire.posting = .writing false
          ∧ fourth.retire.queue = { item := .immediate 0, stamp := 0 } :: []
          ∧ ∃ w, fourth.completionAccess false = some w ∧ fourth.checkedWrite w (.error 5) = .error 5)
      ∧ indicating.ind.writing = true
      ∧ ∃ w, indicating.indicationAccess = some w ∧ indicating.checkedWrite w (.error 63) = .error 63 :=
  ⟨⟨rfl, rfl, rfl, rfl⟩, ⟨_, rfl, rfl, rfl⟩,
    ⟨rfl, rfl, ⟨_, rfl, rfl⟩⟩, rfl, ⟨_, rfl, rfl⟩⟩

theorem witness_ShadowWriteEnds :
    (shadowing (.writing 1)).device.state = .running
      ∧ ((shadowing (.writing 1)).ringUnit .h).shadow = .writing 1
      ∧ ((shadowing (.writingPending 1)).ringUnit .h).shadow = .writingPending 1
      ∧ (shadowing (.writing 1)).cfg.mayWrite (shadowing (.writing 1)).cfg.shadow 2 = true
      ∧ (shadowing (.writing 1)).cfg.mayWrite ((shadowing (.writing 1)).cfg.shadow + 2) 2 = true
      ∧ (shadowing (.writing 1)).inTurn (.shadow .h) = true
      ∧ ({ shadowing (.writing 1) with admission := { (shadowing (.writing 1)).admission with
          asked := [.fetch .l, .shadow .h] } } : State).inTurn (.shadow .h) = false := by
  decide +kernel

/-- Entry 0's reply of ten bytes is being copied. -/
def copying : State :=
  { (run.setEntry 0 { entry3 .retiring with replyTrueLength := some 10 }) with
    retire := { queue := [{ item := .entry 0, stamp := 0 }], posting := .copying } }

theorem witness_ReplyCopyEnds :
    copying.device.state = .running ∧ copying.retire.posting = .copying
      ∧ copying.retire.queue = { item := .entry 0, stamp := 0 } :: [] ∧ (copying.entry 0).kind = .transact
      ∧ (copying.entry 0).replyTrueLength = some 10
      ∧ 0 < min (copying.entry 0).replyBufferLength 10
      ∧ copying.cfg.mayWrite (copying.entry 0).replyBufferAddress
          (min (copying.entry 0).replyBufferLength 10) = true
      ∧ (copying.store.bytes.readChain (copying.entry 0).replyReservation
          (min (copying.entry 0).replyBufferLength 10)).length
          = min (copying.entry 0).replyBufferLength 10 := by decide +kernel

/-- A completion record of an item is being written. -/
def posting (item : RetireItem) : State :=
  { copying with retire := { queue := [{ item := item, stamp := 0 }], posting := .writing false } }

/-- An ABORT's completion in place 0, and one of a DRAIN in line 0's control place. -/
def finished : State :=
  { (run.modLine 0 fun ln => { ln with control := .completed .drain 9 .h .ok }) with
    admission := { run.admission with places := run.admission.places.set 0 (some
      { tag := 0, ring := .h, kind := 2, status := .ok, result := zeroResult, target := none }) } }

theorem witness_CompletionWriteEnds :
    (∀ item, (posting item).device.state = .running ∧ (posting item).retire.posting = .writing false
      ∧ (posting item).retire.queue = { item := item, stamp := 0 } :: []
      ∧ (posting item).cfg.mayWrite ((posting item).cfg.completionRing.base + BitVec.ofNat 64
          (32 * ((posting item).cplRing.posted.toNat % (posting item).cfg.completionRing.size))) 32
          = true)
      ∧ (∃ x, (((run.setEntry 0 ((entry3 .exchange).retired .noResponse)).entry 0).final = some x))
      ∧ (∃ x, ({ Entry.reset with kind := .fence }.retired .ok).final = some x ∧ x.status = .ok)
      ∧ (∃ m, finished.admission.places.get 0 = some m)
      ∧ (finished.line 0).control = .completed .drain 9 .h .ok
      ∧ (let s := { posting (.immediate 0) with retire :=
           { queue := (posting (.immediate 0)).retire.queue ++ copying.retire.queue
             posting := .writing false } }
         s.retire.queue = { item := .immediate 0, stamp := 0 } :: copying.retire.queue
          ∧ (after (.completionRecordWriteEnd .done) s).CopiesFirst (.entry 0)
          ∧ (after (.completionRecordWriteEnd .done) s).retire.posting = .copying) := by
  refine ⟨fun item => ⟨rfl, rfl, rfl, show cfg.mayWrite (cfg.completionRing.base + BitVec.ofNat 64
    (32 * (0 % 64))) 32 = true by decide +kernel⟩, ⟨_, rfl⟩, ⟨_, rfl, rfl⟩, ⟨_, rfl⟩, rfl, rfl,
    ⟨0, 10, by decide +kernel⟩, by decide +kernel⟩

/-- Two indications given, the first being written; as many unseen as the ring has slots but one. -/
def indicatingTwo : State :=
  { indicating with
    indRing := { posted := 15, hostHead := 0 }
    ind := { indicating.ind with queue := indicating.ind.queue ++ indicating.ind.queue } }

/-- Eight indications are queued and no more are lost than the count holds. -/
def eight : State :=
  { indicating with
    ind := { indicating.ind with queue := List.replicate 8 { line := 0, stamp := 0, lost := 0, body := .mark 0 0 }
                                 lost := 65535 } }

theorem witness_IndicationWriteEnds :
    indicating.device.state = .running ∧ indicating.ind.writing = true ∧ indicating.ind.queue ≠ []
      ∧ indicating.cfg.mayWrite (indicating.cfg.indicationRing.base + BitVec.ofNat 64
          (64 * (indicating.indRing.posted.toNat % indicating.cfg.indicationRing.size))) 64 = true
      ∧ (indicatingTwo.ind.writing = true ∧ indicatingTwo.ind.queue.length = 2
        ∧ indicatingTwo.cfg.mayWrite (indicatingTwo.cfg.indicationRing.base + BitVec.ofNat 64
          (64 * (indicatingTwo.indRing.posted.toNat % indicatingTwo.cfg.indicationRing.size))) 64 = true)
      ∧ (indicatingTwo.beginIndication.ind.queue.length < 8 ∧ 8 ≤ eight.beginIndication.ind.queue.length
        ∧ eight.beginIndication.ind.lost ≤ 65535)
      ∧ ¬ ((indicatingTwo.indRing.posted + 1 - indicatingTwo.indRing.hostHead).toNat
          < indicatingTwo.cfg.indicationRing.size) := by
  decide +kernel

end Sys2Proof.Tests

namespace Sys2Proof.Tests

/-! #### Records -/

theorem tags_one (s : State) (i : EntryIx) (h : ∀ j, j ≠ i → (s.entry j).state = .free) : s.TagsOk := by
  intro a b hab ha hb _
  by_cases e : a = i
  · exact absurd (h b (fun e2 => hab (e.trans e2.symm))) hb
  · exact absurd (h a e) ha

theorem no_head {s : State} {l : Line} (h : ∀ a, (s.station l a).fifo = []) :
    ∀ a i rest, (s.station l a).fifo = i :: rest → (s.entry i).state ≠ .queued := by
  intro a i rest e; rw [h a] at e; cases e

/-- `s` with one entry, entry 0. -/
def withEntry (s : State) (e : Entry) : State := s.setEntry 0 e

/-- The simple TRANSACT with a byte replaced. -/
def simpleBut (i : Nat) (b : Byte) : List Byte := simple.set i b

/-- Line 0 in a state, station 3 ONLINE, `b` at application. -/
def lineAt (st : LineState) (b : List Byte) : State :=
  grantedIn ((online3 run).modLine 0 fun ln => { ln with state := st, phase := .guard }) b

/-- Station 3 in a state, `b` at application on a busy RUNNING line. -/
def stationAt (st : StationState) (b : List Byte) : State :=
  grantedIn ((lineIn run .guard).modStation 0 2 fun r => { r with state := st }) b

theorem witness_TransactRejected :
    ((lineAt .running (simpleBut 7 9)).AtApplication gH (simpleBut 7 9) ∧ recKind (simpleBut 7 9) = 1
        ∧ (lineAt .running (simpleBut 7 9)).HasPlace ∧ ¬ TransactShape (simpleBut 7 9))
      ∧ (TransactShape (simpleBut 7 8) ∧ TransactShape (simpleBut 34 0x10)
        ∧ ¬ (lineAt .running (simpleBut 34 0x10)).TransactRanges (simpleBut 34 0x10))
      ∧ (TransactShape simple ∧ (lineAt .running simple).TransactRanges simple
        ∧ (grantedIn (withEntry run (entry3 .queued)) simple).TransactRanges simple
        ∧ (grantedIn (withEntry run (entry3 .queued)) simple).TagTaken gH.ring (recTag simple))
      ∧ (∀ st, ((lineAt st simple).line (recLine simple)).state = st
        ∧ ¬ (lineAt .running simple).TagTaken gH.ring (recTag simple))
      ∧ ∀ st, ((stationAt st simple).line (recLine simple)).state = .running
        ∧ ((stationAt st simple).station (recLine simple) (recStation simple)).state = st := by
  refine ⟨⟨at_h _ _ rfl, by decide +kernel, has_place _ rfl, ?_⟩, ⟨?_, ?_, ?_⟩, ⟨?_, ?_, ?_, ?_⟩,
    fun st => ⟨?_, ?_⟩, fun st => ⟨?_, ?_⟩⟩
  · unfold TransactShape; decide +kernel
  · unfold TransactShape; decide +kernel
  · unfold TransactShape; decide +kernel
  · unfold State.TransactRanges; decide +kernel
  · unfold TransactShape; decide +kernel
  · unfold State.TransactRanges; decide +kernel
  · unfold State.TransactRanges; decide +kernel
  · unfold State.TagTaken; decide +kernel
  · cases st <;> decide +kernel
  · unfold State.TagTaken; decide +kernel
  · cases st <;> decide +kernel
  · cases st <;> decide +kernel

theorem transact_passes {s : State} {b : List Byte} (h1 : TransactShape b) (h2 : s.TransactRanges b)
    (h3 : ¬ s.TagTaken .h (recTag b)) (h4 : (s.line (recLine b)).state = .running)
    (h5 : (s.station (recLine b) (recStation b)).state = .online) : s.TransactPasses gH.ring b :=
  ⟨h1, h2, h3, h4, by rw [h5]; decide, by rw [h5]; decide⟩

/-- The simple TRANSACT with no request, on a busy line. -/
def emptyRec : List Byte := simple.set 10 0
def emptyReady : State := grantedIn (online3 (lineIn run .guard)) emptyRec

/-- Ring L's hold loads entry 1, admitted before this record. -/
def behindOther : State :=
  (({ emptyReady with admission := { emptyReady.admission with counter := 1 } } : State).setEntry 1
    { entry3 .loading with ring := .l }).modRing .l fun u =>
      { u with hold := { state := .loading 1 false, bytes := simple, readFailed := false } }

theorem witness_TransactTaken :
    (simpleReady.AtApplication gH simple ∧ recKind simple = 1 ∧ simpleReady.TransactPasses gH.ring simple
        ∧ simpleReady.LowestFree 0
        ∧ (recRequestLength simple + 63) / 64 + (min (recReplyLength simple) 248 + 63) / 64
          ≤ simpleReady.store.freeQueue.length
        ∧ recRequestLength simple ≠ 0)
      ∧ (∀ s ∈ [emptyReady, behindOther], s.AtApplication gH emptyRec ∧ s.LowestFree 0
        ∧ s.TransactPasses gH.ring emptyRec ∧ s.store.freeQueue.length = 256)
      ∧ (recKind emptyRec = 1 ∧ recRequestLength emptyRec = 0 ∧ recStationNumber emptyRec ≠ 31
        ∧ (min (recReplyLength emptyRec) 248 + 63) / 64 = 1)
      ∧ (∀ j c, (emptyReady.ringUnit (otherRing gH.ring)).hold.state ≠ .loading j c)
      ∧ ((behindOther.ringUnit (otherRing gH.ring)).hold.state = .loading 1 false
        ∧ (behindOther.entry 1).state = .loading ∧ (behindOther.entry 1).line = recLine emptyRec
        ∧ (behindOther.entry 1).station = some (recStation emptyRec)
        ∧ (behindOther.entry 1).admission.toNat < behindOther.admission.counter.toNat) := by
  refine ⟨⟨at_h _ _ rfl, by decide +kernel, transact_passes ?_ ?_ ?_ (by decide +kernel) (by decide +kernel),
    ?_, by decide +kernel, by decide +kernel⟩, ?_, by decide +kernel, ?_, by decide +kernel⟩
  · unfold TransactShape; decide +kernel
  · unfold State.TransactRanges; decide +kernel
  · unfold State.TagTaken; decide +kernel
  · unfold State.LowestFree; decide +kernel
  · intro s hs
    simp only [List.mem_cons, List.not_mem_nil, or_false] at hs
    rcases hs with rfl | rfl <;>
      refine ⟨⟨rfl, rfl, rfl⟩, ?_, transact_passes ?_ ?_ ?_ (by decide +kernel) (by decide +kernel),
        by decide +kernel⟩ <;>
      first
      | (unfold State.LowestFree; decide +kernel)
      | (unfold TransactShape; decide +kernel)
      | (unfold State.TransactRanges; decide +kernel)
      | (unfold State.TagTaken; decide +kernel)
  · intro j c h; exact absurd (show HoldState.empty = .loading j c from h) (by simp)

/-- No entry is FREE (all of ring L), or no segment is, or neither. -/
def full (s : State) : State := { s with entries := Table.fill 64 { entry3 .queued with ring := .l } }
def drained (s : State) : State := { s with store := { s.store with freeQueue := [] } }

/-- A FENCE on line 0 with tag 0x0042. -/
def fenceRec : List Byte := rec [(0, 3), (2, 0x42)]

/-- An ABORT with tag 0x0055 of ring H's tag 0x0101. -/
def abortRec : List Byte := rec [(0, 2), (2, 0x55), (16, 1), (17, 1)]

/-- A TIME_READ and a record of unknown kind. -/
def timeRec : List Byte := rec [(0, 6), (2, 0x66)]
def unknownRec (k : Byte) : List Byte := rec [(0, k), (2, 0x77)]

/-- A LINE_CONTROL of line 0 with an op, tag 0x0099. -/
def lineRec (op : Byte) : List Byte := rec [(0, 4), (2, 0x99), (5, op)]

/-- A STATION_CONTROL of station `n` of line 0 with an op. -/
def stationRec (op n : Byte) : List Byte := rec [(0, 5), (2, 0x33), (4, n), (5, op)]

/-- A load of entry 0 from ring H in flight, ring L's hold waiting. -/
def waitingL (lacks : List Resource) : State :=
  ({ (run.setEntry 0 (entry3 .loading)).modRing .h fun u =>
      { u with hold := { state := .loading 0 false, bytes := simple, readFailed := false } } with
    retire := { queue := [{ item := .immediate 0, stamp := 0 }], posting := .writing false } }).modRing .l
      fun u => { u with hold := { state := .waiting lacks, bytes := simple, readFailed := false } }

theorem witness_RecordsSetAside :
    (∀ f ∈ [fun s => full (drained s), full, drained], (f simpleReady).AtApplication gH simple
        ∧ recKind simple = 1 ∧ (f simpleReady).TransactPasses gH.ring simple)
      ∧ ((∀ i, ((full simpleReady).entry i).state ≠ .free)
        ∧ (∀ i, ((full (drained simpleReady)).entry i).state ≠ .free)
        ∧ (∃ i, ((drained simpleReady).entry i).state = .free)
        ∧ (drained simpleReady).store.freeQueue.length < 1 + 1
        ∧ ¬ (full simpleReady).store.freeQueue.length < 1 + 1)
      ∧ ((grantedIn (full run) fenceRec).AtApplication gH fenceRec ∧ recKind fenceRec = 3
        ∧ recLineNumber fenceRec ≤ 3 ∧ zeroFieldsOk fenceRec = true
        ∧ ¬ (grantedIn (full run) fenceRec).TagTaken gH.ring (recTag fenceRec)
        ∧ ∀ i, ((grantedIn (full run) fenceRec).entry i).state ≠ .free)
      ∧ (let s := grantedIn (withEntry run (entry3 .loading)) abortRec
        s.AtApplication gH abortRec ∧ recKind abortRec = 2 ∧ recTargetRingNumber abortRec ≤ 1
        ∧ zeroFieldsOk abortRec = true ∧ s.TagsOk ∧ (s.entry 0).state = .loading
        ∧ (s.entry 0).ring = recTargetRing abortRec ∧ (s.entry 0).tag = recTargetTag abortRec)
      ∧ (∀ b, (grantedIn (noPlaces run) b).AtApplication gH b ∧ ¬ (grantedIn (noPlaces run) b).HasPlace)
      ∧ (¬ (grantedIn (noPlaces run) simple).TransactPasses gH.ring simple
        ∧ (∀ i, ((grantedIn (noPlaces run) abortRec).entry i).ring = recTargetRing abortRec →
          ((grantedIn (noPlaces run) abortRec).entry i).tag = recTargetTag abortRec →
          ((grantedIn (noPlaces run) abortRec).entry i).state ≠ .loading)
        ∧ shapeOk (abortRec.set 14 2) = false ∧ shapeOk (fenceRec.set 1 4) = false
        ∧ (grantedIn (noPlaces (withEntry run (entry3 .queued))) (fenceRec.set 2 1 |>.set 3 1)).TagTaken
            gH.ring (recTag (fenceRec.set 2 1 |>.set 3 1)))
      ∧ (∀ op ∈ [1, 2, 3, 4, 5, 6, 0, 7], recKind (lineRec op) = 4 ∧ recOp (lineRec op) = op.toNat)
      ∧ ((grantedIn (noPlaces run) (lineRec 2)).line (recLine (lineRec 2))).state = .stopped
      ∧ (∀ op ∈ [1, 2, 3, 0, 4], recKind (stationRec op 3) = 5 ∧ recOp (stationRec op 3) = op.toNat)
      ∧ (recKind timeRec = 6 ∧ recKind (unknownRec 0) = 0 ∧ 7 ≤ recKind (unknownRec 7))
      ∧ (∀ lacks, (waitingL lacks).device.state = .running ∧ (waitingL lacks).retire.posting = .writing false
        ∧ (waitingL lacks).retire.queue = { item := .immediate 0, stamp := 0 } :: []
        ∧ (waitingL lacks).cfg.mayWrite ((waitingL lacks).cfg.completionRing.slot
            (waitingL lacks).cplRing.posted 32) 32 = true
        ∧ ((waitingL lacks).ringUnit .h).hold.state = .loading 0 false
        ∧ (waitingL lacks).inTurn (.load .h) = true
        ∧ ((waitingL lacks).ringUnit (otherRing .h)).hold.state = .waiting lacks
        ∧ [1, 2, 3, 4, 5, 6].length = ((waitingL lacks).entry 0).requestLength
        ∧ (waitingL lacks).cfg.mayRead ((waitingL lacks).entry 0).requestAddress
            ((waitingL lacks).entry 0).requestLength = true) := by
  refine ⟨?_, ⟨by decide +kernel, by decide +kernel, by decide +kernel, by decide +kernel,
      by decide +kernel⟩,
    ⟨at_h _ _ rfl, by decide +kernel, by decide +kernel, by decide +kernel, ?_, by decide +kernel⟩,
    ⟨at_h _ _ rfl, by decide +kernel, by decide +kernel, by decide +kernel, ?_, by decide +kernel,
      by decide +kernel, by decide +kernel⟩,
    fun _ => ⟨at_h _ _ rfl, fun h => no_place run h⟩,
    ⟨fun h => absurd h.2.2.2.1 (by decide +kernel), by decide +kernel, by decide +kernel,
      by decide +kernel, ?_⟩, by decide +kernel, by decide +kernel, by decide +kernel, by decide +kernel,
    fun lacks => ⟨rfl, rfl, rfl, show cfg.mayWrite (cfg.completionRing.slot 0 32) 32 = true by decide +kernel,
      rfl, rfl, rfl, rfl, show cfg.mayRead 0 6 = true by decide +kernel⟩⟩
  · intro f hf
    simp only [List.mem_cons, List.not_mem_nil, or_false] at hf
    have sh : TransactShape simple := by unfold TransactShape; decide +kernel
    rcases hf with rfl | rfl | rfl <;>
      refine ⟨⟨rfl, rfl, rfl⟩, by decide +kernel, transact_passes sh ?_ ?_ (by decide +kernel)
        (by decide +kernel)⟩ <;>
      first
      | (unfold State.TransactRanges; decide +kernel)
      | (unfold State.TagTaken; decide +kernel)
  · unfold State.TagTaken; decide +kernel
  · exact tags_one _ 0 (by decide +kernel)
  · unfold State.TagTaken; decide +kernel

/-- `s` with entry 0 as given and the ABORT of its tag at application, on a busy RUNNING line. -/
def aborting (e : Entry) : State := grantedIn (withEntry (lineIn (online3 run) .guard) e) abortRec

theorem witness_AbortOutcomes :
    (∀ e, (aborting e).AtApplication gH abortRec ∧ (aborting e).HasPlace) ∧ recKind abortRec = 2
      ∧ (recTargetRingNumber abortRec ≤ 1 ∧ zeroFieldsOk abortRec = true)
      ∧ ¬ (recTargetRingNumber (abortRec.set 14 2) ≤ 1 ∧ zeroFieldsOk (abortRec.set 14 2) = true)
      ∧ ¬ (grantedIn run abortRec).TagTaken (recTargetRing abortRec) (recTargetTag abortRec)
      ∧ (∀ st, (aborting (entry3 st)).TagsOk
        ∧ ((aborting (entry3 st)).entry 0).ring = recTargetRing abortRec
        ∧ ((aborting (entry3 st)).entry 0).tag = recTargetTag abortRec
        ∧ ((aborting (entry3 st)).entry 0).state = st
        ∧ ((aborting (entry3 st)).entry 0).abortPending = false)
      ∧ ((aborting { entry3 .exchange with abortPending := true }).entry 0).abortPending = true := by
  refine ⟨fun e => ⟨at_h _ _ rfl, has_place _ rfl⟩, by decide +kernel, by decide +kernel,
    by decide +kernel, ?_, fun st => ⟨?_, ?_⟩, by decide +kernel⟩
  · unfold State.TagTaken; decide +kernel
  · exact tags_one _ 0 (by cases st <;> decide +kernel)
  · cases st <;> decide +kernel

/-- A FENCE waiting as entry 0 under the ABORT's target tag. -/
def fenceEntry : Entry := { Entry.reset with state := .fenceWait, kind := .fence, tag := 0x0101, waitsFor := [5] }

theorem witness_AbortRetires :
    (∀ e ∈ [entry3 .queued, entry3 .retryWait, { entry3 .deferred with token := some 7 }],
      (aborting e).AtApplication gH abortRec ∧ (aborting e).HasPlace ∧ (aborting e).TagsOk
        ∧ (aborting e).NoFenceOn 0
        ∧ ((aborting e).entry 0).ring = recTargetRing abortRec
        ∧ ((aborting e).entry 0).tag = recTargetTag abortRec
        ∧ ((aborting e).entry 0).station = some 2
        ∧ (((aborting e).entry 0).state = .queued ∨ ((aborting e).entry 0).state = .retryWait
          ∨ ((aborting e).entry 0).state = .deferred))
      ∧ (recKind abortRec = 2 ∧ recTargetRingNumber abortRec ≤ 1 ∧ zeroFieldsOk abortRec = true)
      ∧ ((aborting fenceEntry).entry 0).station = none ∧ ((aborting fenceEntry).entry 0).state = .fenceWait
      ∧ ((aborting fenceEntry).entry 0).tag = recTargetTag abortRec
      ∧ (aborting fenceEntry).TagsOk ∧ (aborting fenceEntry).NoFenceOn 0 := by
  refine ⟨?_, by decide +kernel, by decide +kernel, by decide +kernel, by decide +kernel,
    tags_one _ 0 (by decide +kernel), ?_⟩
  · intro e he
    simp only [List.mem_cons, List.not_mem_nil, or_false] at he
    rcases he with rfl | rfl | rfl <;>
      refine ⟨at_h _ _ rfl, has_place _ rfl, tags_one _ 0 (by decide +kernel), ?_, by decide +kernel,
        by decide +kernel, by decide +kernel, by decide +kernel⟩ <;>
      (unfold State.NoFenceOn; decide +kernel)
  · unfold State.NoFenceOn; decide +kernel

theorem witness_FenceTaken :
    fenceEntry.kind = .fence
      ∧ (grantedIn run fenceRec).AtApplication gH fenceRec ∧ recKind fenceRec = 3
      ∧ recLineNumber fenceRec ≤ 3 ∧ zeroFieldsOk fenceRec = true
      ∧ ¬ (grantedIn run fenceRec).TagTaken gH.ring (recTag fenceRec)
      ∧ (grantedIn run fenceRec).LowestFree 0
      ∧ ¬ (grantedIn (withEntry run (entry3 .queued)) fenceRec).TagTaken gH.ring (recTag fenceRec)
      ∧ (grantedIn (withEntry run (entry3 .queued)) fenceRec).LowestFree 1
      ∧ (grantedIn (withEntry run { entry3 .queued with tag := 0x42 }) fenceRec).TagTaken gH.ring
          (recTag fenceRec)
      ∧ (grantedIn (withEntry run { entry3 .queued with tag := 0x42 }) fenceRec).HasPlace := by
  refine ⟨rfl, at_h _ _ rfl, by decide +kernel, by decide +kernel, by decide +kernel, ?_, ?_, ?_, ?_, ?_,
    has_place _ rfl⟩
  · unfold State.TagTaken; decide +kernel
  · unfold State.LowestFree; decide +kernel
  · unfold State.TagTaken; decide +kernel
  · unfold State.LowestFree; decide +kernel
  · unfold State.TagTaken; decide +kernel

/-- With entry 0 QUEUED and admitted before, the FENCE waits for it; its completion at once otherwise. -/
theorem test_fence_waits :
    ((after .fence (grantedIn { (withEntry run (entry3 .queued)) with
        admission := { run.admission with counter := 1 } } fenceRec)).entry 1).waitsFor = [0]
      ∧ ((after .fence (grantedIn run fenceRec)).entry 0).state = .retiring := by decide +kernel

/-! #### Line control -/

/-- A line state and phase of line 0, control place as given, `b` at application. -/
def lineWith (st : LineState) (p : Phase) (c : ControlPlace) (b : List Byte) : State :=
  grantedIn (run.modLine 0 fun ln => { ln with state := st, phase := p, control := c }) b

theorem line_rec (op : Byte) (h : op = 1 ∨ op = 2 ∨ op = 3 ∨ op = 4 ∨ op = 5 ∨ op = 6) :
    recKind (lineRec op) = 4 ∧ recOp (lineRec op) = op.toNat ∧ recLineNumber (lineRec op) ≤ 3
      ∧ zeroFieldsOk (lineRec op) = true := by
  rcases h with rfl | rfl | rfl | rfl | rfl | rfl <;> decide +kernel

theorem line_with (st : LineState) (p : Phase) (c : ControlPlace) (b : List Byte) :
    (lineWith st p c b).AtApplication gH b ∧ (lineWith st p c b).HasPlace
      ∧ (lineWith st p c b).line 0
        = { LineEngine.reset with state := st, phase := p, control := c } :=
  ⟨at_h _ _ rfl, has_place _ rfl, rfl⟩

theorem nothing (st : LineState) (p : Phase) (c : ControlPlace) (b : List Byte) :
    (lineWith st p c b).NothingToGrant 0 ∧ (lineWith st p c b).NoWork 0 := by
  have hs : ∀ a, (lineWith st p c b).station 0 a = run.station 0 a := fun _ => rfl
  have he : ∀ i, (lineWith st p c b).entry i = run.entry i := fun _ => rfl
  refine ⟨⟨rfl, rfl, ?_, no_head ?_, ?_, ?_⟩, ?_⟩
  · intro i; rw [he]; revert i; decide +kernel
  · intro a; rw [hs]; revert a; decide +kernel
  · intro a; rw [hs]; revert a; decide +kernel
  · intro a; rw [hs]; revert a; decide +kernel
  · intro i; rw [he]; revert i; decide +kernel

/-- Every line state, phase and control place that the clauses of LineStart, LineStop and LineDrain ask for
is met by `lineWith`, of which `line_rec`, `line_with` and `nothing` hold. -/
theorem witness_LineStart :
    (lineWith .stopped .idle .empty (lineRec 1)).NothingToGrant 0
      ∧ (lineWith .faulted .idle .empty (lineRec 1)).NothingToGrant 0
      ∧ ((lineWith .draining .guard .empty (lineRec 1)).line 0).state = .draining
      ∧ recOp (lineRec 1) = 1 ∧ recLine (lineRec 1) = 0 :=
  ⟨(nothing ..).1, (nothing ..).1, rfl, by decide +kernel, by decide +kernel⟩

theorem witness_LineStop :
    recOp (lineRec 2) = 2 ∧ recLine (lineRec 2) = 0
      ∧ ((lineWith .running .listen .empty (lineRec 2)).line 0).inFlight = true
      ∧ ((lineWith .running .guard .empty (lineRec 2)).line 0).inFlight = false
      ∧ ((lineWith .running .guard (.completed .drain 1 .h .ok) (lineRec 2)).line 0).control ≠ .empty
      ∧ ((lineWith .draining .listen (.pending .drain 1 .h) (lineRec 2)).line 0).control
          = .pending .drain 1 .h
      ∧ ¬ (noPlaces (lineWith .draining .listen (.pending .drain 1 .h) (lineRec 2))).HasPlace
      ∧ (noPlaces (lineWith .draining .listen (.pending .drain 1 .h) (lineRec 2))).AtApplication gH
          (lineRec 2) :=
  ⟨by decide +kernel, by decide +kernel, by decide +kernel, by decide +kernel, by decide +kernel, rfl,
    no_place _, rfl, rfl, rfl⟩

theorem witness_LineDrain :
    recOp (lineRec 3) = 3 ∧ recLine (lineRec 3) = 0
      ∧ ((lineWith .running .listen .empty (lineRec 3)).line 0).phase ≠ .idle
      ∧ ((lineWith .running .listen .empty (lineRec 3)).line 0).inFlight = true
      ∧ (lineWith .running .guard .empty (lineRec 3)).NoWork 0
      ∧ ((lineWith .running .guard .empty (lineRec 3)).line 0).inFlight = false
      ∧ ((lineWith .running .guard (.completed .stop 1 .h .ok) (lineRec 3)).line 0).control ≠ .empty
      ∧ ((lineWith .draining .guard (.pending .drain 1 .h) (lineRec 3)).line 0).state ≠ .running :=
  ⟨by decide +kernel, by decide +kernel, by decide +kernel, by decide +kernel, (nothing ..).2,
    by decide +kernel, by decide +kernel, by decide +kernel⟩

/-- A SET of the defaults but for a failure threshold of 15 and the least turnaround gap, 20. -/
def setRec : List Byte :=
  rec [(0, 4), (2, 0x99), (5, 4), (40, 4), (41, 3), (42, 0x88), (43, 0x13), (44, 20), (46, 0x88),
    (47, 0x13), (48, 0xD0), (49, 7), (50, 15), (51, 50), (52, 20), (54, 0xE8), (55, 3), (58, 1), (60, 50)]

theorem test_set_parameters :
    recParams setRec = { LineParams.defaults with failureThreshold := 15, turnaroundGap := 20 } := by
  decide +kernel

theorem witness_LineSet :
    recKind setRec = 4 ∧ recOp setRec = 4 ∧ recLineNumber setRec ≤ 3 ∧ zeroFieldsOk setRec = true
      ∧ (recParams setRec).inRange = true ∧ zeroFieldsOk (setRec.set 44 19) = true
      ∧ (recParams (setRec.set 44 19)).turnaroundGap = 19
      ∧ ((lineWith .stopped .idle .empty setRec).line 0).state = .stopped
      ∧ ((lineWith .running .guard .empty setRec).line 0).state ≠ .stopped := by decide +kernel

theorem witness_LineSamples :
    (lineWith .faulted .idle .empty (lineRec 5)).AtApplication gH (lineRec 5) ∧ recOp (lineRec 5) = 5
      ∧ (lineWith .running .listen .empty (lineRec 6)).AtApplication gH (lineRec 6)
      ∧ recOp (lineRec 6) = 6 :=
  ⟨(line_with ..).1, by decide +kernel, (line_with ..).1, by decide +kernel⟩

/-! #### Stations, samples and malformed records -/

theorem station_rec :
    ∀ op ∈ [1, 2, 3], ∀ n ∈ [1, 3, 30, 31],
      recKind (stationRec op n) = 5 ∧ recOp (stationRec op n) = op.toNat
        ∧ recLineNumber (stationRec op n) ≤ 3 ∧ recStationNumber (stationRec op n) = n.toNat
        ∧ zeroFieldsOk (stationRec op n) = true := by decide +kernel

theorem witness_StationAdd :
    (grantedIn run (stationRec 1 30)).AtApplication gH (stationRec 1 30)
      ∧ (grantedIn run (stationRec 1 30)).HasPlace
      ∧ ((grantedIn run (stationRec 1 30)).station 0 (recStation (stationRec 1 30))).state = .absent
      ∧ ((stationAt .suspect (stationRec 1 3)).station 0 (recStation (stationRec 1 3))).state ≠ .absent
      ∧ recStationNumber (stationRec 1 31) = 31 :=
  ⟨at_h _ _ rfl, has_place _ rfl, by decide +kernel, by decide +kernel, by decide +kernel⟩

theorem witness_StationRemove :
    (let s := stationAt .offline (stationRec 2 3)
     (s.station 0 2).fifo = [] ∧ (s.station 0 2).deferred = [] ∧ (s.line 0).current = none
        ∧ ∀ i, (s.entry i).state ≠ .loading)
      ∧ ((stationAt .absent (stationRec 2 3)).station 0 2).state = .absent
      ∧ ((stationAt .online (stationRec 2 3)).modStation 0 2 fun r =>
          { r with fifo := [0] }).station 0 2 ≠ (stationAt .online (stationRec 2 3)).station 0 2
      ∧ ((grantedIn (withEntry run (entry3 .loading)) (stationRec 2 3)).entry 0).state = .loading
      ∧ recStationNumber (stationRec 2 31) = 31 := by decide +kernel

theorem witness_QueryAndTimeRead :
    (grantedIn run (stationRec 3 3)).AtApplication gH (stationRec 3 3)
      ∧ zeroFieldsOk (stationRec 3 3) = true ∧ (grantedIn run (stationRec 3 3)).HasPlace
      ∧ ((((0 : Byte).getLsbD 0 = true ↔ ((grantedIn run (stationRec 3 3)).station 0 2).statusWord ≠ none)
        ∧ ((0 : Byte).getLsbD 1 = true ↔ ((grantedIn run (stationRec 3 3)).station 0 2).flushDue ≠ none)
        ∧ ((0 : Byte).getLsbD 2 = true ↔ ((grantedIn run (stationRec 3 3)).line 0).inFlight = true)
        ∧ (0 : Byte).toNat < 8))
      ∧ recStationNumber (stationRec 3 31) = 31 ∧ zeroFieldsOk timeRec = true ∧ recKind timeRec = 6 :=
  ⟨at_h _ _ rfl, by decide +kernel, has_place _ rfl, by decide +kernel, by decide +kernel,
    by decide +kernel, by decide +kernel⟩

theorem witness_MalformedRecords :
    (∀ b, (grantedIn run b).AtApplication gH b ∧ (grantedIn run b).HasPlace)
      ∧ (shapeOk (unknownRec 0) = false ∧ recKind (unknownRec 0) = 0)
      ∧ (shapeOk (unknownRec 7) = false ∧ 7 ≤ recKind (unknownRec 7))
      ∧ (shapeOk (fenceRec.set 1 4) = false ∧ recKind (fenceRec.set 1 4) = 3)
      ∧ (shapeOk (timeRec.set 63 1) = false ∧ recKind (timeRec.set 63 1) = 6)
      ∧ (shapeOk (lineRec 7) = false ∧ recKind (lineRec 7) = 4 ∧ 6 < recOp (lineRec 7))
      ∧ (shapeOk ((lineRec 2).set 1 4) = false ∧ recOp ((lineRec 2).set 1 4) = 2)
      ∧ (shapeOk (stationRec 1 0) = false ∧ recOp (stationRec 1 0) = 1)
      ∧ (shapeOk (stationRec 1 32) = false ∧ shapeOk (stationRec 4 3) = false
        ∧ 3 < recOp (stationRec 4 3)) :=
  ⟨fun _ => ⟨at_h _ _ rfl, has_place _ rfl⟩, by decide +kernel, by decide +kernel, by decide +kernel,
    by decide +kernel, by decide +kernel, by decide +kernel, by decide +kernel, by decide +kernel⟩

end Sys2Proof.Tests

namespace Sys2Proof.Tests

/-! #### Loads -/

/-- Entry 0 loading from ring H's hold, station 3 and line 0 in the given states. -/
def loadingIn (ls : LineState) (p : Phase) (st : StationState) : State :=
  (((lineIn (stationAt st simple) p).modLine 0 fun ln => { ln with state := ls }).setEntry 0
    (entry3 .loading)).modRing .h fun u =>
      { u with hold := { state := .loading 0 false, bytes := simple, readFailed := false } }

/-- A line FAULTED, STOPPING with an exchange in flight, and so on; the other ring as given. -/
def otherLoading (s : State) : State :=
  (s.setEntry 1 { entry3 .loading with ring := .l }).modRing .l fun u =>
    { u with hold := { state := .loading 1 false, bytes := simple, readFailed := false } }

theorem no_loads {s : State} {r : Ring} (h : (s.ringUnit r).hold.state = .empty) :
    (∀ j c, (s.ringUnit r).hold.state ≠ .loading j c) ∧ ∀ x, (s.ringUnit r).hold.state ≠ .waiting x := by
  rw [h]; exact ⟨fun _ _ => by simp, fun _ => by simp⟩

theorem loading_ok (ls : LineState) (p : Phase) (st : StationState) :
    (loadingIn ls p st).device.state = .running
      ∧ ((loadingIn ls p st).ringUnit .h).hold.state = .loading 0 false
      ∧ (loadingIn ls p st).entry 0 = entry3 .loading
      ∧ (loadingIn ls p st).cfg.mayRead (entry3 .loading).requestAddress 6 = true
      ∧ ((loadingIn ls p st).ringUnit .l).hold.state = .empty
      ∧ ((loadingIn ls p st).line 0).state = ls ∧ ((loadingIn ls p st).line 0).phase = p
      ∧ ((loadingIn ls p st).station 0 2).state = st :=
  ⟨rfl, rfl, rfl, show cfg.mayRead 0 6 = true by decide +kernel, rfl, rfl, rfl, rfl⟩

/-- Entry 0 was admitted after ring L's entry 1, whose load goes on. -/
def overtaking : State :=
  (otherLoading (loadingIn .running .guard .online)).setEntry 0 { entry3 .loading with admission := 2 }

/-- Ring L's entry 1, admitted after entry 0, waits in its hold for entry 0's placement. -/
def overtaken : State :=
  ((otherLoading (loadingIn .running .idle .online)).setEntry 1
    { entry3 .loading with ring := .l, admission := 1 }).modRing .l fun u =>
      { u with hold := { u.hold with state := .loading 1 true } }

/-- Each clause of LoadEnds: `loading_ok` and `no_loads` for the free ring L, and the cases below. -/
theorem witness_LoadEnds :
    (∀ ls p st, (loadingIn ls p st).inTurn (.load .h) = true)
      ∧ ((entry3 .loading).station = some 2 ∧ [1, 2, 3, 4, 5, 6].length = (entry3 .loading).requestLength
        ∧ (entry3 .loading).unansweredAttempt = false)
      ∧ (Memory.wf [] = true ∧ ([0, 255] : List SegIx).Nodup
        ∧ (List.replicate 128 (1 : Byte)).length ≤ 64 * ([0, 255] : List SegIx).length)
      ∧ ((loadingIn .stopping .listen .online).line 0).inFlight = true
      ∧ ((loadingIn .stopped .idle .online).NoAbortOn 0 ∧ (loadingIn .faulted .idle .online).NoAbortOn 0)
      ∧ ((loadingIn .stopped .idle .online).NoFenceOn 0 ∧ (loadingIn .faulted .idle .online).NoFenceOn 0)
      ∧ ((overtaking.ringUnit .h).hold.state = .loading 0 false ∧ overtaking.inTurn (.load .h) = true
        ∧ (overtaking.ringUnit (otherRing .h)).hold.state = .loading 1 false
        ∧ (overtaking.entry 1).state = .loading ∧ (overtaking.entry 1).line = (overtaking.entry 0).line
        ∧ (overtaking.entry 1).station = some 2
        ∧ (overtaking.entry 1).admission.toNat < (overtaking.entry 0).admission.toNat)
      ∧ ((overtaken.ringUnit .h).hold.state = .loading 0 false ∧ overtaken.inTurn (.load .h) = true
        ∧ (overtaken.ringUnit (otherRing .h)).hold.state = .loading 1 true
        ∧ (overtaken.entry 1).state = .loading ∧ (overtaken.entry 1).line = (overtaken.entry 0).line
        ∧ (overtaken.entry 1).station = some 2 ∧ (overtaken.line 0).state = .running
        ∧ (overtaken.station 0 2).state ≠ .offline
        ∧ ¬ (overtaken.entry 1).admission.toNat < (overtaken.entry 0).admission.toNat) := by
  refine ⟨fun _ _ _ => rfl, by decide, by decide +kernel, by decide +kernel,
    ⟨no_abort _ rfl _, no_abort _ rfl _⟩, ⟨?_, ?_⟩, by decide +kernel, by decide +kernel⟩
  · unfold State.NoFenceOn; decide +kernel
  · unfold State.NoFenceOn; decide +kernel

/-- A record that carries READ_FAILED at application. -/
def failed (s : State) : State :=
  (grantedIn s simple).modRing .h fun u => { u with hold := { u.hold with readFailed := true } }

theorem witness_LoadFails :
    (((loadingIn .running .guard .online).ringUnit .h).hold.state = .loading 0 false
        ∧ ((loadingIn .running .guard .online).ringUnit .l).hold.state = .empty
        ∧ (loadingIn .running .guard .online).inTurn (.load .h) = true)
      ∧ ((overtaken.ringUnit .h).hold.state = .loading 0 false ∧ overtaken.inTurn (.load .h) = true
        ∧ (overtaken.ringUnit (otherRing .h)).hold.state = .loading 1 true
        ∧ (overtaken.entry 1).state = .loading ∧ (overtaken.entry 1).line = (overtaken.entry 0).line
        ∧ (overtaken.entry 1).station = some 2 ∧ (overtaken.line 0).state = .running
        ∧ (overtaken.station 0 2).state ≠ .offline)
      ∧ ((failed run).admission.stage = some gH ∧ (failed run).HasPlace
        ∧ ((failed run).ringUnit gH.ring).hold = { state := .ready, bytes := simple, readFailed := true })
      ∧ ((failed (noPlaces run)).admission.stage = some gH ∧ ¬ (noPlaces run).HasPlace) :=
  ⟨⟨rfl, rfl, rfl⟩, by decide +kernel, ⟨rfl, has_place _ rfl, rfl⟩, rfl, no_place _⟩

/-! #### Transmission -/

/-- Line 0 sending an exchange, its first `n` characters echoed. -/
def sending (s : State) (ex : Exchange) (n : Nat) : State :=
  withExchange (lineIn s .transmit) { ex with echoed := n }

/-- A broadcast frame of an owner, its only characters the minimal ones. -/
def toAll (k : MasterKind) (o : Owner) : Exchange := { exchangeOf k o with station := broadcastStation }

theorem witness_EchoPasses :
    (let s := sending run (exchangeOf .sync .station) 0
     s.device.state = .running ∧ (s.line 0).state = .running ∧ (s.line 0).phase = .transmit
        ∧ (s.line 0).current = some { exchangeOf .sync .station with echoed := 0 }
        ∧ (s.line 0).atSpace = false ∧ (0xB4 : Byte) = byteAt (exchangeOf .sync .station).chars 0)
      ∧ (exchangeOf .sync .station).chars.length = 7 + 1
      ∧ (exchangeOf .sync .station).station ≠ broadcastStation
      ∧ (toAll .beacon .beacon).station = broadcastStation
      ∧ ((run.line 0).markCount + 1 = (run.line 0).params.markValue)
      ∧ ({ LineEngine.reset with params := { LineParams.defaults with markValue := 2 } }.markCount + 1 < 2)
      ∧ (let s := (sending run (toAll .poll (.entry 0)) 7).setEntry 0
          { entry3 .exchange with station := some broadcastStation }
         (s.entry 0).state = .exchange ∧ (s.entry 0).kind = .transact
          ∧ (s.entry 0).station = some broadcastStation
          ∧ ∀ j, (s.entry j).state = .fenceWait → (0 : EntryIx) ∉ (s.entry j).waitsFor) := by
  decide +kernel


/-- The completion of an ABORT that waits in place 0 for entry 0, and `s` with it. -/
def waitingAbort : Immediate :=
  { tag := 0x55, ring := .h, kind := 2, status := .ok, result := zeroResult, target := some 0 }

def withAbort (s : State) : State :=
  { s with admission := { s.admission with places := s.admission.places.set 0 (some waitingAbort) } }

theorem decided_deadline {s : State} (h : s.admission.places = Table.fill 8 none)
    (h1 : (s.entry 0).abortPending = false) (h2 : (s.entry 0).deadlinePassed = true) :
    s.Decided 0 .deadline none := ⟨no_abort s h 0, .inr ⟨h1, h2, rfl⟩⟩

theorem decided_abort {s : State} (h : s.admission.places = Table.fill 8 none)
    (h1 : (s.entry 0).abortPending = true) :
    (withAbort s).Decided 0 .aborted (some (0, waitingAbort)) := by
  refine ⟨⟨Table.get_set_self _ _ _, rfl, fun q d hq _ => ?_⟩, .inl ⟨h1, rfl⟩⟩
  by_contra hne
  have : (withAbort s).admission.places.get q = none := by
    show (s.admission.places.set 0 (some waitingAbort)).get q = none
    rw [Table.get_set_ne _ _ (Ne.symm hne), h, Table.get_fill]
  rw [this] at hq; cases hq

/-- Entry 0 in EXCHANGE with a token, and with the flags that decide its ending. -/
def collecting : Entry := { entry3 .exchange with token := some 7, wasDeferred := true }
def late (e : Entry) : Entry := { e with deadlinePassed := true }
def unwanted (e : Entry) : Entry := { e with abortPending := true }

theorem no_fence {s : State} {e : Entry} (h : ∀ j, j ≠ 0 → (s.entry j).state = .free) (h0 : s.entry 0 = e)
    (he : e.state = .exchange ∨ e.state = .queued) : s.NoFenceOn 0 := by
  intro j hj
  by_cases hz : j = 0
  · subst hz; rw [h0] at hj; rcases he with h | h <;> rw [h] at hj <;> cases hj
  · rw [h j hz] at hj; cases hj

theorem free_but (e : Entry) : ∀ j, j ≠ 0 → ((run.setEntry 0 e).entry j).state = .free := by
  intro j hj
  have h : ((run.setEntry 0 e).entry j) = run.entry j := Table.get_set_ne _ _ (Ne.symm hj)
  rw [h]; exact (by decide +kernel : ∀ j, (run.entry j).state = .free) j

/-- EchoPasses' broadcast with an ABORT that waits for its entry. -/
theorem witness_EchoPasses_abort :
    (withAbort ((sending run (toAll .poll (.entry 0)) 7).setEntry 0
        { unwanted (entry3 .exchange) with station := some broadcastStation })).AbortOn 0
          (some (0, waitingAbort))
      ∧ (withAbort ((sending run (toAll .poll (.entry 0)) 7).setEntry 0
        { unwanted (entry3 .exchange) with station := some broadcastStation })).NoFenceOn 0 :=
  ⟨(decided_abort rfl rfl).1, no_fence (free_but _) rfl (.inl rfl)⟩

theorem witness_EchoFaults :
    (∀ e ∈ [entry3 .exchange, late (entry3 .exchange), unwanted (entry3 .exchange)],
      let s := (sending run (exchangeOf .poll (.entry 0)) 7).setEntry 0 e
      (s.entry 0).state = .exchange ∧ (s.line 0).echoFaults < 7 ∧ (s.line 0).errors ≤ 65535
        ∧ (s.entry 0).line = 0 ∧ (s.entry 0).station = some (exchangeOf .poll (.entry 0)).station
        ∧ (exchangeOf .poll (.entry 0)).station ≠ broadcastStation)
      ∧ (∀ k ∈ [MasterKind.poll, .collect],
        ((sending run (exchangeOf k (.entry 0)) 7).setEntry 0 (late collecting)).Decided 0 .deadline none
        ∧ ((sending run (exchangeOf k (.entry 0)) 7).setEntry 0 (late collecting)).NoFenceOn 0
        ∧ (withAbort ((sending run (exchangeOf k (.entry 0)) 7).setEntry 0 (unwanted collecting))).Decided 0
            .aborted (some (0, waitingAbort))
        ∧ (withAbort ((sending run (exchangeOf k (.entry 0)) 7).setEntry 0 (unwanted collecting))).NoFenceOn 0)
      ∧ (∀ c, Heard.nothing = .char c → False)
      ∧ ((0 : Byte) ≠ byteAt (exchangeOf .poll (.entry 0)).chars 0)
      ∧ (((sending run (exchangeOf .sync .station) 1).modLine 0 fun ln => { ln with atSpace := true }).line
          0).atSpace = true
      ∧ ((sending run (toAll .beacon .beacon) 1).line 0).echoFaults < 7
      ∧ (let s := ((sending run (exchangeOf .poll (.entry 0)) 7).setEntry 0 (entry3 .exchange)).setEntry 1
           (entry3 .queued) |>.modLine 0 fun ln => { ln with echoFaults := 7 }
         7 ≤ (s.line 0).echoFaults ∧ (s.line 0).state = .running ∧ (s.line 0).phase = .transmit
          ∧ (s.entry 0).state = .exchange ∧ (s.entry 1).isSwept 0 = true)
      ∧ (∀ x ∈ [(LineState.stopping, StopOp.stop), (.draining, .drain)],
        let s := (sending run (exchangeOf .sync .station) 1).modLine 0 fun ln =>
          { ln with state := x.1, control := .pending x.2 9 .h }
        (s.line 0).state = x.1 ∧ (s.line 0).phase = .transmit ∧ (s.line 0).control = .pending x.2 9 .h
          ∧ (s.line 0).echoFaults < 7) := by
  refine ⟨by decide +kernel, fun k _ => ⟨decided_deadline rfl rfl rfl, ?_, decided_abort rfl rfl, ?_⟩,
    fun c h => by simp at h, by decide +kernel, rfl, by decide +kernel, by decide +kernel, by decide +kernel⟩
  · exact no_fence (e := late collecting) (free_but _) rfl (.inl rfl)
  · exact no_fence (e := unwanted collecting) (free_but _) rfl (.inl rfl)

/-! #### Reception -/

theorem witness_FrameRoundTrip :
    (3 : Nat) < 256 ∧ (15 : Nat) < 256 ∧ 8 ≤ (8 : Nat) ∧ (14 : Nat) ≤ 14
      ∧ (List.replicate 248 (0 : Byte)).length ≤ 248
      ∧ (let f := reply3 8 true 0 []
         let buffer := f.dropLast ++ [f.getLastD 0]
         6 ≤ buffer.length ∧ (byteAt buffer 3).toNat ≤ 248 ∧ buffer.length = 8 + (byteAt buffer 3).toNat)
      ∧ (let ln : LineEngine := { LineEngine.reset with receiver := .assemble, rxBuffer := [0xB4] }
         ln.rxBuffer = (reply3 8 true 0 []).take 1 ∧ ln.atSpace = false) := by decide +kernel

/-- A receiver state of line 0. -/
def hearing (s : State) (r : ReceiverState) (buffer : List Byte) : State :=
  s.modLine 0 fun ln => { ln with receiver := r, rxBuffer := buffer }

theorem witness_ReceiverTakes :
    ((hearing run .hunt []).line 0).receiver = .hunt ∧ ((hearing run .hunt []).line 0).atSpace = false
      ∧ ((hearing run .assemble [0xB4]).line 0).rxBuffer.length + 1 < 6
      ∧ (6 ≤ [0xB4, 3, 0x81, 1, 0, 0].length ∧ (byteAt [0xB4, 3, 0x81, 1, 0, 0] 3).toNat ≤ 248
        ∧ [0xB4, 3, 0x81, 1, 0, (0 : Byte)].length + 1 < 8 + (byteAt [0xB4, 3, 0x81, 1, 0, 0] 3).toNat)
      ∧ ((hearing (lineIn run .guard) .discard []).line 0).receiver = .discard
      ∧ ((hearing (lineIn run .idle) .discard []).line 0).phase = .idle := by decide +kernel

theorem witness_BadStrays :
    (∀ p ∈ [Phase.guard, Phase.listen, Phase.idle], ((lineIn run p).line 0).phase ≠ .receive)
      ∧ ((hearing (lineIn run .guard) .hunt []).line 0).receiver = .hunt ∧ (0xB5 : Byte) ≠ 0xB4
      ∧ (let b : List Byte := [0xB4, 3, 0x81, 249, 0]
         ((hearing (lineIn run .listen) .assemble b).line 0).receiver = .assemble
          ∧ 5 ≤ b.length ∧ 248 < (byteAt (b ++ [0]) 3).toNat)
      ∧ (let b : List Byte := [0xB4, 3, 0x81, 0, 0, 0, 0]
         (byteAt (b ++ [0]) 3).toNat ≤ 248 ∧ b.length + 1 = 8 + (byteAt (b ++ [0]) 3).toNat
          ∧ frameValid (b ++ [0]) = false) := by
  decide +kernel

/-- Line 0 in a phase with all of a frame but its last character received. -/
def hears (s : State) (p : Phase) (frame : List Byte) : State := assembling (lineIn s p) frame

theorem frame_ends {s : State} (kind : Nat) (seq : Bool) (token : Nat) (payload : List Byte)
    (h : s.device.state = .running) (h1 : (s.line 0).receiver = .assemble)
    (h2 : (s.line 0).atSpace = false)
    (h3 : (s.line 0).rxBuffer = (reply3 kind seq token payload).dropLast)
    (h4 : (reply3 kind seq token payload).dropLast ++ [(reply3 kind seq token payload).getLastD 0]
      = reply3 kind seq token payload)
    (h5 : payload.length ≤ 248) (h6 : 8 ≤ kind ∧ kind ≤ 14) (h7 : token < 256) :
    s.FrameEnds 0 ((reply3 kind seq token payload).getLastD 0) 3 kind seq false token payload :=
  ⟨h, h1, h2, ⟨0, false, by rw [h3, h4]; rfl⟩, h5, h6, by decide, h7⟩

theorem witness_ValidStrays :
    (hears run .guard (reply3 14 true 255 [1])).FrameEnds 0
        ((reply3 14 true 255 [1]).getLastD 0) 3 14 true false 255 [1]
      ∧ ((hears run .guard (reply3 14 true 255 [1])).line 0).phase ≠ .receive
      ∧ ((hears run .idle (reply3 14 true 255 [1])).line 0).phase = .idle
      ∧ run.cfg.strays = true :=
  ⟨frame_ends _ _ _ _ rfl rfl rfl rfl (by decide +kernel) (by decide) (by decide) (by decide), by decide, rfl,
    rfl⟩

/-- Line 0 receiving the answer `frame` to an exchange; entry 0 as given. -/
def answering (ex : Exchange) (e : Entry) (frame : List Byte) : State :=
  withExchange (hears ((online3 run).setEntry 0 e) .receive frame) ex

theorem receiving (ex : Exchange) (e : Entry) (frame : List Byte) (h : ex.station ≠ broadcastStation) :
    (answering ex e frame).Receiving 0 ex ∧ (answering ex e frame).NoAbortOn 0
      ∧ (answering ex e frame).entry 0 = e ∧ (answering ex e frame).station 0 2 = (online3 run).station 0 2 :=
  ⟨⟨.inl rfl, rfl, rfl, h⟩, no_abort _ rfl _, rfl, rfl⟩

theorem answer_ends (ex : Exchange) (e : Entry) (kind : Nat) (seq : Bool) (token : Nat)
    (payload : List Byte)
    (h4 : (reply3 kind seq token payload).dropLast ++ [(reply3 kind seq token payload).getLastD 0]
      = reply3 kind seq token payload)
    (h5 : payload.length ≤ 248) (h6 : 8 ≤ kind ∧ kind ≤ 14) (h7 : token < 256) :
    (answering ex e (reply3 kind seq token payload)).FrameEnds 0
      ((reply3 kind seq token payload).getLastD 0) 3 kind seq false token payload :=
  frame_ends _ _ _ _ rfl rfl rfl rfl h4 h5 h6 h7

theorem witness_ReplyTaken :
    (let f := reply3 8 true 0 [9]
     let ex := exchangeOf .poll (.entry 0)
     (answering ex (entry3 .exchange) f).FrameEnds 0 (f.getLastD 0) (addressOf ex.station) 8 ex.seq false
        0 [9] ∧ (answering ex (entry3 .exchange) f).Receiving 0 ex
      ∧ (answering ex (entry3 .exchange) f).NoAbortOn 0)
      ∧ (answering (exchangeOf .poll (.entry 0)) (entry3 .exchange) (reply3 8 true 0 [9])).NoFenceOn 0
      ∧ (entry3 .exchange).state = .exchange ∧ (entry3 .exchange).line = 0
      ∧ (entry3 .exchange).station = some (exchangeOf .poll (.entry 0)).station
      ∧ (withAbort (answering (exchangeOf .poll (.entry 0)) (unwanted (entry3 .exchange))
          (reply3 8 true 0 [9]))).AbortOn 0 (some (0, waitingAbort)) := by
  refine ⟨⟨answer_ends _ _ _ _ _ _ (by decide +kernel) (by decide) (by decide) (by decide),
    (receiving _ _ _ (by decide)).1, (receiving _ _ _ (by decide)).2.1⟩, ?_, by decide, by decide, by decide,
    (decided_abort rfl rfl).1⟩
  unfold State.NoFenceOn; decide +kernel

theorem no_fence_answering (ex : Exchange) (e : Entry) (frame : List Byte) (he : e.state = .exchange) :
    (answering ex e frame).NoFenceOn 0 :=
  no_fence (e := e) (free_but e) rfl (.inl he)

theorem ends_with_abort {s : State} {l : Line} {last : Byte} {addr kind token : Nat} {seq attention : Bool}
    {payload : List Byte} (h : s.FrameEnds l last addr kind seq attention token payload) :
    (withAbort s).FrameEnds l last addr kind seq attention token payload :=
  ⟨h.running, h.receiver, h.mark, h.frame, h.length, h.kinds, h.address, h.tokens⟩

/-- The answers that a POLL or a COLLECT takes: an exchange, its kind, the frame's kind, token and payload. -/
def answers : List (MasterKind × Nat × Nat × List Byte) :=
  [(.poll, 9, 15, []), (.poll, 11, 0, [1]), (.poll, 11, 0, [2]), (.collect, 8, 7, [9]), (.collect, 10, 7, []),
   (.collect, 11, 0, [3]), (.poll, 14, 0, [])]

/-- The exchange of such an answer. -/
def asking (k : MasterKind) : Exchange :=
  { exchangeOf k (.entry 0) with flag := true, token := if k = .collect then 7 else 0 }

theorem answer_meets {x : MasterKind × Nat × Nat × List Byte} (hx : x ∈ answers) (e : Entry) :
    (answering (asking x.1) e (reply3 x.2.1 true x.2.2.1 x.2.2.2)).FrameEnds 0
        ((reply3 x.2.1 true x.2.2.1 x.2.2.2).getLastD 0) (addressOf (asking x.1).station) x.2.1 true false
        x.2.2.1 x.2.2.2
      ∧ (answering (asking x.1) e (reply3 x.2.1 true x.2.2.1 x.2.2.2)).Receiving 0 (asking x.1) := by
  have h : ∀ y ∈ answers, (reply3 y.2.1 true y.2.2.1 y.2.2.2).dropLast
        ++ [(reply3 y.2.1 true y.2.2.1 y.2.2.2).getLastD 0] = reply3 y.2.1 true y.2.2.1 y.2.2.2
      ∧ y.2.2.2.length ≤ 248 ∧ (8 ≤ y.2.1 ∧ y.2.1 ≤ 14) ∧ y.2.2.1 < 256 := by decide +kernel
  obtain ⟨h1, h2, h3, h4⟩ := h x hx
  exact ⟨answer_ends _ _ _ _ _ _ h1 h2 h3 h4, (receiving _ _ _ (by
    show (2 : Station) ≠ broadcastStation; decide)).1⟩

/-- `answer_meets` gives the frames. Each ending stands with nothing that decides first, with the deadline
passed and with an ABORT that waits. -/
theorem witness_DeferTaken :
    (∀ x ∈ answers, ∀ e ∈ [entry3 .exchange, collecting],
        (answering (asking x.1) e (reply3 x.2.1 true x.2.2.1 x.2.2.2)).Undecided 0
        ∧ (answering (asking x.1) e (reply3 x.2.1 true x.2.2.1 x.2.2.2)).NoFenceOn 0
        ∧ (answering (asking x.1) (late e) (reply3 x.2.1 true x.2.2.1 x.2.2.2)).Decided 0 .deadline none
        ∧ (withAbort (answering (asking x.1) (unwanted e) (reply3 x.2.1 true x.2.2.1 x.2.2.2))).Decided 0
            .aborted (some (0, waitingAbort))
        ∧ e.state = .exchange ∧ e.line = 0 ∧ e.station = some (asking x.1).station)
      ∧ (∀ e, (answering (asking .poll) e (reply3 9 true 15 [])).TokenPasses 0 (asking .poll) 15)
      ∧ collecting.token = some (asking .collect).token
      ∧ ({ collecting with collectsUsed := 49 }.collectsUsed + 1 = LineParams.defaults.collectLimit
        ∧ collecting.collectsUsed + 1 < LineParams.defaults.collectLimit)
      ∧ (asking .poll).flag = true := by
  have h : ∀ e, (answering (asking .poll) e (reply3 9 true 15 [])).station 0 2
      = { StationRecord.reset with state := .online, seqBit := true } := fun _ => rfl
  refine ⟨fun x _ e he => ?_, fun e => ⟨fun j hj => ?_, fun hr => ?_⟩, rfl, by decide, rfl⟩
  · have hs : e.state = .exchange ∧ e.abortPending = false ∧ e.deadlinePassed = false ∧ e.line = 0
        ∧ e.station = some (asking x.1).station := by
      simp only [List.mem_cons, List.not_mem_nil, or_false] at he
      rcases he with rfl | rfl <;> exact ⟨rfl, rfl, rfl, rfl, rfl⟩
    exact ⟨⟨hs.2.1, hs.2.2.1, no_abort _ rfl 0⟩, no_fence_answering _ _ _ hs.1,
      decided_deadline rfl hs.2.1 rfl, decided_abort rfl rfl, hs.1, hs.2.2.2.1, hs.2.2.2.2⟩
  · exact absurd (show j ∈ ([] : List EntryIx) from hj) (by simp)
  · exact absurd (show _ ∈ ([] : List ReleaseItem) from hr) (by simp)

theorem witness_SyncAndEventTaken :
    (let f := reply3 12 true 0 [0x34, 0x12]
     let ex := exchangeOf .sync .station
     (answering ex Entry.reset f).FrameEnds 0 (f.getLastD 0) (addressOf ex.station) 12 true false 0
        [0x34, 0x12] ∧ (answering ex Entry.reset f).Receiving 0 ex)
      ∧ (let f := reply3 13 true 15 [1]
         let ex := exchangeOf .eventFetch .station
         (answering ex Entry.reset f).FrameEnds 0 (f.getLastD 0) (addressOf ex.station) 13 true false 15 [1]
          ∧ (answering ex Entry.reset f).Receiving 0 ex)
      ∧ (let f := reply3 12 false 0 [0x34, 0x12]
         let ex := exchangeOf .probe .station
         (answering ex Entry.reset f).FrameEnds 0 (f.getLastD 0) (addressOf ex.station) 12 false false 0
            [0x34, 0x12] ∧ (answering ex Entry.reset f).Receiving 0 ex)
      ∧ (let f := reply3 14 false 0 []
         let ex := exchangeOf .eventFetch .station
         (answering ex Entry.reset f).FrameEnds 0 (f.getLastD 0) (addressOf ex.station) 14 false false 0 []
          ∧ (answering ex Entry.reset f).Receiving 0 ex)
      ∧ (((online3 run).station 0 2).answered none).state = .online
      ∧ ({ (online3 run).station 0 2 with state := .unknown }.answered none).state = .unknown
      ∧ ({ kind := .event, token := 15 } : ReleaseItem) ∉ (((online3 run).station 0 2).answered none).release
      ∧ ({ kind := .event, token := 15 } : ReleaseItem)
          ∈ ({ (online3 run).station 0 2 with release := [{ kind := .event, token := 15 }] }.answered
              none).release :=
  ⟨⟨answer_ends _ _ _ _ _ _ (by decide +kernel) (by decide) (by decide) (by decide),
      (receiving _ _ _ (by decide)).1⟩,
    ⟨answer_ends _ _ _ _ _ _ (by decide +kernel) (by decide) (by decide) (by decide),
      (receiving _ _ _ (by decide)).1⟩,
    ⟨answer_ends _ _ _ _ _ _ (by decide +kernel) (by decide) (by decide) (by decide),
      (receiving _ _ _ (by decide)).1⟩,
    ⟨answer_ends _ _ _ _ _ _ (by decide +kernel) (by decide) (by decide) (by decide),
      (receiving _ _ _ (by decide)).1⟩,
    by decide +kernel, by decide +kernel, by decide +kernel, by decide +kernel⟩

/-! #### Failures -/

/-- Line 0 in LISTEN with its window over, or in RECEIVE, on an exchange; entry 0 and station 3 as given. -/
def unheard (p : Phase) (ex : Exchange) (e : Entry) (r : StationRecord → StationRecord) : State :=
  withExchange (((lineIn ((online3 run).setEntry 0 e) p).modStation 0 2 r).modLine 0 fun ln =>
    { ln with windowTimer := .expired, receiver := if p = .receive then .assemble else .hunt }) ex

/-- Entry 0 in EXCHANGE after `n` attempts. -/
def tried (n : Nat) : Entry := { entry3 .exchange with attemptsUsed := n, attemptLimit := 8, everSent := true }

theorem no_fence_unheard (p : Phase) (ex : Exchange) (e : Entry) (r : StationRecord → StationRecord)
    (he : e.state = .exchange ∨ e.state = .queued) : (unheard p ex e r).NoFenceOn 0 :=
  no_fence (e := e) (free_but e) rfl he

/-- The window's end and the break: `unheard`. The frame that is no answer (`answer_meets`, a NO_EVENT) and the
two REFUSEs: `answering`. Each with attempts left and with none, with nothing that decides first, with the
deadline passed and with an ABORT that waits. -/
theorem witness_AttemptFails :
    (∀ n ∈ [1, 2, 3, 4, 7], 1 ≤ (tried n).attemptsUsed ∧ (tried n).attemptsUsed < (tried n).attemptLimit
        ∧ (tried n).state = .exchange)
      ∧ (tried 8).attemptLimit ≤ (tried 8).attemptsUsed
      ∧ (1 ≤ { collecting with collectAttemptsUsed := 1 }.collectAttemptsUsed
        ∧ { collecting with collectAttemptsUsed := 1 }.collectAttemptsUsed < collecting.attemptLimit
        ∧ collecting.attemptLimit ≤ { collecting with collectAttemptsUsed := 3 }.collectAttemptsUsed
        ∧ collecting.token = some (asking .collect).token)
      ∧ (∀ p ∈ [Phase.listen, Phase.receive],
        let s := unheard p (asking .poll) (tried 1) id
        (s.line 0).state = .running ∧ (s.line 0).phase = p ∧ (s.station 0 2).state = .online
          ∧ (s.station 0 2).failures + 1 < (s.line 0).params.failureThreshold
          ∧ (s.line 0).errors ≤ 65535 ∧ (s.line 0).current = some (asking .poll)
          ∧ (p = .listen → (s.line 0).windowTimer = .expired)
          ∧ (p = .receive → (s.line 0).receiver = .assemble))
      ∧ (∀ p ex e r, e.abortPending = false → e.deadlinePassed = false → (unheard p ex e r).Undecided 0)
      ∧ (∀ p ex e r, e.abortPending = false → (unheard p ex (late e) r).Decided 0 .deadline none)
      ∧ (∀ p ex e r, (withAbort (unheard p ex (unwanted e) r)).Decided 0 .aborted (some (0, waitingAbort)))
      ∧ (∀ p ex n r, (unheard p ex (tried n) r).NoFenceOn 0)
      ∧ (let s := fun buffer => hearing (unheard .receive (asking .poll) (tried 1) id) .assemble buffer
         (∀ b, ((s b).line 0).rxBuffer = b ∧ ((s b).line 0).phase = .receive
            ∧ ((s b).line 0).receiver = .assemble ∧ ((s b).line 0).atSpace = false)
          ∧ 6 ≤ ([0xB4, 3, 0x88, 249, 0] ++ [(0 : Byte)]).length
          ∧ 248 < (byteAt ([0xB4, 3, 0x88, 249, 0] ++ [0]) 3).toNat
          ∧ (∀ bad ∈ [(reply3 8 true 0 []).dropLast ++ [((reply3 8 true 0 []).getLastD 0) + 1],
              frameChars 3 (ctrlByte 8 true false false false) 0 0 [], reply3 7 true 0 [],
              reply3 15 true 0 []],
            bad.length = 8 + (byteAt bad 3).toNat ∧ (byteAt bad 3).toNat ≤ 248 ∧ frameValid bad = false))
      ∧ (∀ ls ∈ [LineState.draining, .stopping],
        ((unheard .listen (asking .poll) (tried 1) id).modLine 0 fun ln => { ln with state := ls }).Active 0)
      ∧ (∀ (s : State) (ex : Exchange), ex.kind = .poll → s.WrongFor 0 ex 3 14 true 0 [])
      ∧ (∀ (s : State) (ex : Exchange), ex.kind = .collect → s.WrongFor 0 ex 3 8 true (ex.token + 1) [])
      ∧ (∀ (s : State) (ex : Exchange), ex.kind = .sync ∨ ex.kind = .probe →
          s.WrongFor 0 ex 3 12 true 0 [1] ∧ s.WrongFor 0 ex 3 8 true 0 [1, 2])
      ∧ ∀ (s : State) (ex : Exchange), ex.kind = .eventFetch →
          s.WrongFor 0 ex 3 13 true 0 [1] ∧ s.WrongFor 0 ex 3 13 true 16 [1] ∧ s.WrongFor 0 ex 3 12 true 1 [] := by
  refine ⟨by decide +kernel, by decide, by decide, by decide +kernel,
    fun _ _ _ _ h1 h2 => ⟨h1, h2, no_abort _ rfl 0⟩, fun _ _ _ _ h => decided_deadline rfl h rfl,
    fun _ _ _ _ => decided_abort rfl rfl, fun _ _ _ _ => no_fence_unheard _ _ _ _ (.inl rfl),
    ⟨fun _ => ⟨rfl, rfl, rfl, rfl⟩, by decide, by decide, by decide +kernel⟩, ?_,
    fun s ex h => .inr (.inl ⟨h, by simp, by simp, by simp⟩),
    fun s ex h => .inr (.inr (.inl ⟨h, by simp, by simp, by simp⟩)),
    fun s ex h => ⟨.inr (.inr (.inr (.inl ⟨h.symm, by simp⟩))), .inr (.inr (.inr (.inl ⟨h.symm, by simp⟩)))⟩,
    fun s ex h => ⟨.inr (.inr (.inr (.inr ⟨h, by simp, by simp⟩))),
      .inr (.inr (.inr (.inr ⟨h, by simp, by simp⟩))), .inr (.inr (.inr (.inr ⟨h, by simp, by simp⟩)))⟩⟩
  intro ls h
  simp only [List.mem_cons, List.not_mem_nil, or_false] at h
  rcases h with rfl | rfl
  · exact .inr (.inl rfl)
  · exact .inr (.inr rfl)

/-- Station 3 one failure short of its threshold, three entries in its lists, entry 0 as given and in the list
that its exchange asks for. -/
def crowded (p : Phase) (ex : Exchange) (e : Entry) (st : StationState) : State :=
  ((unheard p ex e fun r =>
    { r with
      state := st, failures := 2
      fifo := if ex.kind = .collect then [1] else [0, 1]
      deferred := if ex.kind = .collect then [0, 5] else [5] }).setEntry 1
      (entry3 .queued)).setEntry 5 { entry3 .deferred with token := some 7 }

/-- Its attempt fails by the end of the window and by a break. -/
theorem crowded_fails (ex : Exchange) (e : Entry) (st : StationState) :
    (∃ ln, (crowded .listen ex e st).AttemptFailsBy 0 ex (.responseWindowExpiry 0) .noAnswer ln)
      ∧ ∃ ln, (crowded .receive ex e st).AttemptFailsBy 0 ex (.sequenceBreak 0) .badFrame ln :=
  ⟨⟨_, .inl ⟨rfl, rfl, rfl, rfl, rfl⟩⟩, ⟨_, .inr (.inl ⟨rfl, rfl, rfl, .inl ⟨rfl, rfl⟩⟩)⟩⟩

theorem crowded_quiet (p : Phase) (ex : Exchange) (e : Entry) (st : StationState) (he : e.state ≠ .fenceWait)
    (i : EntryIx) : (crowded p ex e st).NoAbortOn i ∧ (crowded p ex e st).NoFenceOn i := by
  refine ⟨no_abort _ rfl i, fun j hj => ?_⟩
  have h : (crowded p ex e st).entry j = if j = 5 then { entry3 .deferred with token := some 7 }
      else if j = 1 then entry3 .queued else if j = 0 then e else run.entry j := by
    have a : (crowded p ex e st).entry j = (((run.setEntry 0 e).setEntry 1 (entry3 .queued)).setEntry 5
        { entry3 .deferred with token := some 7 }).entry j := rfl
    rw [a]; unfold State.setEntry State.entry; simp only [Table.get_set, eq_comm (a := j)]
  rw [h] at hj
  split at hj
  · cases hj
  · split at hj
    · cases hj
    · split at hj
      · exact absurd hj he
      · rw [(by decide +kernel : ∀ j, (run.entry j).state = .free) j] at hj; cases hj

theorem witness_LastFailures :
    (let s := unheard .listen (exchangeOf .poll (.entry 0)) (tried 8) id
     (s.entry 0).attemptLimit ≤ (s.entry 0).attemptsUsed ∧ (s.entry 0).kind = .transact
        ∧ (s.entry 0).state = .exchange ∧ (s.entry 0).line = 0 ∧ (s.line 0).windowTimer = .expired
        ∧ (s.entry 0).station = some 2 ∧ (s.entry 0).wasDeferred = false
        ∧ (s.entry 0).replyTrueLength = none ∧ (s.line 0).errors ≤ 65535
        ∧ (s.station 0 2).failures + 1 < (s.line 0).params.failureThreshold)
      ∧ (unheard .listen (exchangeOf .poll (.entry 0)) (tried 8) id).NoFenceOn 0
      ∧ (unheard .listen (exchangeOf .poll (.entry 0)) (tried 8) id).Undecided 0
      ∧ ((unheard .listen (exchangeOf .sync .station) (entry3 .queued) fun r =>
          { r with state := .offline }).station 0 2).state = .offline
      ∧ (exchangeOf .sync .station).owner = .station
      ∧ (∀ st ∈ [StationState.unknown, .suspect, .online], ∀ p ∈ [Phase.listen, .receive],
          ∀ ex ∈ [asking .poll, asking .collect, exchangeOf .sync .station], ∀ e ∈ [tried 1, collecting],
        let s := crowded p ex e st
        let fifo := if ex.kind = .collect then [1] else [0, 1]
        let deferred := if ex.kind = .collect then [0, 5] else [5]
        (s.station 0 2).state = st ∧ (s.station 0 2).fifo = fifo ∧ (s.station 0 2).deferred = deferred
          ∧ (s.line 0).state = .running ∧ (s.line 0).current = some ex
          ∧ (s.station 0 2).failures + 1 = (s.line 0).params.failureThreshold
          ∧ (s.line 0).errors ≤ 65535 ∧ (fifo ++ deferred).Nodup
          ∧ (∀ i ∈ [0, 1, 5], (s.entry i).line = 0 ∧ (s.entry i).station = some 2)
          ∧ (s.entry 0).state = .exchange ∧ (s.entry 0).attemptsUsed < (s.entry 0).attemptLimit
          ∧ (s.entry 0).collectAttemptsUsed < (s.entry 0).attemptLimit
          ∧ (s.entry 1).state = .queued ∧ (s.entry 5).state = .deferred)
      ∧ collecting.token = some (asking .collect).token
      ∧ (tried 8).attemptLimit ≤ (tried 8).attemptsUsed
      ∧ ((crowded .listen (exchangeOf .sync .station) (entry3 .retryWait) .online).entry 0).state = .retryWait
      ∧ (∀ p ex e st, e.state ≠ .fenceWait → ∀ i,
          (crowded p ex e st).NoAbortOn i ∧ (crowded p ex e st).NoFenceOn i)
      ∧ (∀ p ex e st, e.abortPending = false → e.deadlinePassed = false → (crowded p ex e st).Undecided 0)
      ∧ (∀ p ex e st, e.abortPending = false → (crowded p ex (late e) st).Decided 0 .deadline none)
      ∧ (∀ p ex e st, (withAbort (crowded p ex (unwanted e) st)).Decided 0 .aborted (some (0, waitingAbort))) :=
  ⟨by decide +kernel, no_fence_unheard _ _ _ _ (.inl rfl), ⟨rfl, rfl, no_abort _ rfl 0⟩, by decide +kernel, rfl,
    by decide +kernel, rfl, by decide, by decide +kernel, fun _ _ _ _ he => crowded_quiet _ _ _ _ he,
    fun _ _ _ _ h1 h2 => ⟨h1, h2, no_abort _ rfl 0⟩, fun _ _ _ _ h => decided_deadline rfl h rfl,
    fun _ _ _ _ => decided_abort rfl rfl⟩

/-! #### The arbiter -/

/-- One candidate of each class for line 0, and none. -/
theorem witness_ArbiterOrder :
    let b := lineIn (online3 run) .idle
    let head := fun (r : Ring) =>
      (b.setEntry 0 { entry3 .queued with ring := r }).modStation 0 2 fun x => { x with fifo := [0] }
    b.choose 0 = none
      ∧ ((head .l).modLine 0 fun ln => { ln with credit := 8, beaconDue := true }).choose 0
          = some (.head 2 0)
      ∧ ((head .l).modLine 0 fun ln => { ln with credit := 7, beaconDue := true }).choose 0 = some .beacon
      ∧ (b.setEntry 5 { entry3 .deferred with dueTime := some 3 }).choose 0 = some (.collect 5)
      ∧ (head .h).choose 0 = some (.head 2 0)
      ∧ (b.modStation 0 2 fun x => { x with attention := true }).choose 0 = some (.eventFetch 2)
      ∧ (((b.modStation 0 2 fun x => { x with attention := true }).modStation 0 9 fun x =>
          { x with attention := true }).modLine 0 fun ln => { ln with eventRotation := 3 }).choose 0
          = some (.eventFetch 9)
      ∧ (b.modLine 0 fun ln => { ln with reprobeDue := true }).choose 0 = some .reprobe
      ∧ (b.modStation 0 2 fun x => { x with flushDue := some 4 }).choose 0 = some (.flush 2) := by
  decide +kernel

/-- Line 0 in GUARD with its timer over; and with entry 0 heading the FIFO of station 3 in a state. -/
def guarding (s : State) : State := (lineIn s .guard).modLine 0 fun ln => { ln with guardTimer := .expired }

def headed (st : StationState) (r : Ring) : State :=
  ((guarding run).setEntry 0 { entry3 .queued with ring := r }).modStation 0 2 fun x =>
    { x with state := st, fifo := [0] }

/-- A DRAIN under way, and a due re-probe. -/
def drainingLine (s : State) : State :=
  s.modLine 0 fun ln => { ln with state := .draining, control := .pending .drain 9 .h }

def reprobing (s : State) : State := s.modLine 0 fun ln => { ln with reprobeDue := true }

theorem witness_GuardExpires :
    let g := guarding (online3 run)
    let cleared := fun s : State => s.setLine 0 { s.line 0 with reprobeDue := false }
    let flushing := (guarding run).modStation 0 2 fun x => { x with flushDue := some 4 }
    (g.device.state = .running ∧ (g.line 0).state = .running ∧ (g.line 0).phase = .guard
        ∧ (g.line 0).guardTimer = .expired ∧ (g.line 0).receiver = .hunt)
      ∧ ((drainingLine g).NoWork 0 ∧ ¬ (drainingLine (headed .online .h)).NoWork 0
        ∧ ((drainingLine g).line 0).control = .pending .drain 9 .h
        ∧ (drainingLine (headed .online .h)).choose 0 = some (.head 2 0))
      ∧ ((g.line 0).beaconDue = false ∧ (g.line 0).reprobeDue = false
        ∧ (∀ i, (g.entry i).state ≠ .deferred) ∧ (∀ a, (g.station 0 a).fifo = [])
        ∧ ∀ a, (g.station 0 a).attention = false ∧ (g.station 0 a).flushDue = none)
      ∧ (∀ st ∈ [StationState.online, .unknown, .suspect],
        (headed st .h).choose 0 = some (.head 2 0) ∧ ((headed st .h).station 0 2).state = st)
      ∧ (∀ credit ∈ [7, 8],
        let s := (headed .online .l).modLine 0 fun ln => { ln with credit := credit }
        s.choose 0 = some (.head 2 0) ∧ (s.station 0 2).fifo = 0 :: [] ∧ (s.entry 0).state = .queued
          ∧ (s.entry 0).ring = .l ∧ (s.line 0).credit = credit)
      ∧ (((guarding run).setEntry 0 { entry3 .queued with station := some broadcastStation }).modStation 0
          broadcastStation fun x => { x with fifo := [0] }).choose 0 = some (.head broadcastStation 0)
      ∧ (let s := g.setEntry 5 { entry3 .deferred with dueTime := some 3, token := some 7 }
         s.choose 0 = some (.collect 5) ∧ (s.entry 5).station = some 2 ∧ (2 : Station) ≠ broadcastStation)
      ∧ (g.modStation 0 2 fun x => { x with attention := true }).choose 0 = some (.eventFetch 2)
      ∧ flushing.choose 0 = some (.flush 2)
      ∧ (g.modLine 0 fun ln => { ln with beaconDue := true }).choose 0 = some .beacon
      ∧ (let s := reprobing (g.modStation 0 2 fun x => { x with state := .offline })
         s.choose 0 = some .reprobe ∧ (s.station 0 2).state = .offline
          ∧ ∀ b, b ≠ broadcastStation → (s.station 0 b).state = .offline → b = 2)
      ∧ ((reprobing flushing).choose 0 = some .reprobe
        ∧ (∀ a, ((reprobing flushing).station 0 a).state ≠ .offline)
        ∧ (cleared (reprobing flushing)).choose 0 = some (.flush 2))
      ∧ ((reprobing g).choose 0 = some .reprobe ∧ (∀ a, ((reprobing g).station 0 a).state ≠ .offline)
        ∧ (cleared (reprobing g)).choose 0 = none) := by
  unfold State.NoWork
  decide +kernel

/-! #### Timers and retirement -/

theorem witness_LineTimers :
    (let s := (lineIn run .idle).modLine 0 fun ln =>
      { ln with
        phase := .guard, beaconTimer := .expired, probeTimer := .expired
        params := { ln.params with beaconPeriod := 65535 } }
     (s.line 0).state = .running ∧ (s.line 0).phase ≠ .idle ∧ (s.line 0).beaconTimer = .expired
        ∧ (s.line 0).params.beaconPeriod ≠ 0 ∧ (s.line 0).probeTimer = .expired)
      ∧ (((run.modStation 0 29 fun r => { r with state := .offline }).station 0 29).state = .offline
        ∧ (29 : Station) ≠ broadcastStation)
      ∧ ((run.modStation 0 2 fun r => { r with linger := .expired }).station 0 2).linger = .expired := by
  decide +kernel

/-- Line 0 with the jabber timer over and nothing in flight. -/
def jabbering : State :=
  (lineIn run .guard).modLine 0 fun ln => { ln with jabberTimer := .expired, errors := 65535 }

/-- The same in LISTEN, on an exchange of station 3; entry 0 as given. -/
def cutting (ex : Exchange) (e : Entry) : State :=
  withExchange (((lineIn ((online3 run).setEntry 0 e) .listen).modLine 0 fun ln =>
    { ln with jabberTimer := .expired })) ex

theorem no_fence_cutting (ex : Exchange) (e : Entry) (he : e.state = .exchange) : (cutting ex e).NoFenceOn 0 :=
  no_fence (e := e) (free_but e) rfl (.inl he)

theorem witness_JabberFaults :
    ((jabbering.line 0).jabberTimer = .expired ∧ (jabbering.line 0).inFlight = false
        ∧ (∀ i, (jabbering.entry i).isSwept 0 = false) ∧ (jabbering.line 0).control = .empty
        ∧ (jabbering.line 0).errors ≤ 65535
        ∧ ((drainingLine jabbering).line 0).control = .pending .drain 9 .h)
      ∧ (∀ o ∈ [Owner.station, .beacon],
        let s := cutting (exchangeOf .sync o) (entry3 .retiring)
        (s.line 0).jabberTimer = .expired ∧ (s.line 0).errors ≤ 65535
          ∧ (s.line 0).current = some (exchangeOf .sync o) ∧ (exchangeOf .sync o).owner = o
          ∧ ∀ i, (s.entry i).isSwept 0 = false)
      ∧ (∀ x ∈ [(MasterKind.poll, tried 1), (.collect, collecting)],
        ∀ e ∈ [x.2, late x.2, unwanted x.2],
        let s := cutting (exchangeOf x.1 (.entry 0)) e
        (s.line 0).jabberTimer = .expired ∧ (s.line 0).control = .empty ∧ (s.line 0).errors ≤ 65535
          ∧ (s.line 0).state = .running ∧ (s.line 0).inFlight = true
          ∧ (s.line 0).current = some (exchangeOf x.1 (.entry 0)) ∧ (s.entry 0).kind = .transact
          ∧ (s.entry 0).state = .exchange ∧ (s.entry 0).line = 0 ∧ (s.entry 0).station = some 2
          ∧ (x.1 = .poll → (s.entry 0).token = none)
          ∧ ∀ j, j ≠ 0 → (s.entry j).isSwept 0 = false)
      ∧ (∀ k, ∀ e ∈ [tried 1, collecting], (cutting (exchangeOf k (.entry 0)) e).Undecided 0
        ∧ (cutting (exchangeOf k (.entry 0)) e).NoFenceOn 0
        ∧ (cutting (exchangeOf k (.entry 0)) (late e)).Decided 0 .deadline none
        ∧ (withAbort (cutting (exchangeOf k (.entry 0)) (unwanted e))).Decided 0 .aborted
            (some (0, waitingAbort))) := by
  refine ⟨by decide +kernel, by decide +kernel, by decide +kernel, fun k e he => ?_⟩
  have hs : e.state = .exchange ∧ e.abortPending = false ∧ e.deadlinePassed = false := by
    simp only [List.mem_cons, List.not_mem_nil, or_false] at he
    rcases he with rfl | rfl <;> exact ⟨rfl, rfl, rfl⟩
  exact ⟨⟨hs.2.1, hs.2.2, no_abort _ rfl 0⟩, no_fence_cutting _ _ hs.1, decided_deadline rfl hs.2.1 rfl,
    decided_abort rfl rfl⟩

/-- A FENCE waits for the swept entries 0 and 3, admitted after them; entry 3 is deferred under a token. -/
def sweeping : State :=
  ((jabbering.setEntry 0 { entry3 .queued with admission := 2 }).setEntry 3
    { entry3 .deferred with admission := 1, token := some 7 }).setEntry 1
    { fenceEntry with waitsFor := [0, 3] }

/-- The eighth echo fault of a SYNC, with entries on the line and a DRAIN pending, sweeps them too. -/
def eighthFault : State :=
  (((sending run (exchangeOf .sync .station) 1).modLine 0 fun ln =>
    { ln with state := .draining, control := .pending .drain 9 .h, echoFaults := 7 }).setEntry 0
      { entry3 .queued with admission := 2 }).setEntry 3 { entry3 .retryWait with admission := 1 }

theorem witness_LineCascade :
    ((∃ t, exec (.jabberExpiry 0) sweeping = .next t) ∧ (∀ i, (sweeping.entry i).state ≠ .exchange)
        ∧ (sweeping.line 0).inFlight = false ∧ (sweeping.line 0).jabberTimer = .expired
        ∧ (sweeping.line 0).control = .empty
        ∧ ((sweeping.entry 0).line = 0 ∧ (sweeping.entry 0).state = .queued
          ∧ (sweeping.entry 0).kind = .transact)
        ∧ ((sweeping.entry 1).state = .fenceWait ∧ (sweeping.entry 1).waitsFor ≠ []))
      ∧ ((∃ t, exec (.echoCheck 0 .nothing) eighthFault = .next t) ∧ eighthFault.Active 0
        ∧ (eighthFault.line 0).phase = .transmit ∧ 7 ≤ (eighthFault.line 0).echoFaults
        ∧ (eighthFault.line 0).control = .pending .drain 9 .h)
      ∧ (let s := (lineWith .running .guard .empty (lineRec 2)).setEntry 0 (entry3 .queued)
         (∃ t, exec .lineControlStop s = .next t) ∧ s.AtApplication gH (lineRec 2)
          ∧ (s.line 0).state = .running ∧ (s.line 0).control = .empty ∧ (s.line 0).inFlight = false
          ∧ (s.entry 0).isSwept 0 = true) :=
  ⟨⟨⟨_, rfl⟩, by decide +kernel⟩, ⟨⟨_, rfl⟩, .inr (.inl rfl), rfl, by decide, rfl⟩,
    ⟨⟨_, rfl⟩, ⟨rfl, rfl, rfl⟩, by decide +kernel⟩⟩

theorem test_cascade_after_echo :
    (after (.echoCheck 0 .nothing) eighthFault).retire.queue.map (·.item) = [.entry 3, .entry 0, .lineControl 0]
      ∧ ((after (.echoCheck 0 .nothing) eighthFault).line 0).faultCause = .echo := by decide +kernel

/-- The cascade takes entry 3 before entry 0, and the FENCE after both. -/
theorem test_cascade_order :
    (after (.jabberExpiry 0) sweeping).retire.queue.map (·.item) = [.entry 3, .entry 0, .entry 1] := by
  decide +kernel

/-- Entry 0 of station 3, its deadline over. -/
def overdue (st : EntryState) : State :=
  (lineIn (online3 run) .guard).setEntry 0 { entry3 st with deadlineTimer := .expired }

/-- A FENCE as entry 1 waiting for the given entries. -/
def fenced (s : State) (w : List EntryIx) : State :=
  s.setEntry 1 { fenceEntry with tag := 0x0202, waitsFor := w }

theorem witness_Deadlines :
    (∀ st ∈ [EntryState.exchange, .queued, .retryWait, .deferred],
        ((overdue st).entry 0).deadlineTimer = .expired ∧ ((overdue st).entry 0).state = st
          ∧ ((overdue st).entry 0).station = some 2
          ∧ ∀ j, ((overdue st).entry j).state = .fenceWait → (0 : EntryIx) ∉ ((overdue st).entry j).waitsFor)
      ∧ (overdue .queued).NoAbortOn 0
      ∧ (∀ w ∈ [[0], [0, 5]],
        let s := fenced (overdue .queued) w
        (s.entry 1).state = .fenceWait ∧ (s.entry 1).kind = .fence ∧ (s.entry 1).station = none
          ∧ (s.entry 1).waitsFor.Nodup ∧ 0 ∈ (s.entry 1).waitsFor
          ∧ ∀ k, k ≠ 1 → (s.entry k).state = .fenceWait → (0 : EntryIx) ∉ (s.entry k).waitsFor) := by
  refine ⟨by decide +kernel, no_abort _ rfl _, by decide +kernel⟩

theorem witness_PhaseTimers :
    (∀ e ∈ [entry3 .retryWait, { entry3 .retryWait with token := some 15 }, entry3 .deferred],
        let s := (lineIn run .guard).setEntry 0 { e with phaseTimer := .expired }
        (s.entry 0).phaseTimer = .expired ∧ (s.line (s.entry 0).line).state = .running
          ∧ (s.line (s.entry 0).line).phase ≠ .idle)
      ∧ (entry3 .retryWait).token = none
      ∧ ({ entry3 .retryWait with token := some 15 } : Entry).token ≠ none := by decide +kernel

/-- A step of a part in a state every invariant holds of. -/
theorem witness_StepKeeps :
    (∃ t, step { run with pending := [.prescalerCarry] } = .next t)
      ∧ (∃ t, step { simpleReady with pending := [.transact] } = .next t)
      ∧ simpleReady.store = State.reset.store ∧ simpleReady.cplRing = State.reset.cplRing
      ∧ simpleReady.indRing = State.reset.indRing ∧ simpleReady.entries = State.reset.entries
      ∧ ∀ l, simpleReady.station l broadcastStation = State.reset.station l broadcastStation :=
  ⟨⟨_, rfl⟩, ⟨_, rfl⟩, rfl, rfl, rfl, rfl, by decide +kernel⟩

theorem witness_StepKeeps_tags :
    (simpleReady.TagsOk ∧ simpleReady.FencesOk)
      ∧ (grantedIn (withEntry run fenceEntry) fenceRec).TagsOk
      ∧ (grantedIn (withEntry run fenceEntry) fenceRec).FencesOk
      ∧ ((grantedIn (withEntry run fenceEntry) fenceRec).entry 0).state = .fenceWait := by
  refine ⟨⟨tags_one _ 0 (by decide +kernel), ?_⟩, tags_one _ 0 (by decide +kernel), ?_, by decide +kernel⟩ <;>
    (unfold State.FencesOk; decide +kernel)

end Sys2Proof.Tests
end

/-! SUPPORT. A record that completes at once (R129, R134, R135): how the stage reaches it, what its immediate
place and its leaving the hold do, and what the part begins of itself then. -/

namespace Sys2Proof.Machine

/-! ### Equal parts of two states -/

theorem State.SameWork.line {s t : State} (h : s.SameWork t) (l : Line) : t.line l = s.line l := by
  rw [State.line, h.lines, State.line]

theorem State.SameWork.station {s t : State} (h : s.SameWork t) (l : Line) (a : Station) :
    t.station l a = s.station l a := by
  rw [State.station, h.stations, State.station]

theorem State.SameWork.sameOtherLines {s t : State} (h : s.SameWork t) (l : Line) :
    s.SameOtherLines t l :=
  ⟨fun m _ => h.line m, fun m a _ => h.station m a⟩

theorem State.modLine_sameOtherLines (s : State) (l : Line) (f : LineEngine → LineEngine) :
    s.SameOtherLines (s.modLine l f) l :=
  ⟨fun m hm => by rw [State.line_modLine, if_neg hm.symm], fun _ _ _ => rfl⟩

/-- The effect of a record before its completion is placed: at most lines, stations, entries and the
Payload Store differ. -/
structure State.ChangesWorkOnly (s u : State) : Prop where
  host : s.SameHost u
  admission : u.admission = s.admission
  retire : u.retire = s.retire
  ind : u.ind = s.ind

theorem State.ChangesWorkOnly.refl (s : State) : s.ChangesWorkOnly s :=
  ⟨State.SameHost.refl s, rfl, rfl, rfl⟩

theorem State.modLine_changesWorkOnly (s : State) (l : Line) (f : LineEngine → LineEngine) :
    s.ChangesWorkOnly (s.modLine l f) :=
  ⟨⟨rfl, rfl, rfl, rfl, rfl, rfl, rfl, rfl, rfl⟩, rfl, rfl, rfl⟩

/-! ### The posting that begins -/

theorem State.startsWithCopy_iff (s : State) (item : RetireItem) :
    s.startsWithCopy item = true ↔ s.CopiesFirst item := by
  cases item with
  | entry i =>
    cases hk : (s.entry i).kind <;> cases hn : (s.entry i).replyTrueLength <;>
      simp [State.startsWithCopy, State.CopiesFirst, Entry.copyLength, hk, hn]
  | immediate p => simp [State.startsWithCopy, State.CopiesFirst]
  | lineControl l => simp [State.startsWithCopy, State.CopiesFirst]

/-- The wake reaches a posting by `beginPosting` alone. -/
@[simp] theorem State.wake_posting (s : State) :
    s.wake.retire.posting = s.beginPosting.retire.posting := by
  have hd : s.grantStage.device = s.device := s.grantStage_device
  have hr : s.grantStage.hasRoom .completion = s.hasRoom .completion := by
    unfold State.hasRoom State.unseen State.writtenRing State.cfg
    rw [State.grantStage_device, State.grantStage_cplRing]
  have hc : ∀ item, s.grantStage.startsWithCopy item = s.startsWithCopy item := fun item => by
    unfold State.startsWithCopy State.entry
    rw [State.grantStage_entries]
  rw [State.wake, State.beginIndication_retire]
  unfold State.beginPosting
  simp only [hd, hr, hc, State.grantStage_retire]
  cases s.retire.queue <;> split <;> simp

/-- A posting in flight goes on. -/
theorem State.beginPosting_of_busy {s : State} (h : s.retire.posting ≠ .idle) :
    s.beginPosting = s := by
  simp [State.beginPosting, h]

/-- The unit stays idle without an item or without room (R147). -/
theorem State.beginPosting_of_waits {s : State}
    (h : s.retire.queue = [] ∨ s.hasRoom .completion = false) : s.beginPosting = s := by
  unfold State.beginPosting
  rcases h with h | h
  · rw [h]; split <;> rfl
  · simp [h]

/-- An idle unit with an item and room begins with the copy or with the record (R147, R148). -/
theorem State.beginPosting_posting {s : State} {q : QueuedItem} {rest : List QueuedItem}
    (hd : s.device.state = .running) (hi : s.retire.posting = .idle)
    (hq : s.retire.queue = q :: rest) (hr : s.hasRoom .completion = true) :
    s.beginPosting.retire.posting = if s.startsWithCopy q.item then .copying else .writing false := by
  simp [State.beginPosting, hd, hi, hq, hr]

/-- After the wake an idle Retire Unit has looked at its queue (R147). -/
theorem State.wake_postingBegun {s : State} (hd : s.device.state = .running)
    (hi : s.retire.posting = .idle) : s.wake.PostingBegun := by
  have room : s.hasRoom .completion = true ↔ s.unseen .completion < s.cfg.completionRing.size :=
    decide_eq_true_iff
  have hu : s.wake.unseen .completion = s.unseen .completion := by
    simp [State.unseen, State.writtenRing]
  have hc : s.wake.cfg = s.cfg := by simp [State.cfg]
  have copies : ∀ item, s.wake.CopiesFirst item ↔ s.startsWithCopy item = true := fun item => by
    rw [State.startsWithCopy_iff]
    simp [State.CopiesFirst]
  refine ⟨fun hw => ?_, fun q rest hq hr => ?_⟩
  · rw [State.wake_queue, hu, hc] at hw
    rw [State.wake_posting, State.beginPosting_of_waits, hi]
    refine hw.imp id fun hfull => ?_
    rw [Bool.eq_false_iff, Ne, room]
    omega
  · rw [State.wake_queue] at hq
    rw [hu, hc, ← room] at hr
    rw [State.wake_posting, State.beginPosting_posting hd hi hq hr, copies]
    exact ⟨fun h => if_pos h, fun h => if_neg h⟩

/-- An operation that leaves the posting alone, and the wake after it (R147). -/
theorem State.postingAfter_wake {s u : State} (hp : u.retire.posting = s.retire.posting)
    (hd : u.device.state = .running) : s.PostingAfter u.wake := by
  refine ⟨fun hb => ?_, fun hi => State.wake_postingBegun hd (hp.trans hi)⟩
  rw [State.wake_posting, State.beginPosting_of_busy (by rwa [hp]), hp]

/-! ### The stage -/

/-- A stage that an operation left free is granted anew at the wake (R129). -/
theorem State.wake_stage_regrant {s : State} (hd : s.device.state = .running)
    (hs : s.admission.stage = none) : s.wake.admission.stage = s.wake.regrant := by
  rw [State.wake_stage s hd, hs]
  simp [State.regrant, State.isReady]

/-- The record at application reaches `f`, and the part goes on (R129). -/
theorem State.onGranted_of_atApplication {s : State} {g : Grant} {b : List Byte}
    {isKind : List Byte → Bool} (f : Grant → List Byte → State) (h : s.AtApplication g b)
    (hk : isKind b = true) : s.onGranted isKind f = (f g b).wake := by
  obtain ⟨_, hstage, hhold⟩ := h
  simp [State.onGranted, hstage, hhold, hk]

/-! ### The record leaves its hold -/

theorem State.applyAndLeave_sameHost (s : State) (g : Grant) : s.SameHost (s.applyAndLeave g) :=
  ⟨rfl, rfl, rfl, rfl, rfl, rfl, rfl, rfl, rfl⟩

theorem State.applyAndLeave_sameWork (s : State) (g : Grant) : s.SameWork (s.applyAndLeave g) :=
  ⟨rfl, rfl, rfl, rfl⟩

@[simp] theorem State.applyAndLeave_retire (s : State) (g : Grant) :
    (s.applyAndLeave g).retire = s.retire := rfl

@[simp] theorem State.applyAndLeave_stage (s : State) (g : Grant) :
    (s.applyAndLeave g).admission.stage = none :=
  State.modRing_stage _ _ _

@[simp] theorem State.applyAndLeave_counter (s : State) (g : Grant) :
    (s.applyAndLeave g).admission.counter = s.admission.counter + 1 :=
  State.modRing_counter _ _ _

@[simp] theorem State.applyAndLeave_credit (s : State) (g : Grant) :
    (s.applyAndLeave g).admission.credit = creditApplied g s.admission.credit :=
  State.modRing_credit _ _ _

@[simp] theorem State.applyAndLeave_places (s : State) (g : Grant) :
    (s.applyAndLeave g).admission.places = s.admission.places :=
  State.modRing_places _ _ _

/-- The two steps before the leaving do not touch a ring's unit. -/
theorem State.ringUnit_numbered_applied (s : State) (g : Grant) (r : Ring) :
    (s.numbered.applied g).ringUnit r = s.ringUnit r := by cases r <;> rfl

@[simp] theorem State.applyAndLeave_ringUnit_self (s : State) (g : Grant) :
    (s.applyAndLeave g).ringUnit g.ring = (s.ringUnit g.ring).leave := by
  rw [State.applyAndLeave, State.leaveHold, State.ringUnit_modRing_self,
    State.ringUnit_numbered_applied]

@[simp] theorem State.applyAndLeave_ringUnit_other (s : State) (g : Grant) :
    (s.applyAndLeave g).ringUnit (otherRing g.ring) = s.ringUnit (otherRing g.ring) := by
  rw [State.applyAndLeave, State.leaveHold, State.ringUnit_modRing_other,
    State.ringUnit_numbered_applied]

/-- A READY record that leaves has no read in flight, so it only adds to the accesses asked (R128). -/
theorem State.applyAndLeave_asked {s : State} {g : Grant}
    (h : (s.ringUnit g.ring).hold.state = .ready) :
    (s.applyAndLeave g).admission.asked = s.admission.asked ++ s.leaveAsks g.ring := by
  have hread : (s.ringUnit g.ring).hold.read g.ring = none := by rw [Hold.read, h]
  rw [State.applyAndLeave, State.leaveHold, State.modRing_asked, State.ringUnit_numbered_applied]
  exact orderAsked_leave_ready _ _ _ hread

/-- A record applied to a state whose Admission Unit differs from `s` in its immediate places at most
(R128, R129, R136). -/
theorem State.applyAndLeave_wake_applied {s u : State} {g : Grant}
    (hd : u.device.state = .running)
    (ha : u.admission = { s.admission with places := u.admission.places })
    (hp : u.retire.posting = s.retire.posting)
    (hr : (s.ringUnit g.ring).hold.state = .ready) :
    s.AppliedAndLeft (u.applyAndLeave g).wake g := by
  have hunit : ∀ r, u.ringUnit r = s.ringUnit r := fun r => by
    cases r <;> simp only [State.ringUnit] <;> rw [ha] <;> rfl
  have hd' : (u.applyAndLeave g).device.state = .running := hd
  exact
    { counter := by rw [State.wake_counter, State.applyAndLeave_counter, ha]
      credit := by rw [State.wake_credit, State.applyAndLeave_credit, ha]
      stage := State.wake_stage_regrant hd' (u.applyAndLeave_stage g)
      posting := State.postingAfter_wake hp hd'
      unit := by rw [State.wake_ringUnit, State.applyAndLeave_ringUnit_self, hunit]
      other := by rw [State.wake_ringUnit, State.applyAndLeave_ringUnit_other, hunit]
      asked := by
        rw [State.wake_asked, State.applyAndLeave_asked (by rw [hunit, hr])]
        simp only [State.leaveAsks, hunit]
        rw [ha] }

/-! ### The immediate place -/

theorem State.placeImmediate_sameHost (s : State) (p : PlaceIx) (c : Immediate) :
    s.SameHost (s.placeImmediate p c) :=
  ⟨rfl, rfl, rfl, rfl, rfl, rfl, rfl, rfl, rfl⟩

theorem State.placeImmediate_sameWork (s : State) (p : PlaceIx) (c : Immediate) :
    s.SameWork (s.placeImmediate p c) :=
  ⟨rfl, rfl, rfl, rfl⟩

/-- The place chosen is FREE, and one is chosen when any is (R135). -/
theorem State.HasPlace.freePlace {s : State} (h : s.HasPlace) :
    ∃ p, s.freePlace = some p ∧ s.admission.places.get p = none := by
  obtain ⟨q, hq⟩ := h
  cases hf : s.freePlace with
  | none =>
    have hnone := List.find?_eq_none.1 hf q (List.mem_finRange q)
    simp [hq] at hnone
  | some p =>
    have hfree := List.find?_some hf
    exact ⟨p, rfl, by simpa using hfree⟩

theorem State.completeNow_of_freePlace {s : State} {p : PlaceIx} (g : Grant) (b : List Byte)
    (f : State → State × Status × List Byte) (h : s.freePlace = some p) :
    s.completeNow g b f = ((f s).1.placeImmediate p
      (immediateOf g.ring b (f s).2.1 (f s).2.2 none)).applyAndLeave g := by
  rw [State.completeNow, h]

/-- Two result areas that fill up to the same twelve bytes make the same completion. -/
theorem State.CompletedBy.of_padTo {s t : State} {g : Grant} {b : List Byte} {status : Status}
    {result result' : List Byte} (h : s.CompletedBy t g b status result)
    (e : padTo 12 result = padTo 12 result') : s.CompletedBy t g b status result' :=
  ⟨h.applied, by rw [← e]; exact h.completion⟩

/-- A record that completes at once, with an effect `f` on the work alone (R129, R134, R135): the
completion, and what the record leaves as it was. -/
theorem State.completeNow_wake_spec {s : State} {g : Grant} {b : List Byte}
    {f : State → State × Status × List Byte} (hat : s.AtApplication g b) (hplace : s.HasPlace)
    (hf : s.ChangesWorkOnly (f s).1) :
    s.CompletedBy (s.completeNow g b f).wake g b (f s).2.1 (f s).2.2
      ∧ s.SameHost (s.completeNow g b f).wake
      ∧ (f s).1.SameWork (s.completeNow g b f).wake
      ∧ s.NoIndication (s.completeNow g b f).wake := by
  obtain ⟨hrun, _, hhold⟩ := hat
  obtain ⟨p, hp, hfree⟩ := hplace.freePlace
  rw [State.completeNow_of_freePlace g b f hp]
  generalize hc : immediateOf g.ring b (f s).2.1 (f s).2.2 none = c
  have hplaces : ((f s).1.placeImmediate p c).admission.places
      = s.admission.places.set p (some c) := by
    rw [← hf.admission]; rfl
  have hhost : s.SameHost (((f s).1.placeImmediate p c).applyAndLeave g) :=
    (hf.host.trans (State.placeImmediate_sameHost _ p c)).trans (State.applyAndLeave_sameHost _ g)
  have hwork : (f s).1.SameWork (((f s).1.placeImmediate p c).applyAndLeave g) :=
    (State.placeImmediate_sameWork _ p c).trans (State.applyAndLeave_sameWork _ g)
  refine ⟨⟨State.applyAndLeave_wake_applied ?_ ?_ ?_ ?_, p, hfree, ?_, ?_⟩,
    hhost.trans (State.wake_sameHost _), hwork.trans (State.wake_sameWork _),
    State.noIndication_wake hf.ind hhost⟩
  · show (f s).1.device.state = .running
    rw [hf.host.device, hrun]
  · rw [← hf.admission]; rfl
  · show (f s).1.retire.posting = s.retire.posting
    rw [hf.retire]
  · rw [hhold]
  · rw [State.wake_places, State.applyAndLeave_places, hplaces, ← hc]
    rfl
  · rw [State.wake_queue, State.applyAndLeave_retire, State.placeImmediate, State.enqueue_queue,
      State.setPlace_retire, State.setPlace_time, hf.retire, hf.host.time]

end Sys2Proof.Machine

/-! The STATUS and CLEAR records of a line (R40, R41). -/

namespace Sys2Proof.Machine

/-! ### LINE_CONTROL records of a good shape -/

theorem shapeOk_lineControl {b : List Byte} (hk : recKind b = 4) (hop : 1 ≤ recOp b ∧ recOp b ≤ 6)
    (hl : recLineNumber b ≤ 3) (hz : zeroFieldsOk b = true) : shapeOk b = true := by
  obtain ⟨h1, h6⟩ := hop
  simp [shapeOk, hk, lineOk, hl, h1, h6, hz]

/-- A LINE_CONTROL of a good shape at application is taken at its line, and the part goes on (R142). -/
theorem State.lineControl_of_atApplication {s : State} {g : Grant} {b : List Byte} {op : Nat}
    (f : State → Grant → List Byte → Line → State) (hat : s.AtApplication g b) (hk : recKind b = 4)
    (hop : recOp b = op) (hrange : 1 ≤ op ∧ op ≤ 6) (hl : recLineNumber b ≤ 3)
    (hz : zeroFieldsOk b = true) : s.lineControl op f = (f s g b (recLine b)).wake := by
  have hkind : isLineControl op b = true := by simp [isLineControl, hk, hop]
  rw [State.lineControl, State.whenRunning_of_eq hat.1, State.onGranted_of_atApplication _ hat hkind,
    if_pos (shapeOk_lineControl hk (hop ▸ hrange) hl hz)]

/-! ### The sample of a line engine -/

theorem le16_ofNat (n : Nat) : le16 (BitVec.ofNat 16 n) = [byteOf n, byteOf (n / 256)] := by
  have hlow : (BitVec.ofNat 16 n).extractLsb' 0 8 = byteOf n := by
    apply BitVec.eq_of_toNat_eq
    simp [byteOf]
  have hhigh : (BitVec.ofNat 16 n).extractLsb' 8 8 = byteOf (n / 256) := by
    apply BitVec.eq_of_toNat_eq
    simp [byteOf, Nat.shiftRight_eq_div_pow]
    omega
  rw [le16, hlow, hhigh]

theorem Entry.isWorkOf_eq_decide (e : Entry) (l : Line) :
    e.isWorkOf l = decide (e.state ≠ .free ∧ e.state ≠ .retiring ∧ e.line = l) := by
  rw [Bool.eq_iff_iff]
  simp [Entry.isWorkOf, and_assoc]

/-- The stations 1 to 30 are the indices below 30 (R74). -/
theorem ne_broadcastStation_iff (a : Station) : a ≠ broadcastStation ↔ a.val < 30 := by
  have hv : broadcastStation.val = 30 := rfl
  rw [Ne, Fin.ext_iff]
  omega

theorem State.offlineCount_eq (s : State) (l : Line) :
    s.offlineCount l = ((List.finRange 31).filter fun a : Fin 31 =>
      decide (a.val < 30 ∧ (s.station l a).state = .offline)).length := by
  rw [State.offlineCount, realStations, List.filter_filter]
  congr 1
  refine List.filter_congr fun a _ => ?_
  rw [Bool.eq_iff_iff]
  simp [← ne_broadcastStation_iff, and_comm]

/-- The bytes of the sample, one by one (R40). -/
theorem State.lineSample_eq (s : State) (l : Line) :
    s.lineSample l =
      [byteOf (s.line l).state.code,
        byteOf (if (s.line l).state = .faulted then (s.line l).faultCause.code else 0),
        byteOf (s.line l).errors, byteOf ((s.line l).errors / 256), byteOf (s.line l).echoFaults,
        byteOf (s.workCount l), (s.line l).beaconNumber.extractLsb' 0 8,
        (s.line l).beaconNumber.extractLsb' 8 8, byteOf (s.line l).markCount,
        byteOf ((s.line l).markCount / 256), byteOf (s.offlineCount l),
        byteOf (s.line l).phase.code] := by
  simp only [State.lineSample, le16_ofNat]
  rfl

/-! ### The two records -/

section
variable {s : State} {g : Grant} {b : List Byte}

/-- STATUS completes with the sample and changes nothing (R40). -/
theorem lineControlStatus_completes (hat : s.AtApplication g b) (hk : recKind b = 4)
    (hop : recOp b = 5) (hl : recLineNumber b ≤ 3) (hz : zeroFieldsOk b = true) (hp : s.HasPlace) :
    ∃ t, exec .lineControlStatus s = .next t
      ∧ s.OnlyCompleted t g b .ok (s.lineSample (recLine b)) :=
  ⟨_, congrArg Host.Outcome.next
      (State.lineControl_of_atApplication _ hat hk hop (by decide) hl hz),
    State.completeNow_wake_spec hat hp (State.ChangesWorkOnly.refl s)⟩

/-- CLEAR completes with the counter's former value, and the counter is 0 (R41). -/
theorem lineControlClear_completes (hat : s.AtApplication g b) (hk : recKind b = 4)
    (hop : recOp b = 6) (hl : recLineNumber b ≤ 3) (hz : zeroFieldsOk b = true) (hp : s.HasPlace) :
    ∃ t, exec .lineControlClear s = .next t
      ∧ s.CompletedBy t g b .ok (le16 (BitVec.ofNat 16 (s.line (recLine b)).errors))
      ∧ s.SameHost t
      ∧ (s.modLine (recLine b) fun ln => { ln with errors := 0 }).SameWork t
      ∧ s.NoIndication t :=
  ⟨_, congrArg Host.Outcome.next
      (State.lineControl_of_atApplication _ hat hk hop (by decide) hl hz),
    State.completeNow_wake_spec hat hp
      (State.modLine_changesWorkOnly s (recLine b) fun ln => { ln with errors := 0 })⟩

end

/-- Settles O31: the two records complete by `completeNow`, STATUS with no effect on the part and CLEAR
with one on its line alone; the sample's codes are those of R40's table, case by case. -/
theorem lineSamples : Obligations.LineSamples := by
  unfold Obligations.LineSamples
  intro s g b hat hk hl hz hp l ln state cause phase held offline
  refine ⟨fun hop => ?_, fun hop => ?_⟩
  · obtain ⟨t, hexec, hdone⟩ := lineControlStatus_completes hat hk hop hl hz hp
    have hstate : ln.state.code = state := by
      simp only [state]; cases ln.state <;> rfl
    have hcause : (if ln.state = .faulted then ln.faultCause.code else 0) = cause := by
      simp only [cause]; cases ln.state <;> cases ln.faultCause <;> rfl
    have hphase : ln.phase.code = phase := by
      simp only [phase]; cases ln.phase <;> rfl
    have hheld : s.workCount l = held := by
      simp only [State.workCount, Entry.isWorkOf_eq_decide, held, l]
    have hoffline : s.offlineCount l = offline := s.offlineCount_eq l
    refine ⟨t, hexec, ?_⟩
    rw [← hstate, ← hcause, ← hphase, ← hheld, ← hoffline]
    exact s.lineSample_eq l ▸ hdone
  · obtain ⟨t, hexec, hdone, hhost, hwork, hind⟩ := lineControlClear_completes hat hk hop hl hz hp
    refine ⟨t, hexec, hdone.of_padTo ?_, ?_, ?_, hwork.stations, hwork.entries, hwork.store, hhost, hind⟩
    · rw [le16_ofNat]; rfl
    · rw [hwork.line, State.line_modLine_self]
    · exact (State.modLine_sameOtherLines s l _).trans (hwork.sameOtherLines l)

end Sys2Proof.Machine

/-! A write of a submission ring's tail (R126): what the begin of a fetch changes of a ring's unit and of the
order of the accesses. -/

namespace Sys2Proof.Machine

/-- A register write is taken while the reset input is released (R172). -/
theorem State.onWrite_of_released {s t : State} (h : s.resetInput = false) : s.onWrite t = t := by
  simp [State.onWrite, h]

/-- A change of a ring's unit stays within the Admission Unit. -/
theorem State.modRing_eq (s : State) (r : Ring) (f : RingUnit → RingUnit) :
    s.modRing r f = { s with admission := (s.modRing r f).admission } := rfl

/-- The two index errors of a tail write (R126). -/
theorem RingUnit.tailError_iff (u : RingUnit) (size : Nat) (tail : Half) :
    u.tailError size tail = true ↔
      size < (tail - u.head).toNat ∨ (u.hold.state ≠ .empty ∧ tail = u.head) := by
  simp [RingUnit.tailError]

/-! ### The begin of a fetch -/

/-- The begin of a fetch changes the hold alone (R127). -/
theorem RingUnit.beginFetch_eq (u : RingUnit) :
    u.beginFetch = { u with
      hold := if u.hold.state = .empty ∧ u.tail ≠ u.head then
          { state := .fetching, bytes := [], readFailed := false } else u.hold } := by
  unfold RingUnit.beginFetch
  split <;> rfl

/-- A read that begins where none was in flight joins the order of the accesses at its end (R165). -/
theorem orderAsked_read_begins {r : Ring} {u v : RingUnit} {a : AdmissionAccess}
    (asked : List AdmissionAccess) (hs : v.shadow = u.shadow) (hu : u.hold.read r = none)
    (hv : v.hold.read r = some a) : orderAsked r u v asked = asked ++ [a] := by
  have shadowStays : u.shadow.ends u.shadow = false ∧ u.shadow.begins u.shadow = false := by
    cases u.shadow <;> exact ⟨rfl, rfl⟩
  simp [orderAsked, hs, hu, hv, shadowStays.1, shadowStays.2]

/-- A new tail asks for a fetch where the hold is EMPTY and the tail differs from the head, and for nothing
else (R126, R127). -/
theorem orderAsked_tail_beginFetch (r : Ring) (u : RingUnit) (tail : Half)
    (asked : List AdmissionAccess) :
    orderAsked r u (RingUnit.beginFetch { u with tail := tail }) asked
      = asked ++ if u.hold.state = .empty ∧ tail ≠ u.head then [.fetch r] else [] := by
  rw [RingUnit.beginFetch_eq]
  by_cases hbegins : u.hold.state = .empty ∧ tail ≠ u.head
  · have hidle : u.hold.read r = none := by rw [Hold.read, hbegins.1]
    simp only [if_pos hbegins]
    exact orderAsked_read_begins asked rfl hidle rfl
  · simp only [if_neg hbegins, List.append_nil]
    exact orderAsked_same asked rfl rfl

/-! ### The command -/

section
variable {s : State} {r : Ring} {v : Word}

/-- The tail write is dropped outside RUNNING (R126, R172). -/
theorem exec_subTailWrite_of_not_running (hreset : s.resetInput = false)
    (hstopped : s.device.state ≠ .running) : exec (.subTailWrite r v) s = .next s :=
  congrArg Host.Outcome.next
    ((State.onWrite_of_released hreset).trans (State.whenRunning_of_ne hstopped))

/-- In RUNNING the tail write reaches the ring (R126). -/
theorem exec_subTailWrite_of_running (hreset : s.resetInput = false)
    (hrun : s.device.state = .running) :
    exec (.subTailWrite r v) s = .next (s.writeTail r (indexOf v)) :=
  congrArg Host.Outcome.next
    ((State.onWrite_of_released hreset).trans (State.whenRunning_of_eq hrun))

/-- An index error halts the part (R126). -/
theorem State.writeTail_of_error {tail : Half}
    (h : (s.ringUnit r).tailError (s.cfg.subRing r).size tail = true) :
    s.writeTail r tail = s.halt .ringIndex .host := if_pos h

/-- Without an index error the ring's unit takes the tail (R126). -/
theorem State.writeTail_of_ok {tail : Half}
    (h : ¬ (s.ringUnit r).tailError (s.cfg.subRing r).size tail = true) :
    s.writeTail r tail = s.modRing r fun u => RingUnit.beginFetch { u with tail := tail } := if_neg h

end

/-- Settles O10, by the device state and the index errors: the halt is the shared one, and a tail that is
taken changes one ring's unit, by the begin of a fetch. -/
theorem tailWrite : Obligations.TailWrite := by
  unfold Obligations.TailWrite
  intro s r v hreset u tail bad
  have herror : u.tailError (s.cfg.subRing r).size tail = true ↔ bad := u.tailError_iff _ tail
  refine ⟨fun hstopped => exec_subTailWrite_of_not_running hreset hstopped,
    fun hrun hbad => ?_, fun hrun hok => ?_⟩
  · have hexec := (exec_subTailWrite_of_running hreset hrun).trans
      (congrArg Host.Outcome.next (State.writeTail_of_error (herror.2 hbad)))
    exact ⟨_, hexec, State.halt_haltedBy hrun .ringIndex .host⟩
  · have hexec := (exec_subTailWrite_of_running hreset hrun).trans
      (congrArg Host.Outcome.next (State.writeTail_of_ok (mt herror.1 hok)))
    exact ⟨_, hexec, (State.ringUnit_modRing_self s r _).trans (RingUnit.beginFetch_eq _),
      State.ringUnit_modRing_other s r _, State.modRing_eq s r _, State.modRing_stage s r _,
      State.modRing_credit s r _, State.modRing_counter s r _, State.modRing_places s r _,
      (State.modRing_asked s r _).trans (orderAsked_tail_beginFetch r u tail _)⟩

end Sys2Proof.Machine

/-! What every command keeps: one `Steady` lemma per command that is no command of Device Control and no
carry, and the invariants of Safety.lean under every step. -/

namespace Sys2Proof.Machine

/-! ### The records that the stage applies -/

section
variable {halts : Bool}

/-- A line that settles after a change of its own engine. -/
theorem Steady.modLine_indicate_settle (s : State) (l : Line) (f : LineEngine → LineEngine) :
    Steady halts s (((s.modLine l f).indicateLine l).settleLine l) :=
  (Steady.modLine s l f).trans ((Steady.indicate _ l _).trans (Steady.settleLine _ l))

theorem StationRecord.started_isBroadcast {r : StationRecord} (linger : Nat) (h : r.isBroadcast) :
    (StationRecord.started linger r).isBroadcast := by
  have empty : r.release.isEmpty = true := by rw [h]; rfl
  simpa [StationRecord.started, empty] using h

theorem Steady.startLine (s : State) (l : Line) : Steady halts s (s.startLine l).1 := by
  unfold State.startLine
  split
  · exact Steady.refl s
  · exact (Steady.modLine s l _).trans ((Steady.mapStations _ l _ fun r hr =>
      StationRecord.started_isBroadcast _ hr).trans
      ((Steady.indicate _ l _).trans (Steady.settleLine _ l)))

theorem Steady.takeStop (s : State) (g : Grant) (b : List Byte) (l : Line) :
    Steady halts s (s.takeStop g b l) := by
  have stops : ∀ u : State, Steady halts u ((u.enterStopping l (recTag b) g.ring).applyAndLeave g) :=
    fun u => (Steady.modLine_indicate_settle u l _).trans (Steady.applyAndLeave _ g)
  unfold State.takeStop
  split
  · split
    · exact stops s
    · exact Steady.setAside s g _
  · unfold State.stopDraining
    split
    · split
      · exact (Steady.placeImmediate s _ _).trans (stops _)
      · exact Steady.setAside s g _
    · exact stops s
    · exact Steady.setAside s g _
  · exact Steady.completeNow g b (Steady.refl s)

theorem Steady.takeDrain (s : State) (g : Grant) (b : List Byte) (l : Line) :
    Steady halts s (s.takeDrain g b l) := by
  unfold State.takeDrain
  split
  · split
    · exact (Steady.modLine_indicate_settle s l _).trans (Steady.applyAndLeave _ g)
    · exact Steady.setAside s g _
  · exact Steady.completeNow g b (Steady.refl s)

theorem StationRecord.newThreshold_isBroadcast {r : StationRecord} (n : Nat) (h : r.isBroadcast) :
    (StationRecord.newThreshold n r).isBroadcast := by
  rw [h]
  rfl

theorem Steady.setParams (s : State) (l : Line) (p : LineParams) : Steady halts s (s.setParams l p).1 := by
  unfold State.setParams State.replaceParams
  split
  · exact Steady.refl s
  · split
    · dsimp only
      split
      · exact Steady.modLine s l _
      · exact (Steady.modLine s l _).trans (Steady.mapStations _ l _ fun r hr =>
          StationRecord.newThreshold_isBroadcast _ hr)
    · exact Steady.refl s

/-- A change of the record of a station 1 to 30. -/
theorem Steady.modStation_real (s : State) (l : Line) {a : Station} (f : StationRecord → StationRecord)
    (h : a ≠ broadcastStation) : Steady halts s (s.modStation l a f) :=
  Steady.modStation s l a f fun _ e => absurd e h

theorem Steady.addStation (s : State) (l : Line) (a : Station) : Steady halts s (s.addStation l a).1 := by
  unfold State.addStation
  split
  · exact Steady.refl s
  · next ha =>
    split
    · exact (Steady.modStation_real s l _ ha).trans (Steady.indicate _ l _)
    · exact Steady.refl s

theorem Steady.removeStation (s : State) (l : Line) (a : Station) :
    Steady halts s (s.removeStation l a).1 := by
  unfold State.removeStation
  split
  · exact Steady.refl s
  · next ha =>
    split
    · exact Steady.refl s
    · refine (Steady.modStation_real s l StationRecord.removed ha).trans ?_
      dsimp only [State.stationOutcome]
      split
      · exact Steady.refl _
      · exact Steady.indicate _ l _

theorem Steady.lineControl {s : State} (op : Nat) {f : State → Grant → List Byte → Line → State}
    (h : ∀ g b l, Steady halts s (f s g b l)) : Steady halts s (s.lineControl op f) :=
  Steady.whenRunning fun _ => Steady.onGranted _ fun g b => by
    split
    · exact h g b _
    · exact Steady.reject s g b _

theorem Steady.stationControl {s : State} (op : Nat)
    {f : State → Line → Station → State × Status × List Byte}
    (h : ∀ l a, Steady halts s (f s l a).1) : Steady halts s (s.stationControl op f) :=
  Steady.whenRunning fun _ => Steady.onGranted _ fun g b => by
    split
    · exact Steady.completeNow g b (h _ _)
    · exact Steady.reject s g b _

theorem Steady.applyTransact (s : State) (g : Grant) (b : List Byte) :
    Steady halts s (s.applyTransact g b) := by
  unfold State.applyTransact
  split
  · exact Steady.reject s g b _
  · next passes =>
    have tagFree : s.findTag g.ring (recTag b) = none := by
      unfold State.transactCheck at passes
      split_ifs at passes with _ _ taken
      simpa using taken
    split
    · next hfree => exact Steady.transactTake s g b _ (State.freeEntry_some hfree) tagFree
    · exact Steady.setAside s g _

/-- A change of an entry that keeps its identity and leaves it as free as it was. -/
theorem Steady.modEntry (s : State) (i : EntryIx) (f : Entry → Entry)
    (h : (f (s.entry i)).identity = (s.entry i).identity)
    (hf : (f (s.entry i)).state = .free ↔ (s.entry i).state = .free)
    (hw : (f (s.entry i)).state = .fenceWait → (s.entry i).state = .fenceWait := by
      first | exact id | simp) :
    Steady halts s (s.modEntry i f) := Steady.setEntry s i _ h hf hw

theorem Steady.abortWaits (s : State) (g : Grant) (b : List Byte) (p : PlaceIx) (i : EntryIx) :
    Steady halts s (s.abortWaits g b p i) := Steady.setPlace s p _

theorem Steady.abortTarget (s : State) (g : Grant) (b : List Byte) (p : PlaceIx) (i : EntryIx) :
    Steady halts s (s.abortTarget g b p i) := by
  unfold State.abortTarget
  split
  · split
    · exact Steady.completeNow g b (Steady.refl s)
    · refine Steady.trans ?_ (Steady.applyAndLeave _ g)
      exact (Steady.abortWaits s g b p i).trans (Steady.modEntry _ i _ rfl Iff.rfl)
  · exact Steady.completeNow g b (Steady.refl s)
  · exact (Steady.abortWaits s g b p i).trans ((Steady.retireFor _ i _ _ _).trans
      ((Steady.settleLine _ _).trans (Steady.applyAndLeave _ g)))

theorem Steady.applyAbort (s : State) (g : Grant) (b : List Byte) : Steady halts s (s.applyAbort g b) := by
  unfold State.applyAbort
  split
  · exact Steady.reject s g b _
  · split
    · exact Steady.completeNow g b (Steady.refl s)
    · split
      · exact Steady.setAside s g _
      · split
        · exact Steady.setAside s g _
        · exact Steady.abortTarget s g b _ _

theorem Steady.applyFence (s : State) (g : Grant) (b : List Byte) : Steady halts s (s.applyFence g b) := by
  unfold State.applyFence
  split
  · exact Steady.reject s g b _
  · split
    · exact Steady.reject s g b _
    · next tagFree =>
      split
      · next hfree =>
        exact Steady.fenceTake s g b _ (State.freeEntry_some hfree) (by simpa using tagFree)
      · exact Steady.setAside s g _

theorem Steady.completeReadFailed (s : State) (g : Grant) (b : List Byte) :
    Steady halts s (s.completeReadFailed g b) := by
  unfold State.completeReadFailed
  split
  · exact (Steady.placeImmediate s _ _).trans ((Steady.applied _ g).trans (Steady.leaveHold _ _))
  · exact Steady.setAside s g _

/-! ### Host heads and causes -/

theorem Steady.modCause (s : State) (r : HostRing) (f : Coalesced → Coalesced) :
    Steady halts s (s.modCause r f) :=
  Steady.of_eq rfl rfl rfl rfl rfl rfl rfl rfl rfl rfl

theorem Steady.clearCause (s : State) (r : HostRing) (request : Bool) :
    Steady halts s (s.clearCause r request) := by
  unfold State.clearCause
  split
  · exact Steady.modCause s r _
  · exact Steady.refl s

/-- The unseen count after a head that lies between the old head and the posted count (R155). -/
theorem WrittenRing.unseen_setHead {w : WrittenRing} {head : Half}
    (h : ¬ w.unseen < (head - w.hostHead).toNat) :
    WrittenRing.unseen { w with hostHead := head } = w.unseen - (head - w.hostHead).toNat := by
  simp only [WrittenRing.unseen] at h ⊢
  bv_omega

/-- A head that the host moves on lets the unseen count only fall (R155). -/
theorem Steady.setHead (s : State) (r : HostRing) {head : Half}
    (h : ¬ (s.writtenRing r).unseen < (head - (s.writtenRing r).hostHead).toNat)
    (hr : s.device.state = .running) :
    Steady halts s (s.setWrittenRing r { s.writtenRing r with hostHead := head }) := by
  have falls := WrittenRing.unseen_setHead h
  have notIdle : ¬ (s.device.state = .idle ∨ s.device.state = .starting) := by simp [hr]
  cases r with
  | completion =>
    refine
      { pending := rfl, time := rfl, device := Or.inl rfl, memory := id, segments := id, tags := id
        fences := id, broadcast := id, room := fun m => ⟨fun k => absurd k notIdle, fun k => ?_⟩ }
    obtain ⟨h1, h2, h3, h4, h5, h6⟩ := m.2 k
    have less : (s.setWrittenRing .completion { s.writtenRing .completion with hostHead := head }).unseen
        .completion ≤ s.unseen .completion :=
      falls.trans_le (Nat.sub_le _ _)
    exact ⟨h1, h2, less.trans h3, h4, fun x => less.trans_lt (h5 x), h6⟩
  | indication =>
    refine
      { pending := rfl, time := rfl, device := Or.inl rfl, memory := id, segments := id, tags := id
        fences := id, broadcast := id, room := fun m => ⟨fun k => absurd k notIdle, fun k => ?_⟩ }
    obtain ⟨h1, h2, h3, h4, h5, h6⟩ := m.2 k
    have less : (s.setWrittenRing .indication { s.writtenRing .indication with hostHead := head }).unseen
        .indication ≤ s.unseen .indication :=
      falls.trans_le (Nat.sub_le _ _)
    exact ⟨h1, h2, h3, less.trans h4, h5, fun x => less.trans_lt (h6 x)⟩

theorem Steady.writeHead (s : State) (r : HostRing) (head : Half) (hr : s.device.state = .running) :
    Steady true s (s.writeHead r head) := by
  unfold State.writeHead
  dsimp only
  split
  · exact Steady.halt s _ _
  · next inRange =>
    split
    · exact Steady.refl s
    · refine (Steady.setHead s r inRange hr).trans ?_
      dsimp only
      split
      · exact (Steady.modCause _ r _).trans (Steady.wake _)
      · exact Steady.wake _

/-! ### Expiries -/

theorem Steady.onExpiry {s t : State} (timer : Timer) (h : Steady halts s t) :
    Steady halts s (s.onExpiry timer t) :=
  Steady.whenRunning fun _ => by
    split
    · exact h
    · exact Steady.refl s

theorem Steady.onArrival {s t : State} (l : Line) (c : LineChar) (kind : Arrival) (h : Steady halts s t) :
    Steady halts s (s.onArrival l c kind t) :=
  Steady.whenRunning fun _ => by
    split
    · exact h
    · exact Steady.refl s

/-- Work of a line, and what the part begins of itself then. -/
theorem Keeps.steady_wake {l : Line} {s t : State} (h : Keeps l s t) : Steady halts s t.wake :=
  h.steady.trans (Steady.wake t)

theorem Steady.windowExpired (s : State) (l : Line) : Steady halts s (s.windowExpired l) := by
  refine Steady.trans (Steady.modLine s l fun ln => { ln with windowTimer := .stopped }) ?_
  unfold State.windowExpired
  dsimp only
  split
  · exact (Keeps.endExchange l _ _).steady
  · exact Steady.refl _

theorem Steady.guardExpired (s : State) (l : Line) : Steady halts s (s.guardExpired l) := by
  unfold State.guardExpired
  split
  · exact (Steady.modLine s l _).trans (Steady.settleLine _ l)
  · exact Steady.modLine s l _

theorem Steady.jabberExpired (s : State) (l : Line) : Steady halts s (s.jabberExpired l) :=
  (Steady.modLine s l _).trans (Keeps.faultLine l _ _).steady

/-- A linger timer that has expired is that of a station 1 to 30: the one of address 31 is stopped (R74). -/
theorem Steady.lingerExpired (s : State) (l : Line) (a : Station)
    (h : (s.station l a).linger = .expired) : Steady halts s (s.lingerExpired l a) := by
  refine Steady.trans (Steady.stations rfl fun m hm => ?_) (Steady.settleLine _ l)
  rw [State.station_modStation]
  split
  · next e =>
    obtain ⟨rfl, rfl⟩ := e
    rw [hm] at h
    cases h
  · exact hm

theorem Steady.deadlineExpired (s : State) (i : EntryIx) : Steady halts s (s.deadlineExpired i) := by
  have stops : Steady halts s (s.modEntry i fun e => { e with deadlineTimer := .stopped }) :=
    Steady.modEntry s i _ rfl Iff.rfl
  unfold State.deadlineExpired
  refine stops.trans ?_
  dsimp only
  split
  · exact Steady.modEntry _ i _ rfl Iff.rfl
  · exact (Steady.retireEntry _ i _ _).trans (Steady.settleLine _ _)
  · exact (Steady.retireEntry _ i _ _).trans (Steady.settleLine _ _)
  · exact (Steady.retireEntry _ i _ _).trans (Steady.settleLine _ _)
  · exact Steady.refl _

theorem Steady.retryHoldoffExpired (s : State) (i : EntryIx) (h : (s.entry i).state = .retryWait) :
    Steady halts s (s.retryHoldoffExpired i) :=
  Steady.trans (Steady.modEntry s i (fun e => { e with phaseTimer := .stopped, state := .queued }) rfl
    (by simp [h])) (Steady.settleLine _ _)

theorem Steady.becomeDue (s : State) (i : EntryIx) (h : (s.entry i).state ≠ .free) :
    Steady halts s (s.becomeDue i) :=
  Steady.trans (Steady.modEntry s i (fun e =>
      { e with phaseTimer := .stopped, state := .deferred, dueTime := some s.time.increment }) rfl
    (by simp [h])) (Steady.settleLine _ _)

end

end Sys2Proof.Machine

/-! The step and the device states: what a command changes of the queue, of device time and of the device
state, and the invariants under every step (R22, R160 to R168). -/

namespace Sys2Proof.Machine

/-! ### The commands by what they may do to the device -/

/-- The commands that Device Control takes in any device state: resets, START, the writes of CONFIG_ADDR, the
end of the configuration read (R161, R162, R168). -/
def isDeviceControl : Instr → Bool
  | .hardReset _ => true
  | .controlReset _ => true
  | .controlStart _ => true
  | .configAddrWrite _ _ => true
  | .configReadEnd _ => true
  | _ => false

/-- The commands that may halt the part (R166). -/
def mayHalt : Instr → Bool
  | .subTailWrite _ _ => true
  | .hostHeadWrite _ _ => true
  | .fetchEnd _ _ => true
  | .shadowWriteEnd _ _ => true
  | .completionRecordWriteEnd _ => true
  | .indicationWriteEnd _ => true
  | _ => false

section
variable {s t : State}

/-- The register writes are dropped while the reset input is asserted. -/
theorem Steady.onWrite {halts : Bool} (h : Steady halts s t) : Steady halts s (s.onWrite t) := by
  unfold State.onWrite
  split
  · exact Steady.refl s
  · exact h

theorem Steady.writeTail (s : State) (r : Ring) (tail : Half) : Steady true s (s.writeTail r tail) := by
  unfold State.writeTail
  split
  · exact Steady.halt s _ _
  · exact Steady.modRing s r _

theorem execFetchEnd_steady {r : Ring} {result : BusRead} (h : execFetchEnd r result s = .next t) :
    Steady true s t := by
  unfold execFetchEnd at h
  split at h
  · split at h
    · split at h
      · cases h
        exact (Steady.modHold s r _).trans (Steady.wake _)
      · cases h
    · cases h
      exact (Steady.modHold s r _).trans (Steady.halt _ _ _)
  · cases h
    exact Steady.refl s

theorem execLoadEnd_steady {halts : Bool} {r : Ring} {bytes : List Byte}
    (h : execLoadEnd r bytes s = .next t) : Steady halts s t := by
  unfold execLoadEnd at h
  split at h
  · split at h
    · split at h
      · cases h
        exact (Steady.storeRequest s _ _).trans ((Steady.loadDone _ r _).trans (Steady.wake _))
      · cases h
    · cases h
      exact (Steady.loadFailed s r _).trans (Steady.wake _)
  · cases h
    exact Steady.refl s

theorem execLoadError_steady {halts : Bool} {r : Ring} {received : List Byte}
    (h : execLoadError r received s = .next t) : Steady halts s t := by
  cases h
  split
  · split
    · exact (Steady.storeRequest s _ _).trans ((Steady.loadFailed _ r _).trans (Steady.wake _))
    · exact (Steady.loadFailed s r _).trans (Steady.wake _)
  · exact Steady.refl s

theorem execShadowWriteEnd_steady {r : Ring} {result : BusWriteEnd}
    (h : execShadowWriteEnd r result s = .next t) : Steady true s t := by
  cases h
  refine Steady.whenRunning fun _ => ?_
  split
  · split
    · exact (Steady.placed s _ _).trans (Steady.modRing _ r _)
    · exact (Steady.placedShadowPart s _ _).trans (Steady.halt _ _ _)
  · exact Steady.refl s

/-- The Retire Unit goes from the reply copy on to the record write, for which the room it has stays. -/
theorem Steady.beginRecord {halts : Bool} (s : State) (copyFailed : Bool)
    (h : s.retire.posting ≠ .idle) : Steady halts s (s.beginRecord copyFailed) where
  pending := rfl
  time := rfl
  device := Or.inl rfl
  memory := id
  segments := id
  tags := id
  fences := id
  broadcast := id
  room := fun m => ⟨fun k => absurd (m.1 k).2.2.1 h, fun k => by
    obtain ⟨cplSize, indSize, cpl, ind, cplRoom, indRoom⟩ := m.2 k
    exact ⟨cplSize, indSize, cpl, ind, fun _ => cplRoom h, indRoom⟩⟩

theorem State.placed_posting (s : State) (addr : HostAddr) (bytes : List Byte) :
    (s.placed addr bytes).retire.posting = s.retire.posting := by
  unfold State.placed
  split <;> rfl

theorem State.placed_device (s : State) (addr : HostAddr) (bytes : List Byte) :
    (s.placed addr bytes).device = s.device := by
  unfold State.placed
  split <;> rfl

theorem State.placed_writing (s : State) (addr : HostAddr) (bytes : List Byte) :
    (s.placed addr bytes).ind.writing = s.ind.writing := by
  unfold State.placed
  split <;> rfl

theorem execReplyCopyEnd_steady {halts : Bool} {result : BusWriteEnd}
    (h : execReplyCopyEnd result s = .next t) : Steady halts s t := by
  cases h
  refine Steady.whenRunning fun _ => ?_
  have busy : ∀ {addr bytes}, s.retire.posting = .copying →
      (s.placed addr bytes).retire.posting ≠ .idle := fun e => by
    rw [State.placed_posting, e]
    exact Posting.noConfusion
  split
  · next copying _ =>
    split
    · exact (Steady.placed s _ _).trans (Steady.beginRecord _ _ (busy copying))
    · exact (Steady.placed s _ _).trans (Steady.beginRecord _ _ (busy copying))
  · exact Steady.refl s

theorem execCompletionRecordWriteEnd_steady {result : BusWriteEnd}
    (h : execCompletionRecordWriteEnd result s = .next t) : Steady true s t := by
  cases h
  refine Steady.whenRunning fun running => ?_
  split
  · next writing _ =>
    split
    · split
      · refine (Steady.placed s _ _).trans ((Steady.posted _ _ ?_ ?_).trans (Steady.wake _))
        · rw [State.placed_posting, writing]
          exact Posting.noConfusion
        · rw [State.placed_device, running]
      · exact (Steady.placedRecordPart s _ _).trans (Steady.halt _ _ _)
    · exact Steady.refl s
  · exact Steady.refl s

theorem execIndicationWriteEnd_steady {result : BusWriteEnd}
    (h : execIndicationWriteEnd result s = .next t) : Steady true s t := by
  cases h
  refine Steady.whenRunning fun running => ?_
  split
  · next writing =>
    split
    · split
      · refine (Steady.placed s _ _).trans ((Steady.indicationWritten _ ?_ ?_).trans (Steady.wake _))
        · rw [State.placed_writing, writing]
        · rw [State.placed_device, running]
      · exact (Steady.placedRecordPart s _ _).trans (Steady.halt _ _ _)
    · exact Steady.refl s
  · exact Steady.refl s

/-! ### Every command -/

/-- A command that is neither Device Control's nor a carry leaves the queue of commands and device time alone,
keeps every invariant, and changes the device state at most by a halt, where it is one that may. -/
theorem exec_steady {c : Instr} (h : exec c s = .next t) (hc : isDeviceControl c = false)
    (carry : c ≠ .prescalerCarry) : Steady (mayHalt c) s t := by
  cases c with
  | hardReset | controlReset | controlStart | configAddrWrite | configReadEnd => cases hc
  | prescalerCarry => exact absurd rfl carry
  | subTailWrite r v => cases h; exact Steady.onWrite (Steady.whenRunning fun _ => Steady.writeTail s r _)
  | hostHeadWrite r v => cases h; exact Steady.onWrite (Steady.whenRunning fun hr => Steady.writeHead s r _ hr)
  | notifyCauseWrite v =>
    cases h
    exact Steady.onWrite (Steady.whenRunning fun _ =>
      (Steady.clearCause s _ _).trans (Steady.clearCause _ _ _))
  | notifyMaskWrite v =>
    cases h
    refine Steady.onWrite ?_
    split
    · exact Steady.refl s
    · exact Steady.of_eq rfl rfl rfl rfl rfl rfl rfl rfl rfl rfl
  | registerWriteIgnored => cases h; exact Steady.refl s
  | fetchEnd r result => exact execFetchEnd_steady h
  | transact => cases h; exact Steady.whenRunning fun _ => Steady.onGranted _ (Steady.applyTransact s)
  | abort => cases h; exact Steady.whenRunning fun _ => Steady.onGranted _ (Steady.applyAbort s)
  | fence => cases h; exact Steady.whenRunning fun _ => Steady.onGranted _ (Steady.applyFence s)
  | lineControlStart =>
    cases h; exact Steady.lineControl 1 fun g b l => Steady.completeNow g b (Steady.startLine s l)
  | lineControlStop => cases h; exact Steady.lineControl 2 (Steady.takeStop s)
  | lineControlDrain => cases h; exact Steady.lineControl 3 (Steady.takeDrain s)
  | lineControlSet =>
    cases h; exact Steady.lineControl 4 fun g b l => Steady.completeNow g b (Steady.setParams s l _)
  | lineControlStatus =>
    cases h; exact Steady.lineControl 5 fun g b _ => Steady.completeNow g b (Steady.refl s)
  | lineControlClear =>
    cases h; exact Steady.lineControl 6 fun g b l => Steady.completeNow g b
      (Steady.modLine s l fun ln => { ln with errors := 0 })
  | stationControlAdd => cases h; exact Steady.stationControl 1 (Steady.addStation s)
  | stationControlRemove => cases h; exact Steady.stationControl 2 (Steady.removeStation s)
  | stationControlQuery => cases h; exact Steady.stationControl 3 fun _ _ => Steady.refl s
  | timeRead =>
    cases h
    refine Steady.whenRunning fun _ => Steady.onGranted _ fun g b => ?_
    unfold State.applyTimeRead
    split
    · exact Steady.completeNow g b (Steady.refl s)
    · exact Steady.reject s g b _
  | unknownKindRecord =>
    cases h; exact Steady.whenRunning fun _ => Steady.onGranted _ fun g b => Steady.reject s g b _
  | readFailedCompletion =>
    cases h
    refine Steady.whenRunning fun _ => ?_
    split
    · split
      · exact (Steady.completeReadFailed s _ _).trans (Steady.wake _)
      · exact Steady.refl s
    · exact Steady.refl s
  | loadEnd r bytes => exact execLoadEnd_steady h
  | loadError r received => exact execLoadError_steady h
  | shadowWriteEnd r result => exact execShadowWriteEnd_steady h
  | echoCheck l heard =>
    cases h
    refine Steady.whenRunning fun _ => ?_
    split
    · exact (Keeps.checkEcho l s _ _).steady_wake
    · exact Steady.refl s
  | syncArrival l => cases h; exact Steady.onArrival l _ _ (Steady.modLine s l _)
  | badFrame l char =>
    cases h
    refine Steady.onArrival l _ _ ?_
    split
    · exact ((Steady.modLine s l _).trans (Keeps.rxFail l _).steady_wake)
    · exact ((Steady.modLine s l _).trans (Keeps.rxBadComplete l _).steady_wake)
    · exact Steady.refl s
  | sequenceBreak l =>
    cases h
    refine Steady.whenRunning fun _ => ?_
    split
    · exact (Keeps.rxFail l s).steady_wake
    · exact Steady.refl s
  | discardEnd l =>
    cases h
    refine Steady.whenRunning fun _ => ?_
    split
    · exact (Steady.modLine s l _).trans (Keeps.wakeIdle l _).steady_wake
    · exact Steady.refl s
  | validStationFrame l last => cases h; exact Steady.onArrival l _ _ (Keeps.rxValid l s last).steady_wake
  | responseWindowExpiry l =>
    cases h; exact Steady.onExpiry _ ((Steady.windowExpired s l).trans (Steady.wake _))
  | guardExpiry l => cases h; exact Steady.onExpiry _ ((Steady.guardExpired s l).trans (Steady.wake _))
  | beaconPeriodExpiry l =>
    cases h
    exact Steady.onExpiry _ ((Steady.modLine s l _).trans (Keeps.settleLine l _).steady_wake)
  | probeIntervalExpiry l =>
    cases h
    exact Steady.onExpiry _ ((Steady.modLine s l _).trans (Keeps.settleLine l _).steady_wake)
  | jabberExpiry l => cases h; exact Steady.onExpiry _ ((Steady.jabberExpired s l).trans (Steady.wake _))
  | releaseLingerExpiry l a =>
    cases h
    refine Steady.whenRunning fun _ => ?_
    split
    · next expired => exact (Steady.lingerExpired s l a expired).trans (Steady.wake _)
    · exact Steady.refl s
  | deadlineExpiry i =>
    cases h; exact Steady.onExpiry _ ((Steady.deadlineExpired s i).trans (Steady.wake _))
  | retryHoldoffExpiry i =>
    cases h
    refine Steady.onExpiry _ ?_
    split
    · next waits => exact (Steady.retryHoldoffExpired s i waits.1).trans (Steady.wake _)
    · exact Steady.refl s
  | collectHoldoffExpiry i =>
    cases h
    refine Steady.onExpiry _ ?_
    split
    · next waits => exact (Steady.becomeDue s i (by simp [waits.1])).trans (Steady.wake _)
    · exact Steady.refl s
  | collectIntervalExpiry i =>
    cases h
    refine Steady.onExpiry _ ?_
    split
    · next deferred => exact (Steady.becomeDue s i (by simp [deferred])).trans (Steady.wake _)
    · exact Steady.refl s
  | holdoffExpiry r => cases h; exact Steady.onExpiry _ (Steady.modCause s r _)
  | rearmGapExpiry r => cases h; exact Steady.onExpiry _ (Steady.modCause s r _)
  | replyCopyEnd result => exact execReplyCopyEnd_steady h
  | completionRecordWriteEnd result => exact execCompletionRecordWriteEnd_steady h
  | indicationWriteEnd result => exact execIndicationWriteEnd_steady h
  | characterArrival l char =>
    cases h
    refine Steady.whenRunning fun _ => ?_
    split
    · exact Steady.modLine s l _
    · exact Steady.modLine s l _
    · exact Steady.refl s
  | returnToMark l => cases h; exact Steady.whenRunning fun _ => Steady.modLine s l _

end

end Sys2Proof.Machine

/-! The step, the invariants it keeps, and the moves of the device state (R160 to R168): resets, START, the
end of the configuration read, and the commands that no block takes outside RUNNING. -/

namespace Sys2Proof.Machine

section
variable {s t : State}

/-! ### What a step keeps -/

/-- Every invariant of Safety.lean is kept. -/
structure State.Preserves (s t : State) : Prop where
  segments : s.SegmentsOk → t.SegmentsOk
  memory : s.MemoryOk → t.MemoryOk
  tags : s.TagsOk → t.TagsOk
  fences : s.FencesOk → t.FencesOk
  room : s.RoomOk → t.RoomOk
  broadcast : s.BroadcastOk → t.BroadcastOk

theorem Steady.preserves {halts : Bool} (h : Steady halts s t) : s.Preserves t :=
  ⟨h.segments, h.memory, h.tags, h.fences, h.room, h.broadcast⟩

/-- The invariants but that of the written rings do not read the host's side. -/
theorem State.Preserves.of_work (work : s.SameWork t) (room : s.RoomOk → t.RoomOk) : s.Preserves t := by
  have entry : ∀ i, t.entry i = s.entry i := fun i => congrArg (Table.get · i) work.entries
  exact
    { segments := fun m => m.congr (by rw [work.store]) (by simp [entry]) (by simp [entry])
      memory := fun m => by unfold State.MemoryOk; rwa [work.store]
      tags := fun m => m.congr (by simp [entry]) (by simp [entry])
      fences := fun m => m.congr entry
      room := room
      broadcast := fun m l => by
        rw [work.station]
        exact m l }

/-! ### Reset -/

@[simp] theorem State.reset_entry (i : EntryIx) : State.reset.entry i = Entry.reset := Table.get_fill _ _ i

@[simp] theorem State.reset_line (l : Line) : State.reset.line l = LineEngine.reset := Table.get_fill _ _ l

theorem State.reset_station (l : Line) (a : Station) :
    State.reset.station l a
      = if broadcastStation = a then StationRecord.broadcast else StationRecord.reset := by
  simp only [State.station, State.reset, Table.get_fill, StationRecord.resetLine, Table.get_set]

/-- Every invariant of Safety.lean holds. -/
structure State.AllOk (t : State) : Prop where
  segments : t.SegmentsOk
  memory : t.MemoryOk
  tags : t.TagsOk
  fences : t.FencesOk
  room : t.RoomOk
  broadcast : t.BroadcastOk

theorem State.AllOk.preserves (h : t.AllOk) : s.Preserves t :=
  ⟨fun _ => h.segments, fun _ => h.memory, fun _ => h.tags, fun _ => h.fences, fun _ => h.room,
    fun _ => h.broadcast⟩

/-- No entry after reset holds a segment. -/
theorem State.heldSegments_of_reset (entry : ∀ i, t.entry i = Entry.reset) : t.heldSegments = [] := by
  simp [State.heldSegments, entry, Entry.reset]

/-- A part whose work is that after reset meets every invariant but that of the written rings. -/
theorem State.allOk_of_resetWork (work : State.reset.SameWork t) (room : t.RoomOk) : t.AllOk := by
  have entry : ∀ i, t.entry i = Entry.reset := fun i =>
    (congrArg (Table.get · i) work.entries).trans (State.reset_entry i)
  refine
    { segments := ⟨?_, fun i _ => by rw [entry]; exact ⟨rfl, rfl⟩⟩
      memory := by unfold State.MemoryOk; rw [work.store]; rfl
      tags := fun i j _ hi => absurd (by rw [entry]; rfl) hi
      fences := fun j hj => by rw [entry] at hj; cases hj
      room := room
      broadcast := fun l => by rw [work.station, State.reset_station]; rfl }
  have allFree : t.store.freeQueue = List.finRange 256 := by rw [work.store, State.reset]
  exact List.Perm.of_eq ((congrArg (_ ++ ·) (State.heldSegments_of_reset entry)).trans
    ((List.append_nil _).trans allFree))

/-- The written rings of an IDLE part that runs on no configuration. -/
theorem State.roomOk_of_idle (h : t.device.state = .idle) (config : t.device.config = none)
    (cpl : t.cplRing = WrittenRing.reset) (ind : t.indRing = WrittenRing.reset)
    (posting : t.retire.posting = .idle) (writing : t.ind.writing = false) : t.RoomOk :=
  ⟨fun _ => ⟨cpl, ind, posting, writing, config⟩, fun k => by simp [h] at k⟩

theorem State.resetBlocks_preserves (addr : HostAddr) (input : Bool) :
    s.Preserves (s.resetBlocks addr input) :=
  (State.allOk_of_resetWork (t := s.resetBlocks addr input) ⟨rfl, rfl, rfl, rfl⟩
    (State.roomOk_of_idle rfl rfl rfl rfl rfl rfl)).preserves

/-! ### START -/

/-- Device Control moves between states before RUNNING, and no configuration is in force (R160, R162). -/
theorem State.preserves_before_running {d : DeviceControl}
    (old : s.device.state = .idle ∨ s.device.state = .starting)
    (new : d.state = .idle ∨ d.state = .starting) (config : d.config = s.device.config) :
    s.Preserves { s with device := d } :=
  State.Preserves.of_work ⟨rfl, rfl, rfl, rfl⟩ fun m => by
    obtain ⟨cpl, ind, posting, writing, none⟩ := m.1 old
    exact ⟨fun _ => ⟨cpl, ind, posting, writing, config.trans none⟩, fun k => by
      rcases new with e | e <;> simp [e] at k⟩

theorem State.start_preserves (s : State) : s.Preserves s.start := by
  unfold State.start
  split
  · next idle => exact State.preserves_before_running (.inl idle) (.inr rfl) rfl
  · exact (Steady.refl (halts := false) s).preserves

theorem State.controlWrite_preserves (s : State) (v : Word) : s.Preserves (s.controlWrite v) := by
  unfold State.controlWrite
  split
  · exact State.resetBlocks_preserves _ _
  · split
    · exact State.start_preserves s
    · exact (Steady.refl (halts := false) s).preserves

theorem State.onWrite_preserves (h : s.Preserves t) : s.Preserves (s.onWrite t) := by
  unfold State.onWrite
  split
  · exact (Steady.refl (halts := false) s).preserves
  · exact h

/-- A configuration that passes the checks has ring sizes that fit (R162). -/
theorem ConfigCopy.ringSizeOk_of_startCheck {c : ConfigCopy} (h : c.startCheck = .none) :
    ringSizeOk c.completionRing.size = true ∧ ringSizeOk c.indicationRing.size = true := by
  unfold ConfigCopy.startCheck at h
  split_ifs at h with _ sizes
  simp only [Bool.not_eq_true', Bool.not_eq_false, Bool.and_eq_true] at sizes
  exact ⟨sizes.1.2, sizes.2⟩

theorem ringSizeOk_pos {n : Nat} (h : ringSizeOk n = true) : 0 < n := by
  rcases Nat.eq_zero_or_pos n with rfl | pos
  · cases h
  · exact pos

/-- The part that starts to run has nothing unseen and writes no record (R164). -/
theorem State.startPassed_preserves {c : ConfigCopy} (starting : s.device.state = .starting)
    (h : c.startCheck = .none) : s.Preserves (s.startPassed c) :=
  State.Preserves.of_work ⟨rfl, rfl, rfl, rfl⟩ fun m => by
    obtain ⟨cpl, ind, posting, writing, -⟩ := m.1 (.inr starting)
    obtain ⟨cplSize, indSize⟩ := ConfigCopy.ringSizeOk_of_startCheck h
    have cplUnseen : (s.startPassed c).unseen .completion = 0 := congrArg WrittenRing.unseen cpl
    have indUnseen : (s.startPassed c).unseen .indication = 0 := congrArg WrittenRing.unseen ind
    refine ⟨fun k => absurd k (by simp [State.startPassed]), fun _ => ?_⟩
    rw [cplUnseen, indUnseen]
    exact ⟨cplSize, indSize, Nat.zero_le _, Nat.zero_le _, fun _ => ringSizeOk_pos cplSize,
      fun _ => ringSizeOk_pos indSize⟩

theorem State.takeBlock_preserves (starting : s.device.state = .starting) (bytes : List Byte) :
    s.Preserves (s.takeBlock bytes) := by
  unfold State.takeBlock
  split
  · next passes => exact State.startPassed_preserves starting passes
  · exact State.preserves_before_running (.inr starting) (.inl rfl) rfl

theorem execConfigReadEnd_preserves {result : BusRead} (h : execConfigReadEnd result s = .next t) :
    s.Preserves t := by
  unfold execConfigReadEnd at h
  split at h
  · next starting =>
    split at h
    · split at h
      · cases h
        exact State.takeBlock_preserves starting _
      · cases h
    · cases h
      exact State.preserves_before_running (.inr starting) (.inl rfl) rfl
  · cases h
    exact (Steady.refl (halts := false) s).preserves

/-! ### Device time -/

theorem State.increment_entry (s : State) (i : EntryIx) : s.increment.entry i = (s.entry i).tick :=
  Table.get_map _ _ i

theorem State.increment_station (s : State) (l : Line) (a : Station) :
    s.increment.station l a = (s.station l a).tick := by
  simp [State.station, State.increment]

/-- An increment reaches device time and the timers alone (R23 to R25). -/
theorem State.increment_preserves (s : State) : s.Preserves s.increment where
  segments := fun m => m.congr rfl (fun i => by rw [State.increment_entry]; exact ⟨rfl, rfl⟩)
    (fun i => by rw [State.increment_entry]; exact Iff.rfl)
  memory := id
  tags := fun m => m.congr (fun i => by rw [State.increment_entry]; exact ⟨rfl, rfl⟩)
    (fun i => by rw [State.increment_entry]; exact Iff.rfl)
  fences := fun m => m.keep (fun i => by rw [State.increment_entry]; exact id)
    (fun i => by rw [State.increment_entry]; exact ⟨rfl, rfl⟩)
  room := id
  broadcast := fun m l => by
    rw [State.increment_station, m l]
    rfl

theorem State.whenRunning_preserves (h : s.Preserves t) : s.Preserves (s.whenRunning t) := by
  unfold State.whenRunning
  split
  · exact h
  · exact (Steady.refl (halts := false) s).preserves

theorem State.clockCycle_preserves (s : State) : s.Preserves s.clockCycle := by
  refine State.whenRunning_preserves ?_
  split
  · exact State.Preserves.of_work ⟨rfl, rfl, rfl, rfl⟩ id
  · exact State.increment_preserves s

/-! ### The step -/

/-- A write of CONFIG_ADDR in IDLE. -/
theorem execConfigAddrWrite_preserves (half : AddrHalf) (v : Word)
    (h : execConfigAddrWrite half v s = .next t) : s.Preserves t := by
  cases h
  refine State.onWrite_preserves ?_
  split
  · next idle => exact State.preserves_before_running (.inl idle) (.inl idle) rfl
  · exact (Steady.refl (halts := false) s).preserves

theorem exec_preserves {c : Instr} (h : exec c s = .next t) : s.Preserves t := by
  by_cases hc : isDeviceControl c = true
  · cases c with
    | hardReset => cases h; exact State.resetBlocks_preserves _ _
    | controlReset | controlStart =>
      cases h; exact State.onWrite_preserves (State.controlWrite_preserves s _)
    | configAddrWrite half v => exact execConfigAddrWrite_preserves half v h
    | configReadEnd result => exact execConfigReadEnd_preserves h
    | _ => cases hc
  · by_cases carry : c = .prescalerCarry
    · subst carry
      cases h
      exact State.whenRunning_preserves (State.increment_preserves s)
    · exact (exec_steady h (by simpa using hc) carry).preserves

/-- Every step keeps every invariant. -/
theorem step_preserves (h : step s = .next t) : s.Preserves t := by
  unfold step at h
  split at h
  · cases h
    exact State.clockCycle_preserves s
  · next rest _ =>
    have k := exec_preserves h
    exact ⟨k.segments, k.memory, k.tags, k.fences, k.room, k.broadcast⟩

end

/-- Settles O57. -/
theorem stepKeepsSegments : Obligations.StepKeepsSegments := fun _ _ h =>
  ⟨(step_preserves h).segments, (step_preserves h).memory⟩

/-- Settles O58. -/
theorem stepKeepsTags : Obligations.StepKeepsTags := fun _ _ h =>
  ⟨(step_preserves h).tags, (step_preserves h).fences⟩

/-- Settles O59. -/
theorem stepKeepsRoom : Obligations.StepKeepsRoom := fun _ _ h =>
  ⟨(step_preserves h).room, (step_preserves h).broadcast⟩

/-- Settles O60: the invariants that every step keeps hold of the part that is all at reset. -/
theorem invariantsAtReset : Obligations.InvariantsAtReset := by
  obtain ⟨segments, memory, tags, fences, room, broadcast⟩ := State.allOk_of_resetWork
    ⟨rfl, rfl, rfl, rfl⟩ (State.roomOk_of_idle rfl rfl rfl rfl rfl rfl)
  exact ⟨segments, memory, tags, fences, room, broadcast⟩

end Sys2Proof.Machine

namespace Sys2Proof.Machine

section
variable {s t : State}

/-! ### The queue of commands and device time -/

theorem State.onWrite_frame {α : Type} (f : State → α) (h : f t = f s) : f (s.onWrite t) = f s := by
  unfold State.onWrite
  split
  · rfl
  · exact h

theorem State.start_pending (s : State) : s.start.pending = s.pending := by
  unfold State.start
  split <;> rfl

theorem State.start_time (s : State) : s.start.time = s.time := by
  unfold State.start
  split <;> rfl

/-- The checks of a START reach Device Control and two counts of the Admission Unit alone (R162, R164). -/
theorem State.takeBlock_frame (s : State) (bytes : List Byte) :
    (s.takeBlock bytes).pending = s.pending ∧ (s.takeBlock bytes).time = s.time := by
  unfold State.takeBlock
  split <;> exact ⟨rfl, rfl⟩

theorem execConfigReadEnd_frame {result : BusRead} (h : execConfigReadEnd result s = .next t) :
    t.pending = s.pending ∧ t.time = s.time := by
  unfold execConfigReadEnd at h
  split at h
  · split at h
    · split at h
      · cases h
        exact State.takeBlock_frame s _
      · cases h
    · cases h
      exact ⟨rfl, rfl⟩
  · cases h
    exact ⟨rfl, rfl⟩

theorem State.controlWrite_pending (s : State) (v : Word) : (s.controlWrite v).pending = s.pending := by
  unfold State.controlWrite
  split
  · rfl
  · split
    · exact State.start_pending s
    · rfl

/-- Without RESET a write of CONTROL keeps device time. -/
theorem State.controlWrite_time {v : Word} (h : v.getLsbD 1 = false) :
    (s.controlWrite v).time = s.time := by
  unfold State.controlWrite
  rw [if_neg (ne_true_of_eq_false h)]
  split
  · exact State.start_time s
  · rfl

/-- No command touches the queue of commands (log 1). -/
theorem exec_pending {c : Instr} (h : exec c s = .next t) : t.pending = s.pending := by
  by_cases hc : isDeviceControl c = true
  · cases c with
    | hardReset => cases h; rfl
    | controlReset v | controlStart v =>
      cases h; exact State.onWrite_frame State.pending (State.controlWrite_pending s v)
    | configAddrWrite half v =>
      cases h; refine State.onWrite_frame State.pending ?_; split <;> rfl
    | configReadEnd result => exact (execConfigReadEnd_frame h).1
    | _ => cases hc
  · by_cases carry : c = .prescalerCarry
    · subst carry
      cases h
      unfold State.whenRunning
      split <;> rfl
    · exact (exec_steady h (by simpa using hc) carry).pending

/-- Device time moves at a carry alone, and only a reset sets it back (R23). -/
theorem exec_time {c : Instr} (h : exec c s = .next t) (carry : c ≠ .prescalerCarry)
    (reset : isReset c = false) : t.time = s.time := by
  by_cases hc : isDeviceControl c = true
  · cases c with
    | hardReset => cases reset
    | controlReset v | controlStart v =>
      cases h; exact State.onWrite_frame State.time (State.controlWrite_time reset)
    | configAddrWrite half v =>
      cases h; refine State.onWrite_frame State.time ?_; split <;> rfl
    | configReadEnd result => exact (execConfigReadEnd_frame h).2
    | _ => cases hc
  · exact (exec_steady h (by simpa using hc) carry).time

end

/-- Settles O1. -/
theorem stepRunsFrontCommand : Obligations.StepRunsFrontCommand :=
  ⟨fun _ _ _ h => by rw [step, h], fun _ _ _ h => exec_pending h⟩

/-- Settles O2, by the device state and the prescaler count. -/
theorem idleStepIsOneClockCycle : Obligations.IdleStepIsOneClockCycle := by
  intro s empty
  have cycle : step s = .next s.clockCycle := by rw [step, empty]
  refine ⟨fun stopped => ?_, fun running more => ?_, fun running full => ?_⟩
  · rw [cycle, State.clockCycle, State.whenRunning_of_ne stopped]
  · rw [cycle, State.clockCycle, State.whenRunning_of_eq running, if_pos more]
  · rw [cycle, State.clockCycle, State.whenRunning_of_eq running, if_neg (Nat.not_lt.2 full), exec,
      execPrescalerCarry, State.whenRunning_of_eq running]

/-- Settles O3: every field of `State.reset` as its tables give it. -/
theorem resetValues : Obligations.ResetValues := by
  have station : ∀ l a, State.reset.station l a =
      { state := if a = broadcastStation then .online else .absent, seqBit := false, failures := 0,
        attention := false, statusWord := none, fifo := [], deferred := [], release := [],
        flushDue := none, linger := .stopped } := fun l a => by
    rw [State.reset_station]
    by_cases h : a = broadcastStation
    · subst h; rfl
    · rw [if_neg (Ne.symm h), if_neg h]; rfl
  refine ⟨rfl, rfl, rfl, fun r => ?_, rfl, rfl, rfl, rfl, fun p => Table.get_fill _ _ p, fun l => ?_, station,
    State.reset_entry, by rw [State.reset], rfl, rfl, rfl, rfl, rfl, fun r => ?_, fun r => ?_, rfl, rfl, rfl⟩
  · cases r <;> exact ⟨rfl, rfl, rfl, rfl⟩
  · rw [State.reset_line]
    exact ⟨rfl, rfl, rfl, rfl, rfl, rfl, rfl, rfl, rfl, rfl, rfl, rfl, rfl, rfl, rfl, rfl, rfl, rfl, rfl, rfl,
      rfl, rfl⟩
  · cases r <;> exact ⟨rfl, rfl⟩
  · cases r <;> rfl

/-- Settles O14: the carry is `State.increment`, whose tables are read back cell by cell. -/
theorem prescalerCarry : Obligations.PrescalerCarry := by
  refine ⟨fun n h => if_neg (by omega), rfl, rfl, rfl, fun n h => if_neg (by omega),
    fun c s t h carry reset => exec_time h carry reset, fun s running => ?_⟩
  refine ⟨s.increment, congrArg Host.Outcome.next (State.whenRunning_of_eq running), rfl, rfl, rfl,
    State.increment_entry s, fun l => Table.get_map _ _ l, State.increment_station s, fun r => ?_, rfl, rfl, rfl,
    rfl, rfl, rfl, rfl, rfl, rfl, rfl, rfl, rfl⟩
  cases r <;> rfl

/-! ### Resets -/

section
variable {s : State}

/-- A reset is the reset state but for what stands outside the part: the queue of commands, host memory, the
reset input and CONFIG_ADDR (R168). -/
theorem State.resetBlocks_writes (s : State) (addr : HostAddr) (input : Bool) :
    (s.device.state ≠ .running → (s.resetBlocks addr input).busWrites = s.busWrites)
      ∧ ∃ placed, s.StoppedWrites none placed ∧ (s.device.state = .running ∨ placed = [])
        ∧ (s.resetBlocks addr input).busWrites = placed ++ s.busWrites := by
  by_cases running : s.device.state = .running
  · obtain ⟨placed, stopped, n, adds⟩ := State.stopWrites_adds s none
    refine ⟨fun h => absurd running h, placed, stopped, .inl running, ?_⟩
    simp only [State.resetBlocks, if_pos running, adds]
  · have same : (s.resetBlocks addr input).busWrites = s.busWrites := by
      simp only [State.resetBlocks, if_neg running]
    exact ⟨fun _ => same, [], ⟨[], [], [], [], rfl, .inl rfl, .inl rfl, .inl rfl, .inl rfl⟩, .inr rfl, same⟩

/-- A write of CONTROL with RESET set is a soft reset, the reset input released (R161, R168). -/
theorem State.onWrite_controlWrite_reset {v : Word} (h : v.getLsbD 1 = true) (released : s.resetInput = false) :
    s.onWrite (s.controlWrite v) = s.resetBlocks s.device.configAddr false :=
  (State.onWrite_of_released released).trans (if_pos h)

/-- A register write is dropped while the reset input is asserted (R168). -/
theorem State.onWrite_of_asserted {t : State} (h : s.resetInput = true) : s.onWrite t = s := if_pos h

/-- Without RESET a write of CONTROL starts an IDLE part, and does nothing else (R161). -/
theorem State.controlWrite_start {v : Word} (reset : v.getLsbD 1 = false) (start : v.getLsbD 0 = true)
    (idle : s.device.state = .idle) :
    s.controlWrite v = { s with device := { s.device with state := .starting, startError := .none } } := by
  rw [State.controlWrite, if_neg (ne_true_of_eq_false reset), if_pos start, State.start, if_pos idle]

theorem State.controlWrite_nothing {v : Word} (reset : v.getLsbD 1 = false)
    (h : s.device.state ≠ .idle ∨ v.getLsbD 0 = false) : s.controlWrite v = s := by
  rw [State.controlWrite, if_neg (ne_true_of_eq_false reset)]
  split
  · next start => exact if_neg (h.resolve_right (by simp [start]))
  · rfl

end

/-- Settles O4: the reset commands all come to `State.resetBlocks`. -/
theorem resetsReturnEveryBlock : Obligations.ResetsReturnEveryBlock := by
  refine ⟨fun s c asserted write => ?_, fun s => ⟨fun input => ?_, fun v h released => ?_,
    fun v h released => ?_⟩⟩
  · cases c with
    | registerWriteIgnored => rfl
    | controlStart | controlReset | configAddrWrite | subTailWrite | hostHeadWrite | notifyCauseWrite
    | notifyMaskWrite => exact congrArg Host.Outcome.next (State.onWrite_of_asserted asserted)
    | _ => cases write
  · exact ⟨_, rfl, rfl, rfl, rfl, rfl, rfl, rfl, rfl, rfl, rfl, rfl, rfl, rfl, rfl, rfl,
      State.resetBlocks_writes s 0 input⟩
  all_goals
    exact ⟨s.resetBlocks s.device.configAddr false,
      congrArg Host.Outcome.next (State.onWrite_controlWrite_reset h released),
      rfl, rfl, rfl, rfl, rfl, rfl, rfl, rfl, rfl, rfl, rfl, rfl, rfl, rfl,
      State.resetBlocks_writes s s.device.configAddr false⟩

/-- The halves of CONFIG_ADDR after one of them was written (R172). -/
theorem replaceHalf_halves (addr : HostAddr) (v : Word) :
    (replaceHalf addr .low v).extractLsb' 0 32 = v
      ∧ (replaceHalf addr .low v).extractLsb' 32 32 = addr.extractLsb' 32 32
      ∧ (replaceHalf addr .high v).extractLsb' 32 32 = v
      ∧ (replaceHalf addr .high v).extractLsb' 0 32 = addr.extractLsb' 0 32 := by
  refine ⟨BitVec.extractLsb'_append_eq_right, BitVec.extractLsb'_append_eq_left,
    BitVec.extractLsb'_append_eq_left, BitVec.extractLsb'_append_eq_right⟩

/-- Settles O7. -/
theorem startAndConfigAddr : Obligations.StartAndConfigAddr := by
  intro s v released
  obtain ⟨lowWritten, highKept, highWritten, lowKept⟩ := replaceHalf_halves s.device.configAddr v
  have addrWrite : ∀ half, exec (.configAddrWrite half v) s = .next
      (if s.device.state = .idle then
        { s with device := { s.device with configAddr := replaceHalf s.device.configAddr half v } }
      else s) := fun half => congrArg Host.Outcome.next (State.onWrite_of_released released)
  refine ⟨fun c hc reset => ?_, fun idle => ?_, fun busy half => (addrWrite half).trans (congrArg _ (if_neg busy))⟩
  · have write : exec c s = .next (s.controlWrite v) := by
      rcases hc with rfl | rfl <;> exact congrArg Host.Outcome.next (State.onWrite_of_released released)
    exact ⟨fun idle start => write.trans (by rw [State.controlWrite_start reset start idle]),
      fun h => write.trans (by rw [State.controlWrite_nothing reset h])⟩
  · exact ⟨⟨_, (addrWrite .low).trans (congrArg _ (if_pos idle)), rfl, lowWritten, highKept⟩,
      ⟨_, (addrWrite .high).trans (congrArg _ (if_pos idle)), rfl, highWritten, lowKept⟩⟩

/-! ### Outside RUNNING -/

section
variable {s t : State}

theorem State.loadOf_of_ne (r : Ring) (h : s.device.state ≠ .running) : s.loadOf r = none := by
  unfold State.loadOf
  split
  · exact if_neg fun k => h k.1
  · rfl

/-- A write that is dropped where it is taken changes nothing. -/
theorem State.onWrite_self (s : State) : s.onWrite s = s := ite_self s

/-- A command that is neither Device Control's nor a write of NOTIFY_MASK works in RUNNING alone (R160,
R167). -/
theorem exec_of_not_running {c : Instr} (h : s.device.state ≠ .running) (hc : isDeviceControl c = false)
    (mask : ∀ v, c ≠ .notifyMaskWrite v) : exec c s = .next s := by
  cases c with
  | hardReset | controlReset | controlStart | configAddrWrite | configReadEnd => cases hc
  | notifyMaskWrite v => exact absurd rfl (mask v)
  | registerWriteIgnored => rfl
  | subTailWrite | hostHeadWrite | notifyCauseWrite =>
    exact congrArg Host.Outcome.next
      ((congrArg s.onWrite (State.whenRunning_of_ne h)).trans (State.onWrite_self s))
  | fetchEnd => exact if_neg fun k => h k.1
  | loadEnd r => simp only [exec, execLoadEnd, State.loadOf_of_ne r h]
  | loadError r => simp only [exec, execLoadError, State.loadOf_of_ne r h]
  | _ => exact congrArg Host.Outcome.next (State.whenRunning_of_ne h)

theorem execConfigReadEnd_of_ne {result : BusRead} (h : s.device.state ≠ .starting) :
    exec (.configReadEnd result) s = .next s := if_neg h

end

/-- Settles O5. -/
theorem outsideRunningNothingWorks : Obligations.OutsideRunningNothingWorks := by
  intro c s reset
  have addrDropped : ∀ half v, s.device.state ≠ .idle → exec (.configAddrWrite half v) s = .next s :=
    fun half v h => congrArg Host.Outcome.next
      ((congrArg s.onWrite (if_neg h)).trans (State.onWrite_self s))
  have startDropped : ∀ v : Word, v.getLsbD 1 = false → s.device.state ≠ .idle →
      Host.Outcome.next (s.onWrite (s.controlWrite v)) = (.next s : Host.Outcome State Fault Refusal) :=
    fun v h busy => congrArg Host.Outcome.next
      ((congrArg s.onWrite (State.controlWrite_nothing h (.inl busy))).trans (State.onWrite_self s))
  refine ⟨fun idle mask start reset' addr => ?_, fun starting mask read => ?_, fun halted => ?_⟩
  · by_cases hc : isDeviceControl c = true
    · cases c with
      | hardReset => cases reset
      | controlReset v => exact absurd rfl (reset' v)
      | controlStart v => exact absurd rfl (start v)
      | configAddrWrite half v => exact absurd rfl (addr half v)
      | configReadEnd => exact execConfigReadEnd_of_ne (by simp [idle])
      | _ => cases hc
    · exact exec_of_not_running (by simp [idle]) (by simpa using hc) mask
  · by_cases hc : isDeviceControl c = true
    · cases c with
      | hardReset => cases reset
      | controlReset v | controlStart v => exact startDropped v reset (by simp [starting])
      | configAddrWrite half v => exact addrDropped half v (by simp [starting])
      | configReadEnd r => exact absurd rfl (read r)
      | _ => cases hc
    · exact exec_of_not_running (by simp [starting]) (by simpa using hc) mask
  · by_cases hc : isDeviceControl c = true
    · cases c with
      | hardReset => cases reset
      | controlReset v | controlStart v => exact startDropped v reset (by simp [halted])
      | configAddrWrite half v => exact addrDropped half v (by simp [halted])
      | configReadEnd => exact execConfigReadEnd_of_ne (by simp [halted])
      | _ => cases hc
    · by_cases mask : ∃ v, c = .notifyMaskWrite v
      · obtain ⟨v, rfl⟩ := mask
        exact congrArg Host.Outcome.next
          ((congrArg s.onWrite (if_pos halted)).trans (State.onWrite_self s))
      · exact exec_of_not_running (by simp [halted]) (by simpa using hc) fun v e => mask ⟨v, e⟩

end Sys2Proof.Machine

namespace Sys2Proof.Machine

/-! ### The moves of the device state -/

section
variable {s t : State}

/-- A halt taken in RUNNING records its cause (R166). -/
theorem State.halt_device (running : s.device.state = .running) (cause : HaltCause) (source : HaltSource) :
    (s.halt cause source).device = { s.device with state := .halted, haltCause := cause } :=
  (State.halt_haltedBy running cause source).device

/-- A part whose device stands as that of the RUNNING `s` halts with the cause. -/
theorem State.halt_of_device (running : s.device.state = .running) (same : t.device = s.device)
    (cause : HaltCause) (source : HaltSource) :
    (t.halt cause source).device.state = .halted ∧ (t.halt cause source).device.haltCause = cause := by
  rw [State.halt_device (by rw [same, running])]
  exact ⟨rfl, rfl⟩

theorem State.placedShadowPart_device (s : State) (w : WriteAccess) (n : Nat) :
    (s.placedShadowPart w n).device = s.device := by
  unfold State.placedShadowPart
  split
  · exact State.placed_device s _ _
  · split
    · exact State.placed_device s _ _
    · rfl

theorem State.placedRecordPart_device (s : State) (w : WriteAccess) (n : Nat) :
    (s.placedRecordPart w n).device = s.device := State.placed_device s _ _

/-- A steady operation that cannot halt the part keeps the device. -/
theorem Steady.device_eq (h : Steady false s t) : t.device = s.device := by
  rcases h.device with same | ⟨halts, -⟩
  · exact same
  · cases halts

/-- A command that changes the device state, but is none of Device Control's, is taken in RUNNING. -/
theorem running_of_moves {c : Instr} (h : exec c s = .next t) (hc : isDeviceControl c = false)
    (mask : ∀ v, c ≠ .notifyMaskWrite v) (moves : t.device.state ≠ s.device.state) :
    s.device.state = .running := by
  by_contra stopped
  rw [exec_of_not_running stopped hc mask] at h
  cases h
  exact moves rfl

/-- A register write that changes something is taken, the reset input released (R168). -/
theorem State.onWrite_of_moves {α : Type} (f : State → α) (h : f (s.onWrite t) ≠ f s) :
    s.resetInput = false ∧ s.onWrite t = t := by
  cases released : s.resetInput with
  | false => exact ⟨rfl, State.onWrite_of_released released⟩
  | true => exact absurd (congrArg f (State.onWrite_of_asserted released)) h

/-- A fetch whose end moves the device state failed, and halts the part (R127, R166). -/
theorem fetchEnd_moves {r : Ring} {result : BusRead} (h : exec (.fetchEnd r result) s = .next t)
    (moves : t.device.state ≠ s.device.state) :
    t.device.state = .halted ∧ t.device.haltCause = .ringReadError
      ∧ (s.ringUnit r).hold.state = .fetching ∧ s.inTurn (.fetch r) = true
      ∧ ∃ received, s.checkedRead ((s.cfg.subRing r).slot (s.ringUnit r).head 64) 64 result
        = .error received := by
  have ends : execFetchEnd r result s = .next t := h
  unfold execFetchEnd at ends
  split at ends
  · next inFlight =>
    obtain ⟨running, fetching, turn⟩ := inFlight
    split at ends
    · split at ends
      · cases ends
        exact absurd (by rw [State.fetched, State.wake_device]; rfl) moves
      · cases ends
    · next received failed =>
      cases ends
      obtain ⟨halted, cause⟩ := State.halt_of_device (t := s.modHold r fun h => { h with bytes := received })
        running rfl .ringReadError (.fetch r)
      exact ⟨halted, cause, fetching, turn, received, failed⟩
  · cases ends
    exact absurd rfl moves

/-- A shadow write whose end moves the device state failed, and halts the part (R128, R166). -/
theorem shadowWriteEnd_moves {r : Ring} {result : BusWriteEnd}
    (h : exec (.shadowWriteEnd r result) s = .next t) (moves : t.device.state ≠ s.device.state)
    (running : s.device.state = .running) :
    t.device.state = .halted ∧ t.device.haltCause = .ringWriteError
      ∧ ∃ w n, s.shadowAccess r = some w ∧ s.inTurn (.shadow r) = true
        ∧ s.checkedWrite w result = .error n := by
  have ends := Host.Outcome.next.inj h
  rw [State.whenRunning_of_eq running] at ends
  split at ends
  · next w access turn =>
    split at ends
    · subst ends
      exact absurd (congrArg DeviceControl.state (State.placed_device s w.addr w.bytes)) moves
    · next n failed =>
      subst ends
      obtain ⟨halted, cause⟩ := State.halt_of_device running (State.placedShadowPart_device s w n)
        .ringWriteError (.write (.shadow r))
      exact ⟨halted, cause, w, n, access, turn, failed⟩
  · subst ends
    exact absurd rfl moves

@[simp] theorem State.returned_device (s : State) (x : Resource) : (s.returned x).device = s.device := rfl

theorem State.returnedEntry_device (s : State) (held : Bool) : (s.returnedEntry held).device = s.device := by
  unfold State.returnedEntry
  split <;> rfl

theorem State.freeItem_device (s : State) (item : RetireItem) : (s.freeItem item).device = s.device := by
  cases item with
  | entry i => exact State.returnedEntry_device _ _
  | immediate | lineControl => rfl

theorem State.posted_device (s : State) (q : QueuedItem) : (s.posted q).device = s.device :=
  State.freeItem_device _ _

/-- A completion record write whose end moves the device state failed, and halts the part (R149, R166). -/
theorem completionRecordWriteEnd_moves {result : BusWriteEnd}
    (h : exec (.completionRecordWriteEnd result) s = .next t)
    (moves : t.device.state ≠ s.device.state) (running : s.device.state = .running) :
    t.device.state = .halted ∧ t.device.haltCause = .ringWriteError
      ∧ ∃ w n f, s.retire.posting = .writing f ∧ s.completionAccess f = some w
        ∧ s.checkedWrite w result = .error n := by
  have ends := Host.Outcome.next.inj h
  rw [State.whenRunning_of_eq running] at ends
  split at ends
  · next f q rest writing queue =>
    split at ends
    · next w access =>
      split at ends
      · subst ends
        rw [State.wake_device, State.posted_device, State.placed_device] at moves
        exact absurd rfl moves
      · next n failed =>
        subst ends
        obtain ⟨halted, cause⟩ := State.halt_of_device running (State.placedRecordPart_device s w n)
          .ringWriteError (.write .completion)
        exact ⟨halted, cause, w, n, f, writing, access, failed⟩
    · subst ends
      exact absurd rfl moves
  · subst ends
    exact absurd rfl moves

/-- An indication write whose end moves the device state failed, and halts the part (R153, R166). -/
theorem indicationWriteEnd_moves {result : BusWriteEnd}
    (h : exec (.indicationWriteEnd result) s = .next t)
    (moves : t.device.state ≠ s.device.state) (running : s.device.state = .running) :
    t.device.state = .halted ∧ t.device.haltCause = .ringWriteError
      ∧ ∃ w n, s.ind.writing = true ∧ s.indicationAccess = some w
        ∧ s.checkedWrite w result = .error n := by
  have ends := Host.Outcome.next.inj h
  rw [State.whenRunning_of_eq running] at ends
  split at ends
  · next writing =>
    split at ends
    · next w access =>
      split at ends
      · subst ends
        rw [State.wake_device] at moves
        exact absurd (congrArg DeviceControl.state (State.placed_device s w.addr w.bytes)) moves
      · next n failed =>
        subst ends
        obtain ⟨halted, cause⟩ := State.halt_of_device running (State.placedRecordPart_device s w n)
          .ringWriteError (.write .indication)
        exact ⟨halted, cause, w, n, writing, access, failed⟩
    · subst ends
      exact absurd rfl moves
  · subst ends
    exact absurd rfl moves

/-- A tail write that moves the device state has an index error, and halts the part (R126, R166). -/
theorem subTailWrite_moves {r : Ring} {v : Word} (h : exec (.subTailWrite r v) s = .next t)
    (moves : t.device.state ≠ s.device.state) (running : s.device.state = .running) :
    t.device.state = .halted ∧ t.device.haltCause = .ringIndex ∧ s.resetInput = false
      ∧ ((s.cfg.subRing r).size < (indexOf v - (s.ringUnit r).head).toNat
        ∨ ((s.ringUnit r).hold.state ≠ .empty ∧ indexOf v = (s.ringUnit r).head)) := by
  cases h
  obtain ⟨released, taken⟩ := State.onWrite_of_moves (fun x => x.device.state) moves
  rw [taken, State.whenRunning_of_eq running] at moves ⊢
  by_cases bad : (s.ringUnit r).tailError (s.cfg.subRing r).size (indexOf v) = true
  · rw [State.writeTail_of_error bad, State.halt_device running]
    exact ⟨rfl, rfl, released, (RingUnit.tailError_iff _ _ _).1 bad⟩
  · rw [State.writeTail_of_ok bad] at moves
    exact absurd rfl moves

theorem State.writeHead_of_error {r : HostRing} {head : Half}
    (h : s.unseen r < (head - (s.writtenRing r).hostHead).toNat) :
    s.writeHead r head = s.halt .hostHead .host := if_pos h

/-- A host head write that moves the device state has a head error, and halts the part (R155, R166). -/
theorem hostHeadWrite_moves {r : HostRing} {v : Word} (h : exec (.hostHeadWrite r v) s = .next t)
    (moves : t.device.state ≠ s.device.state) (running : s.device.state = .running) :
    t.device.state = .halted ∧ t.device.haltCause = .hostHead ∧ s.resetInput = false
      ∧ s.unseen r < (indexOf v - (s.writtenRing r).hostHead).toNat := by
  cases h
  obtain ⟨released, taken⟩ := State.onWrite_of_moves (fun x => x.device.state) moves
  rw [taken, State.whenRunning_of_eq running] at moves ⊢
  by_cases bad : s.unseen r < (indexOf v - (s.writtenRing r).hostHead).toNat
  · rw [State.writeHead_of_error bad, State.halt_device running]
    exact ⟨rfl, rfl, released, bad⟩
  · refine absurd ?_ moves
    unfold State.writeHead
    dsimp only
    rw [if_neg (show ¬ (s.writtenRing r).unseen < _ from bad)]
    split
    · rfl
    · rw [State.wake_device]
      cases r <;> split <;> rfl

/-- A write of CONTROL that moves the device state starts an IDLE part or resets it (R160, R161). -/
theorem controlWrite_moves {v : Word}
    (moves : (s.onWrite (s.controlWrite v)).device.state ≠ s.device.state) :
    s.resetInput = false
      ∧ ((v.getLsbD 1 = true ∧ (s.onWrite (s.controlWrite v)).device.state = .idle)
        ∨ (s.device.state = .idle ∧ (s.onWrite (s.controlWrite v)).device.state = .starting
          ∧ v.getLsbD 0 = true ∧ v.getLsbD 1 = false)) := by
  obtain ⟨released, taken⟩ := State.onWrite_of_moves (fun x => x.device.state) moves
  rw [taken] at moves ⊢
  refine ⟨released, ?_⟩
  cases reset : v.getLsbD 1 with
  | true => exact .inl ⟨rfl, by rw [State.controlWrite, if_pos reset]; rfl⟩
  | false =>
    by_cases starts : s.device.state = .idle ∧ v.getLsbD 0 = true
    · obtain ⟨idle, start⟩ := starts
      rw [State.controlWrite_start reset start idle]
      exact .inr ⟨idle, rfl, start, rfl⟩
    · rw [State.controlWrite_nothing reset (by simpa using (not_and_or.1 starts))] at moves
      exact absurd rfl moves

/-- The first check that fails, or none, decides a block (R162, R164). -/
theorem State.takeBlock_of_passes {bytes : List Byte} (h : (blockConfig bytes).startCheck = .none) :
    s.takeBlock bytes = s.startPassed (blockConfig bytes) := by
  simp only [State.takeBlock, h]

theorem State.takeBlock_of_fails {bytes : List Byte} (h : (blockConfig bytes).startCheck ≠ .none) :
    s.takeBlock bytes = s.startFailed (blockConfig bytes).startCheck := by
  unfold State.takeBlock
  split
  · next passes => exact absurd passes h
  · rfl

/-- The end of the configuration read in STARTING (R162). -/
theorem execConfigReadEnd_error (starting : s.device.state = .starting) (received : List Byte) :
    exec (.configReadEnd (.error received)) s = .next (s.startFailed .configReadError) := if_pos starting

theorem execConfigReadEnd_data (starting : s.device.state = .starting) {block : List Byte}
    (h : block.length = 128) : exec (.configReadEnd (.data block)) s = .next (s.takeBlock block) :=
  (if_pos starting).trans (if_pos h)

end

/-- Settles O6: a command of Device Control by its own inversion, any other by `running_of_moves` and the
inversion of the six commands that may halt the part. -/
theorem deviceStateMoves : Obligations.DeviceStateMoves := by
  intro c s t h moves
  by_cases hc : isDeviceControl c = true
  · cases c with
    | hardReset input => cases h; exact .inr (.inr (.inr (.inr ⟨rfl, rfl, .inl ⟨input, rfl⟩⟩)))
    | controlReset v | controlStart v =>
      cases h
      obtain ⟨released, ⟨reset, idle⟩ | ⟨wasIdle, starting, start, noReset⟩⟩ := controlWrite_moves moves
      · exact .inr (.inr (.inr (.inr ⟨idle, reset, .inr released⟩)))
      · exact .inl ⟨wasIdle, starting, released, v, by simp, start, noReset⟩
    | configAddrWrite half v =>
      cases h
      refine absurd (State.onWrite_frame (fun x => x.device.state) ?_) moves
      split <;> rfl
    | configReadEnd result =>
      by_cases starting : s.device.state = .starting
      · cases result with
        | error received =>
          rw [execConfigReadEnd_error starting] at h
          cases h
          exact .inr (.inr (.inl ⟨starting, rfl, .inl ⟨received, rfl, rfl⟩⟩))
        | data block =>
          by_cases length : block.length = 128
          · rw [execConfigReadEnd_data starting length] at h
            cases h
            by_cases passes : (blockConfig block).startCheck = .none
            · rw [State.takeBlock_of_passes passes]
              exact .inr (.inl ⟨starting, rfl, block, rfl, length, passes⟩)
            · rw [State.takeBlock_of_fails passes]
              exact .inr (.inr (.inl ⟨starting, rfl, .inr ⟨block, rfl, length, passes, rfl⟩⟩))
          · rw [exec, execConfigReadEnd, if_pos starting] at h
            cases (if_neg length).symm.trans h
      · rw [execConfigReadEnd_of_ne starting] at h
        cases h
        exact absurd rfl moves
    | _ => cases hc
  · have hc : isDeviceControl c = false := by simpa using hc
    by_cases mask : ∃ v, c = .notifyMaskWrite v
    · obtain ⟨v, rfl⟩ := mask
      have kept : t.device = s.device := (exec_steady h rfl (by simp)).device_eq
      exact absurd (congrArg DeviceControl.state kept) moves
    · have running := running_of_moves h hc (fun v e => mask ⟨v, e⟩) moves
      refine .inr (.inr (.inr (.inl ⟨running, ?_⟩)))
      cases c with
      | fetchEnd r result =>
        obtain ⟨halted, cause, fetching, turn, received, failed⟩ := fetchEnd_moves h moves
        exact ⟨halted, .inl ⟨cause, r, result, received, rfl, fetching, turn, failed⟩⟩
      | shadowWriteEnd r result =>
        obtain ⟨halted, cause, w, n, access, turn, failed⟩ := shadowWriteEnd_moves h moves running
        exact ⟨halted, .inr (.inl ⟨cause, w, n, .inl ⟨r, result, rfl, access, turn, failed⟩⟩)⟩
      | completionRecordWriteEnd result =>
        obtain ⟨halted, cause, w, n, f, writing, access, failed⟩ :=
          completionRecordWriteEnd_moves h moves running
        exact ⟨halted, .inr (.inl ⟨cause, w, n, .inr (.inl ⟨f, result, rfl, writing, access, failed⟩)⟩)⟩
      | indicationWriteEnd result =>
        obtain ⟨halted, cause, w, n, writing, access, failed⟩ := indicationWriteEnd_moves h moves running
        exact ⟨halted, .inr (.inl ⟨cause, w, n, .inr (.inr ⟨result, rfl, writing, access, failed⟩)⟩)⟩
      | subTailWrite r v =>
        obtain ⟨halted, cause, released, bad⟩ := subTailWrite_moves h moves running
        exact ⟨halted, .inr (.inr (.inl ⟨cause, released, r, v, rfl, bad⟩))⟩
      | hostHeadWrite r v =>
        obtain ⟨halted, cause, released, bad⟩ := hostHeadWrite_moves h moves running
        exact ⟨halted, .inr (.inr (.inr ⟨cause, released, r, v, rfl, bad⟩))⟩
      | prescalerCarry =>
        cases h
        rw [State.whenRunning_of_eq running] at moves
        exact absurd rfl moves
      | _ =>
        exact absurd (congrArg DeviceControl.state (exec_steady h hc (by simp)).device_eq) moves

end Sys2Proof.Machine

namespace Sys2Proof.Machine

/-! ### Fields in host memory -/

/-- A field of two parts stands where its low part stands, the high part behind it. -/
theorem fieldAt_append {bytes : List Byte} {offset k w : Nat} {lo : BitVec (8 * k)} {hi : BitVec w}
    (low : fieldAt bytes offset lo) (high : fieldAt bytes (offset + k) hi) :
    fieldAt bytes offset (hi ++ lo) := by
  intro i hi'
  by_cases inLow : i < k
  · rw [low i (by omega)]
    ext j hj
    have below : 8 * i + j < 8 * k := by omega
    simp [BitVec.getLsbD_append, below]
  · obtain ⟨d, rfl⟩ : ∃ d, i = k + d := ⟨i - k, by omega⟩
    rw [← Nat.add_assoc, high d (by omega)]
    ext j hj
    have above : ¬ 8 * (k + d) + j < 8 * k := by omega
    have distance : 8 * (k + d) + j - 8 * k = 8 * d + j := by omega
    simp [BitVec.getLsbD_append, above, distance]

theorem fieldAt_byteAt (bytes : List Byte) (offset : Nat) : fieldAt bytes offset (byteAt bytes offset) := by
  intro i hi
  obtain rfl : i = 0 := by omega
  simp [byteAt]

theorem fieldAt_halfAt (bytes : List Byte) (offset : Nat) : fieldAt bytes offset (halfAt bytes offset) :=
  fieldAt_append (k := 1) (fieldAt_byteAt bytes offset) (fieldAt_byteAt bytes (offset + 1))

theorem fieldAt_wordAt (bytes : List Byte) (offset : Nat) : fieldAt bytes offset (wordAt bytes offset) :=
  fieldAt_append (k := 2) (fieldAt_halfAt bytes offset) (fieldAt_halfAt bytes (offset + 2))

theorem fieldAt_addrAt (bytes : List Byte) (offset : Nat) : fieldAt bytes offset (addrAt bytes offset) :=
  fieldAt_append (k := 4) (fieldAt_wordAt bytes offset) (fieldAt_wordAt bytes (offset + 4))

theorem halfAt_toNat (bytes : List Byte) (offset : Nat) :
    (halfAt bytes offset).toNat = number16At bytes offset := by
  have low := (byteAt bytes offset).isLt
  rw [halfAt, BitVec.toNat_append, ← Nat.shiftLeft_add_eq_or_of_lt low, Nat.shiftLeft_eq, number16At,
    numberAt, numberAt, byteAt, byteAt]
  omega

/-- Settles O8. -/
theorem configReadEnds : Obligations.ConfigReadEnds := by
  refine ⟨fun block => ?_, fun s starting => ⟨execConfigReadEnd_error starting, fun block length => ?_⟩⟩
  · exact ⟨⟨fieldAt_addrAt _ _, fieldAt_addrAt _ _, fieldAt_addrAt _ _, fieldAt_addrAt _ _, fieldAt_addrAt _ _⟩,
      ⟨halfAt_toNat _ _, halfAt_toNat _ _, halfAt_toNat _ _, halfAt_toNat _ _⟩,
      ⟨⟨fieldAt_addrAt _ _, fieldAt_addrAt _ _, rfl, rfl⟩, ⟨fieldAt_addrAt _ _, fieldAt_addrAt _ _, rfl, rfl⟩,
        ⟨fieldAt_addrAt _ _, fieldAt_addrAt _ _, rfl, rfl⟩, ⟨fieldAt_addrAt _ _, fieldAt_addrAt _ _, rfl, rfl⟩⟩,
      rfl, rfl, rfl, rfl, halfAt_toNat _ _, halfAt_toNat _ _, rfl⟩
  · exact ⟨fun fails => (execConfigReadEnd_data starting length).trans
        (congrArg _ (State.takeBlock_of_fails fails)),
      fun passes => (execConfigReadEnd_data starting length).trans
        (congrArg _ (State.takeBlock_of_passes passes))⟩

/-! ### The checks of a START -/

/-- Every byte of `n` from `base` on lies in the aperture, its bounds rounded (R163). -/
def Aperture.holds (a : Aperture) (base : HostAddr) (n : Nat) : Prop :=
  ∀ x, base.toNat ≤ x → x < base.toNat + n →
    a.base.toNat / 4096 * 4096 ≤ x ∧ x ≤ a.limit.toNat / 4096 * 4096 + 4095

theorem Aperture.covers_iff {a : Aperture} {base : HostAddr} {n : Nat} (inUse : a.inUse = true)
    (hn : 0 < n) : a.covers base n = true ↔ a.holds base n := by
  simp only [Aperture.covers, inUse, Bool.true_and, Bool.and_eq_true, decide_eq_true_eq]
  refine ⟨fun ⟨first, last⟩ x low high => ⟨first.trans low, ?_⟩, fun within => ?_⟩
  · simp only [Aperture.last] at last
    omega
  · have first := within base.toNat le_rfl (by omega)
    have last := within (base.toNat + n - 1) (by omega) (by omega)
    exact ⟨first.1, by simp only [Aperture.last]; omega⟩

theorem ConfigCopy.mayRead_iff (c : ConfigCopy) {base : HostAddr} {n : Nat} (hn : 0 < n) :
    c.mayRead base n = true ↔ ∃ a ∈ c.apertures, a.read = true ∧ a.holds base n := by
  simp only [ConfigCopy.mayRead, List.any_eq_true, Bool.and_eq_true]
  refine exists_congr fun a => and_congr_right fun _ => and_congr_right fun read => ?_
  exact Aperture.covers_iff (by simp [Aperture.inUse, read]) hn

theorem ConfigCopy.mayWrite_iff (c : ConfigCopy) {base : HostAddr} {n : Nat} (hn : 0 < n) :
    c.mayWrite base n = true ↔ ∃ a ∈ c.apertures, a.write = true ∧ a.holds base n := by
  simp only [ConfigCopy.mayWrite, List.any_eq_true, Bool.and_eq_true]
  refine exists_congr fun a => and_congr_right fun _ => and_congr_right fun write => ?_
  exact Aperture.covers_iff (by simp [Aperture.inUse, write]) hn

theorem ringSizeOk_iff (n : Nat) : ringSizeOk n = true ↔ ∃ k, 4 ≤ k ∧ k ≤ 12 ∧ n = 2 ^ k := by
  refine ⟨fun h => ?_, ?_⟩
  · simp only [ringSizeOk, List.contains_iff_mem, List.mem_cons, List.not_mem_nil, or_false] at h
    rcases h with rfl | rfl | rfl | rfl | rfl | rfl | rfl | rfl | rfl
    exacts [⟨4, by decide⟩, ⟨5, by decide⟩, ⟨6, by decide⟩, ⟨7, by decide⟩, ⟨8, by decide⟩, ⟨9, by decide⟩,
      ⟨10, by decide⟩, ⟨11, by decide⟩, ⟨12, by decide⟩]
  · rintro ⟨k, low, high, rfl⟩
    interval_cases k <;> rfl

/-- An aperture in use has its rounded base not above its rounded limit (R163). -/
theorem Aperture.ordered_iff (a : Aperture) :
    a.ordered = true ↔ (a.read = true ∨ a.write = true → a.base.toNat / 4096 ≤ a.limit.toNat / 4096) := by
  have rounded : a.first ≤ a.last ↔ a.base.toNat / 4096 ≤ a.limit.toNat / 4096 := by
    simp only [Aperture.first, Aperture.last]
    omega
  rw [← rounded, Aperture.ordered, Aperture.inUse]
  cases a.read <;> cases a.write <;> simp

theorem allApart_iff_pairwise (xs : List (HostAddr × Nat)) :
    allApart xs = true ↔ xs.Pairwise fun x y => rangesApart x y = true := by
  induction xs with
  | nil => simp [allApart]
  | cons x xs ih => simp [allApart, ih]

/-- Ranges of at least one byte are apart when they share no byte. -/
theorem rangesApart_iff {x y : HostAddr × Nat} (hx : 0 < x.2) (hy : 0 < y.2) :
    rangesApart x y = true
      ↔ ¬ ∃ z, (x.1.toNat ≤ z ∧ z < x.1.toNat + x.2) ∧ (y.1.toNat ≤ z ∧ z < y.1.toNat + y.2) := by
  simp only [rangesApart, Bool.or_eq_true, decide_eq_true_eq]
  refine ⟨fun apart ⟨z, inX, inY⟩ => by omega, fun none => ?_⟩
  by_contra overlap
  exact none ⟨max x.1.toNat y.1.toNat, by omega⟩

theorem allApart_iff (xs : List (HostAddr × Nat)) (pos : ∀ x ∈ xs, 0 < x.2) :
    allApart xs = true ↔ ∀ i j : Fin xs.length, i < j → ∀ x y : HostAddr × Nat,
      xs[i.val]? = some x → xs[j.val]? = some y →
      ¬ ∃ z, (x.1.toNat ≤ z ∧ z < x.1.toNat + x.2) ∧ (y.1.toNat ≤ z ∧ z < y.1.toNat + y.2) := by
  rw [allApart_iff_pairwise, List.pairwise_iff_getElem]
  refine ⟨fun apart i j below x y hx hy => ?_, fun none i j hi hj below => ?_⟩
  · obtain ⟨_, rfl⟩ := List.getElem?_eq_some_iff.1 hx
    obtain ⟨_, rfl⟩ := List.getElem?_eq_some_iff.1 hy
    exact (rangesApart_iff (pos _ (List.getElem_mem _)) (pos _ (List.getElem_mem _))).1
      (apart i.val j.val i.isLt j.isLt below)
  · exact (rangesApart_iff (pos _ (List.getElem_mem _)) (pos _ (List.getElem_mem _))).2
      (none ⟨i, hi⟩ ⟨j, hj⟩ below _ _ (List.getElem?_eq_getElem hi) (List.getElem?_eq_getElem hj))

/-- Settles O9: each check as a proposition, and then the chain of `startCheck`. -/
theorem startChecksInOrder : Obligations.StartChecksInOrder := by
  intro c clockOk powerOk sizesOk aperturesOk within readable writable placedOk apart
  have clock : inRange 4 64 c.clock = true ↔ clockOk := by simp [inRange, clockOk]
  have sizes : (ringSizeOk c.ringH.size && ringSizeOk c.ringL.size && ringSizeOk c.completionRing.size
      && ringSizeOk c.indicationRing.size) = true ↔ sizesOk := by
    simp only [Bool.and_eq_true, ringSizeOk_iff, and_assoc, sizesOk, powerOk]
  have apertures : c.apertures.all Aperture.ordered = true ↔ aperturesOk := by
    simp only [List.all_eq_true, Aperture.ordered_iff, aperturesOk]
    exact Iff.rfl
  have read : ∀ base n, 0 < n → (c.mayRead base n = true ↔ readable base n) := fun _ _ => c.mayRead_iff
  have write : ∀ base n, 0 < n → (c.mayWrite base n = true ↔ writable base n) := fun _ _ => c.mayWrite_iff
  have pos : ∀ {n}, powerOk n → 0 < n := fun ⟨k, _, _, e⟩ => e ▸ Nat.two_pow_pos k
  have placed : sizesOk → (c.placedOk = true ↔ placedOk) := fun ⟨h, l, cpl, ind⟩ => by
    have := pos h; have := pos l; have := pos cpl; have := pos ind
    simp only [ConfigCopy.placedOk, Bool.and_eq_true, and_assoc]
    rw [read _ _ (by omega), read _ _ (by omega), write _ _ (by omega), write _ _ (by omega),
      write _ _ (by omega)]
  have disjoint : sizesOk → (allApart c.structures = true ↔ apart) := fun ⟨h, l, cpl, ind⟩ => by
    have := pos h; have := pos l; have := pos cpl; have := pos ind
    refine allApart_iff c.structures fun x hx => ?_
    simp only [ConfigCopy.structures, List.mem_cons, List.not_mem_nil, or_false] at hx
    rcases hx with rfl | rfl | rfl | rfl | rfl <;> dsimp only <;> omega
  have fails : ∀ {b : Bool} {p : Prop}, (b = true ↔ p) → ¬ p → (!b) = true := fun e h => by
    simpa using mt e.1 h
  have passes : ∀ {b : Bool} {p : Prop}, (b = true ↔ p) → p → ¬ (!b) = true := fun e h => by
    simpa using e.2 h
  unfold ConfigCopy.startCheck
  refine ⟨fun base n hn => ⟨read base n hn, write base n hn⟩, fun h1 => ?_, fun h1 h2 => ?_,
    fun h1 h2 h3 => ?_, fun h1 h2 h3 h4 => ?_, fun h1 h2 h3 h4 h5 => ?_, fun h1 h2 h3 h4 h5 => ?_⟩
  · rw [if_pos (fails clock h1)]
  all_goals rw [if_neg (passes clock h1)]
  · rw [if_pos (fails sizes h2)]
  all_goals rw [if_neg (passes sizes h2)]
  · rw [if_pos (fails apertures h3)]
  all_goals rw [if_neg (passes apertures h3)]
  · rw [if_pos (fails (placed h2) h4)]
  all_goals rw [if_neg (passes (placed h2) h4)]
  · rw [if_pos (fails (disjoint h2) h5)]
  · rw [if_neg (passes (disjoint h2) h5)]

end Sys2Proof.Machine

/-! Host heads, the coalesced causes and the register window (R155 to R159, R169, R172). -/

namespace Sys2Proof.Machine

section
variable {s u : State}

/-! ### What begins of itself -/

/-- The stage after an operation that left it alone, and the wake after it (R129). -/
theorem State.stageAfter_wake (hs : u.admission.stage = s.admission.stage)
    (hd : u.device.state = .running) : s.StageAfter u.wake := by
  unfold State.StageAfter
  rw [← hs]
  cases held : u.admission.stage with
  | some g => exact State.wake_stage_some u g held
  | none => exact State.wake_stage_regrant hd held

/-- What the part begins of itself after an operation that left the stage and the posting alone. -/
theorem State.begins_wake (hs : u.admission.stage = s.admission.stage)
    (hp : u.retire.posting = s.retire.posting) (hd : u.device.state = .running) : s.Begins u.wake :=
  ⟨State.stageAfter_wake hs hd, State.postingAfter_wake hp hd⟩

/-- A head record begins to be written, and takes the lost count, where the unit is idle and the ring has room
(R153). -/
theorem State.beginIndication_ind (hd : s.device.state = .running) :
    s.beginIndication.ind = match s.ind.queue with
      | [] => s.ind
      | x :: rest =>
        if s.ind.writing = false ∧ s.unseen .indication < s.cfg.indicationRing.size then
          { queue := { x with lost := s.ind.lost } :: rest, lost := 0, writing := true }
        else s.ind := by
  have begins : (decide (s.device.state = .running) && !s.ind.writing && s.hasRoom .indication) = true
      ↔ s.ind.writing = false ∧ s.unseen .indication < s.cfg.indicationRing.size := by
    simp only [State.hasRoom, Bool.and_eq_true, Bool.not_eq_true', decide_eq_true_eq, hd, true_and]
    exact Iff.rfl
  unfold State.beginIndication
  cases s.ind.queue with
  | nil => dsimp only; split <;> rfl
  | cons x rest => simp only [begins]; split <;> rfl

/-! ### Host heads -/

/-- The Notification Unit when a host head has moved: at 0 unseen the timers of the ring's cause stop (R155). -/
def State.headMoved (s : State) (r : HostRing) (head : Half) : State :=
  let t := s.setWrittenRing r { s.writtenRing r with hostHead := head }
  if t.unseen r = 0 then t.modCause r Coalesced.onEmptied else t

theorem State.writeHead_of_moves {r : HostRing} {head : Half} (moves : head ≠ (s.writtenRing r).hostHead)
    (inRange : (head - (s.writtenRing r).hostHead).toNat ≤ s.unseen r) :
    s.writeHead r head = (s.headMoved r head).wake :=
  (if_neg (Nat.not_lt.2 inRange)).trans (if_neg moves)

theorem State.writeHead_of_same {r : HostRing} : s.writeHead r (s.writtenRing r).hostHead = s :=
  (if_neg (by simp)).trans (if_pos rfl)

@[simp] theorem State.writtenRing_setWrittenRing_self (s : State) (r : HostRing) (w : WrittenRing) :
    (s.setWrittenRing r w).writtenRing r = w := by cases r <;> rfl

theorem State.writtenRing_setWrittenRing_ne (s : State) {r q : HostRing} (w : WrittenRing) (h : q ≠ r) :
    (s.setWrittenRing r w).writtenRing q = s.writtenRing q := by
  cases r <;> cases q <;> first | rfl | exact absurd rfl h

@[simp] theorem Notification.coalesced_setCoalesced_self (n : Notification) (r : HostRing) (c : Coalesced) :
    (n.setCoalesced r c).coalesced r = c := by cases r <;> rfl

theorem Notification.coalesced_setCoalesced_ne (n : Notification) {r q : HostRing} (c : Coalesced)
    (h : q ≠ r) : (n.setCoalesced r c).coalesced q = n.coalesced q := by
  cases r <;> cases q <;> first | rfl | exact absurd rfl h

@[simp] theorem Notification.setCoalesced_mask (n : Notification) (r : HostRing) (c : Coalesced) :
    (n.setCoalesced r c).mask = n.mask := by cases r <;> rfl

@[simp] theorem Notification.setCoalesced_halt (n : Notification) (r : HostRing) (c : Coalesced) :
    (n.setCoalesced r c).halt = n.halt := by cases r <;> rfl

@[simp] theorem Notification.setCoalesced_coalesced (n : Notification) (r : HostRing) :
    n.setCoalesced r (n.coalesced r) = n := by cases r <;> rfl

/-- Only the ring's indices and the Notification Unit change with a host head. -/
theorem State.headMoved_eq (s : State) (r : HostRing) (head : Half) :
    s.headMoved r head = { s.setWrittenRing r { s.writtenRing r with hostHead := head } with
      notify := (s.headMoved r head).notify } := by
  unfold State.headMoved
  dsimp only
  split <;> cases r <;> rfl

theorem State.headMoved_writtenRing (s : State) (r q : HostRing) (head : Half) :
    (s.headMoved r head).writtenRing q
      = (s.setWrittenRing r { s.writtenRing r with hostHead := head }).writtenRing q := by
  rw [State.headMoved_eq]
  cases q <;> rfl

theorem State.headMoved_unseen (s : State) (r : HostRing) (head : Half) :
    (s.headMoved r head).unseen r
      = WrittenRing.unseen { s.writtenRing r with hostHead := head } := by
  rw [State.unseen, State.headMoved_writtenRing, State.writtenRing_setWrittenRing_self]

theorem State.headMoved_notify (s : State) (r : HostRing) (head : Half) :
    (s.headMoved r head).notify
      = if (s.headMoved r head).unseen r = 0 then
          s.notify.setCoalesced r (s.notify.coalesced r).onEmptied else s.notify := by
  have unseen : (s.setWrittenRing r { s.writtenRing r with hostHead := head }).unseen r
      = (s.headMoved r head).unseen r := by
    rw [State.headMoved_unseen, State.unseen, State.writtenRing_setWrittenRing_self]
  rw [← unseen, State.headMoved]
  dsimp only
  split <;> cases r <;> rfl

end

/-- Settles O11. -/
theorem hostHeadWrite : Obligations.HostHeadWrite := by
  intro s r v released w head
  have write : ∀ {t}, s.whenRunning (s.writeHead r (indexOf v)) = t →
      exec (.hostHeadWrite r v) s = .next t := fun e =>
    congrArg Host.Outcome.next ((State.onWrite_of_released released).trans e)
  have taken : s.device.state = .running → s.whenRunning (s.writeHead r head) = s.writeHead r head :=
    State.whenRunning_of_eq
  refine ⟨fun stopped => write (State.whenRunning_of_ne stopped), fun running bad => ?_,
    fun running same => write ((taken running).trans ?_), fun running moves inRange => ?_⟩
  · exact ⟨_, write ((taken running).trans (State.writeHead_of_error bad)),
      State.halt_haltedBy running .hostHead .host⟩
  · rw [same]
    exact State.writeHead_of_same
  · set u := s.headMoved r head with hu
    have frame := State.headMoved_eq s r head
    have host : u.device = s.device := by rw [hu, frame]; cases r <;> rfl
    have wakeRing : ∀ q, u.wake.writtenRing q = u.writtenRing q := fun q => by
      cases q <;> simp [State.writtenRing]
    have unseen : u.wake.unseen r = s.unseen r - (head - w.hostHead).toNat := by
      rw [State.unseen, wakeRing, ← State.unseen, hu, State.headMoved_unseen]
      exact WrittenRing.unseen_setHead (Nat.not_lt.2 inRange)
    have ring : u.wake.writtenRing r = { w with hostHead := head } := by
      rw [wakeRing, hu, State.headMoved_writtenRing, State.writtenRing_setWrittenRing_self]
    have notify : u.wake.notify = if u.wake.unseen r = 0 then
        s.notify.setCoalesced r (s.notify.coalesced r).onEmptied else s.notify := by
      rw [State.wake_notify, hu, State.headMoved_notify, State.unseen, State.unseen, wakeRing, hu]
    have runs : u.device.state = .running := by rw [host, running]
    refine ⟨u.wake, write ((taken running).trans (State.writeHead_of_moves moves inRange)), ?_, ?_, unseen, ?_,
      fun zero => ?_, fun more => ?_, ?_, ?_, fun q other => ⟨?_, ?_⟩, ?_, ?_, ?_, ?_, ?_, ?_, ?_, ?_⟩
    · rw [ring]
    · rw [ring]
    · rw [notify]; split <;> simp [Coalesced.onEmptied]
    · rw [notify, if_pos zero]; simp [Coalesced.onEmptied]
    · rw [notify, if_neg more]
    · rw [notify]; split <;> simp
    · rw [notify]; split <;> simp
    · rw [wakeRing, hu, State.headMoved_writtenRing, State.writtenRing_setWrittenRing_ne _ _ other]
    · rw [notify]
      split
      · exact Notification.coalesced_setCoalesced_ne _ _ other
      · rfl
    · exact (State.SameWork.trans ⟨by rw [hu, frame]; cases r <;> rfl, by rw [hu, frame]; cases r <;> rfl,
        by rw [hu, frame]; cases r <;> rfl, by rw [hu, frame]; cases r <;> rfl⟩ u.wake_sameWork)
    · exact (State.SameAdmission.of_eq (by rw [hu, frame]; cases r <;> rfl)).trans u.wake_sameAdmission
    · rw [State.wake_device, host]
    · rw [State.wake_time, hu, frame]; cases r <;> rfl
    · rw [State.wake_queue, hu, frame]; cases r <;> rfl
    · rw [State.wake_busWrites, hu, frame]; cases r <;> rfl
    · exact State.begins_wake (by rw [hu, frame]; cases r <;> rfl) (by rw [hu, frame]; cases r <;> rfl) runs
    · have ind : u.ind = s.ind := by rw [hu, frame]; cases r <;> rfl
      have cfg : u.cfg = s.cfg := by rw [State.cfg, host, ← State.cfg]
      have seen : u.unseen .indication = u.wake.unseen .indication := by
        rw [State.unseen, State.unseen, wakeRing]
      have begun := State.beginIndication_ind runs
      rw [ind, cfg, seen] at begun
      exact (State.wake_ind u).trans begun

end Sys2Proof.Machine

namespace Sys2Proof.Machine

/-! ### The lengths of the records the part writes -/

theorem length_padTo_take (n : Nat) (bytes : List Byte) : ((padTo n bytes).take n).length = n := by
  simp only [padTo, List.length_take, List.length_append, List.length_replicate]
  omega

/-- A completion record has 32 bytes (R150). -/
theorem Completion.length_bytes (c : Completion) (phase : Byte) : (c.bytes phase).length = 32 := by
  simp only [Completion.bytes, List.length_append, length_padTo_take, le16, le32, List.length_cons,
    List.length_nil]

theorem IndicationBody.length_fields (x : IndicationBody) : x.fields.length = 7 := by
  cases x <;> rfl

/-- An indication record has 64 bytes (R154). -/
theorem Indication.length_bytes (x : Indication) (phase : Byte) : (x.bytes phase).length = 64 := by
  simp only [Indication.bytes, List.length_append, length_padTo_take, IndicationBody.length_fields, le16, le32,
    List.length_cons, List.length_nil]

/-! ### The ends of the record writes -/

section
variable {s t : State}

/-- A write whose range the port allows ends as the host ends it (R165). -/
theorem State.checkedWrite_of_allowed {w : WriteAccess} {result : BusWriteEnd}
    (h : s.cfg.mayWrite w.addr w.bytes.length = true) : s.checkedWrite w result = result := if_pos h

/-- The write of the record of the head item `q` (R149). -/
def State.completionWrite (s : State) (q : QueuedItem) (f : Bool) : WriteAccess where
  addr := s.cfg.completionRing.slot s.cplRing.posted 32
  bytes := (s.completionOf q f).bytes (phaseByte s.cplRing.posted s.cfg.completionRing.size)

/-- The write of the head record `x` (R153). -/
def State.indicationWrite (s : State) (x : Indication) : WriteAccess where
  addr := s.cfg.indicationRing.slot s.indRing.posted 64
  bytes := x.bytes (phaseByte s.indRing.posted s.cfg.indicationRing.size)

theorem State.completionAccess_of_head {q : QueuedItem} {rest : List QueuedItem}
    (queue : s.retire.queue = q :: rest) (f : Bool) :
    s.completionAccess f = some (s.completionWrite q f) := by
  rw [State.completionAccess, queue]
  rfl

theorem State.indicationAccess_of_head {x : Indication} {rest : List Indication}
    (queue : s.ind.queue = x :: rest) : s.indicationAccess = some (s.indicationWrite x) := by
  rw [State.indicationAccess, queue]
  rfl

@[simp] theorem State.length_completionWrite (s : State) (q : QueuedItem) (f : Bool) :
    (s.completionWrite q f).bytes.length = 32 := Completion.length_bytes _ _

@[simp] theorem State.length_indicationWrite (s : State) (x : Indication) :
    (s.indicationWrite x).bytes.length = 64 := Indication.length_bytes _ _

/-- A completion record write that ends without error (R149). -/
theorem exec_completionRecordWriteEnd_done {result : BusWriteEnd} {f : Bool} {q : QueuedItem}
    {rest : List QueuedItem} {w : WriteAccess} (running : s.device.state = .running)
    (writing : s.retire.posting = .writing f) (queue : s.retire.queue = q :: rest)
    (access : s.completionAccess f = some w) (done : s.checkedWrite w result = .done) :
    exec (.completionRecordWriteEnd result) s = .next ((s.placed w.addr w.bytes).posted q).wake := by
  simp only [exec, execCompletionRecordWriteEnd, State.whenRunning_of_eq running, writing, queue, access, done]

/-- A completion record write that fails halts the part (R149, R166). -/
theorem exec_completionRecordWriteEnd_error {result : BusWriteEnd} {f : Bool} {q : QueuedItem}
    {rest : List QueuedItem} {w : WriteAccess} {n : Nat} (running : s.device.state = .running)
    (writing : s.retire.posting = .writing f) (queue : s.retire.queue = q :: rest)
    (access : s.completionAccess f = some w) (failed : s.checkedWrite w result = .error n) :
    exec (.completionRecordWriteEnd result) s
      = .next ((s.placedRecordPart w n).halt .ringWriteError (.write .completion)) := by
  simp only [exec, execCompletionRecordWriteEnd, State.whenRunning_of_eq running, writing, queue, access, failed]

/-- An indication write that ends without error (R153). -/
theorem exec_indicationWriteEnd_done {result : BusWriteEnd} {w : WriteAccess}
    (running : s.device.state = .running) (writing : s.ind.writing = true)
    (access : s.indicationAccess = some w) (done : s.checkedWrite w result = .done) :
    exec (.indicationWriteEnd result) s = .next (s.placed w.addr w.bytes).indicationWritten.wake := by
  simp only [exec, execIndicationWriteEnd, State.whenRunning_of_eq running, if_pos writing, access, done]

/-- An indication write that fails halts the part (R153, R166). -/
theorem exec_indicationWriteEnd_error {result : BusWriteEnd} {w : WriteAccess} {n : Nat}
    (running : s.device.state = .running) (writing : s.ind.writing = true)
    (access : s.indicationAccess = some w) (failed : s.checkedWrite w result = .error n) :
    exec (.indicationWriteEnd result) s
      = .next ((s.placedRecordPart w n).halt .ringWriteError (.write .indication)) := by
  simp only [exec, execIndicationWriteEnd, State.whenRunning_of_eq running, if_pos writing, access, failed]

/-- Bytes placed in host memory (log 6). -/
theorem State.placed_eq (s : State) (addr : HostAddr) {bytes : List Byte} (h : bytes ≠ []) :
    s.placed addr bytes = { s with busWrites := { addr := addr, bytes := bytes } :: s.busWrites } :=
  if_neg (by simpa using h)

/-- Placing bytes reaches host memory alone. -/
theorem State.placed_frame (s : State) (addr : HostAddr) (bytes : List Byte) :
    s.placed addr bytes = { s with busWrites := (s.placed addr bytes).busWrites } := by
  unfold State.placed
  split <;> rfl

/-! ### What a freed item leaves alone -/

theorem State.returned_sameHost (s : State) (x : Resource) : s.SameHost (s.returned x) :=
  ⟨rfl, rfl, rfl, rfl, rfl, rfl, rfl, rfl, rfl⟩

theorem State.returnedEntry_sameHost (s : State) (held : Bool) : s.SameHost (s.returnedEntry held) := by
  unfold State.returnedEntry
  split
  · exact (State.returned_sameHost s _).trans (State.returned_sameHost _ _)
  · exact State.returned_sameHost s _

/-- Freeing what an item held does not reach the host's side (R149, step 3). -/
theorem State.freeItem_sameHost (s : State) (item : RetireItem) : s.SameHost (s.freeItem item) := by
  cases item with
  | entry i =>
    exact State.SameHost.trans (t := s.freeEntryAt i) ⟨rfl, rfl, rfl, rfl, rfl, rfl, rfl, rfl, rfl⟩
      (State.returnedEntry_sameHost _ _)
  | immediate | lineControl => exact ⟨rfl, rfl, rfl, rfl, rfl, rfl, rfl, rfl, rfl⟩

/-- The posting of a completion counts one record and frees its item (R149). -/
theorem State.countPosted_sameHost_posted (s : State) (q : QueuedItem) :
    (s.countPosted .completion).SameHost (s.posted q) := by
  obtain ⟨pending, resetInput, device, time, cplRing, indRing, notify, busWrites, freeSeq⟩ :=
    State.freeItem_sameHost (s.countPosted .completion) q.item
  exact ⟨pending, resetInput, device, time, cplRing, indRing, notify, busWrites, freeSeq⟩

/-! ### The count of a posted record -/

theorem State.countPosted_notify (s : State) (r : HostRing) :
    (s.countPosted r).notify = s.notify.setCoalesced r ((s.notify.coalesced r).onPosted (s.cfg.cause r)
      ((s.writtenRing r).posted + 1 - (s.writtenRing r).hostHead).toNat) := by
  cases r <;> rfl

theorem State.countPosted_unseen (s : State) (r : HostRing) :
    (s.countPosted r).unseen r = ((s.writtenRing r).posted + 1 - (s.writtenRing r).hostHead).toNat := by
  cases r <;> rfl

/-- A cause that is set takes no record; a clear one is raised at its threshold unless its re-arm gap timer
runs, and starts its holdoff timer at the first (R157). -/
theorem Coalesced.onPosted_of_set {c : Coalesced} (h : c.cause = true) (settings : CauseSettings) (n : Nat) :
    c.onPosted settings n = c := if_pos h

theorem Coalesced.onPosted_of_reached {c : Coalesced} {settings : CauseSettings} {n : Nat}
    (h : c.cause = false) (reached : settings.threshold ≤ n) (gap : c.rearm.isRunning = false) :
    c.onPosted settings n = { cause := true, holdoff := .stopped, rearm := .stopped } := by
  unfold Coalesced.onPosted
  rw [if_neg (by simp [h])]
  dsimp only
  split <;> simp [reached, gap, Coalesced.raise]

theorem Coalesced.onPosted_of_below {c : Coalesced} {settings : CauseSettings} {n : Nat}
    (h : c.cause = false) (below : n < settings.threshold ∨ c.rearm.isRunning = true) :
    c.onPosted settings n
      = { c with holdoff := if n = 1 then Timer.start settings.holdoff else c.holdoff } := by
  unfold Coalesced.onPosted
  rw [if_neg (by simp [h])]
  have notReached : (decide (settings.threshold ≤ n) && !c.rearm.isRunning) = false := by
    rcases below with few | gap
    · simp [Nat.not_le.2 few]
    · simp [gap]
  dsimp only
  by_cases first : n = 1
  · simp only [if_pos first, notReached]
    rfl
  · simp only [if_neg first, notReached]
    rfl

/-! ### A write of NOTIFY_CAUSE -/

theorem State.clearCause_eq (s : State) (r : HostRing) (request : Bool) :
    s.clearCause r request = { s with
      notify := s.notify.setCoalesced r (if request then
          (s.notify.coalesced r).onClear (s.cfg.cause r) s.cfg.rearmGap (s.unseen r)
        else s.notify.coalesced r) } := by
  unfold State.clearCause
  cases request
  · simp
  · rfl

/-- Both requests of a write, each at its own cause (R158). -/
theorem State.clearCauses_coalesced (s : State) (first second : Bool) (r : HostRing) :
    ((s.clearCause .completion first).clearCause .indication second).notify.coalesced r
      = if (match r with
          | .completion => first
          | .indication => second) = true
        then (s.notify.coalesced r).onClear (s.cfg.cause r) s.cfg.rearmGap (s.unseen r)
        else s.notify.coalesced r := by
  rw [State.clearCause_eq, State.clearCause_eq s]
  cases r with
  | completion => rfl
  | indication => rfl

theorem Coalesced.onClear_of_clear {c : Coalesced} (h : c.cause = false) (settings : CauseSettings)
    (gap unseen : Nat) : c.onClear settings gap unseen = c := if_neg (by simp [h])

theorem Coalesced.onClear_of_set {c : Coalesced} (h : c.cause = true) (settings : CauseSettings)
    (gap unseen : Nat) :
    c.onClear settings gap unseen =
      { cause := false
        holdoff := if 1 ≤ unseen then Timer.start settings.holdoff else c.holdoff
        rearm := if 1 ≤ unseen ∧ settings.threshold ≤ unseen then Timer.start gap else c.rearm } := by
  simp [Coalesced.onClear, h]

/-- An outstanding expiry is taken in RUNNING (R25). -/
theorem State.onExpiry_of_expired {timer : Timer} (running : s.device.state = .running)
    (expired : timer = .expired) : s.onExpiry timer t = t :=
  (State.whenRunning_of_eq running).trans (if_pos expired)

end

/-- Settles O12: expiries, postings and the clearing write, each by the equation of its cause. -/
theorem causeWriteAndTimers : Obligations.CauseWriteAndTimers := by
  refine ⟨fun s r running => ?_, fun s running => ?_, fun s v released => ?_⟩
  · refine ⟨fun expired => congrArg Host.Outcome.next (State.onExpiry_of_expired running expired),
      fun expired reached => ?_, fun expired below => ?_⟩
    · refine congrArg Host.Outcome.next ((State.onExpiry_of_expired running expired).trans ?_)
      rw [State.modCause, Coalesced.onGap, if_pos reached]
      rfl
    · refine congrArg Host.Outcome.next ((State.onExpiry_of_expired running expired).trans ?_)
      rw [State.modCause, Coalesced.onGap, if_neg (Nat.not_le.2 below)]
  · intro counted
    have count : ∀ r (u t : State), u.notify = s.notify → u.cfg = s.cfg →
        u.writtenRing r = s.writtenRing r → t.notify = (u.countPosted r).notify →
        t.unseen r = (u.countPosted r).unseen r → counted r t := by
      intro r u t hn hc hw notify unseen
      rw [State.countPosted_unseen, hw] at unseen
      rw [State.countPosted_notify, hn, hc, hw] at notify
      refine ⟨unseen, fun set => ?_, fun clear reached gap => ?_, fun clear below => ?_⟩
      · rw [notify, Coalesced.onPosted_of_set set, Notification.setCoalesced_coalesced]
      · rw [notify, Coalesced.onPosted_of_reached clear reached gap]
      · rw [notify, Coalesced.onPosted_of_below clear below]
    refine ⟨fun f q rest writing queue allowed => ?_, fun x rest writing queue allowed => ?_⟩
    · let w := s.completionWrite q f
      have done : s.checkedWrite w .done = .done :=
        State.checkedWrite_of_allowed (by rw [State.length_completionWrite]; exact allowed)
      refine ⟨_, exec_completionRecordWriteEnd_done running writing queue
        (State.completionAccess_of_head queue f) done, ?_⟩
      refine count .completion (s.placed w.addr w.bytes) _ (by rw [State.placed_frame])
        (by rw [State.placed_frame]; rfl) (by rw [State.placed_frame]; rfl) ?_ ?_
      · rw [State.wake_notify, (State.countPosted_sameHost_posted _ q).notify]
      · exact congrArg WrittenRing.unseen
          ((State.wake_cplRing _).trans (State.countPosted_sameHost_posted _ q).cplRing)
    · let w := s.indicationWrite x
      have done : s.checkedWrite w .done = .done :=
        State.checkedWrite_of_allowed (by rw [State.length_indicationWrite]; exact allowed)
      refine ⟨_, exec_indicationWriteEnd_done running writing (State.indicationAccess_of_head queue) done, ?_⟩
      refine count .indication (s.placed w.addr w.bytes) _ (by rw [State.placed_frame])
        (by rw [State.placed_frame]; rfl) (by rw [State.placed_frame]; rfl) ?_ ?_
      · rw [State.wake_notify]; rfl
      · exact congrArg WrittenRing.unseen (State.wake_indRing _)
  · refine ⟨fun stopped => congrArg Host.Outcome.next
      ((State.onWrite_of_released released).trans (State.whenRunning_of_ne stopped)), fun running => ?_⟩
    refine ⟨_, congrArg Host.Outcome.next
      ((State.onWrite_of_released released).trans (State.whenRunning_of_eq running)), ?_, ?_, ?_, fun r => ?_⟩
    · rw [State.clearCause_eq, State.clearCause_eq]
    · rw [State.clearCause_eq, State.clearCause_eq]; simp
    · rw [State.clearCause_eq, State.clearCause_eq]; simp
    · intro c request
      have cleared : ((s.clearCause .completion (v.getLsbD 0)).clearCause .indication
          (v.getLsbD 1)).notify.coalesced r
          = if request = true then c.onClear (s.cfg.cause r) s.cfg.rearmGap (s.unseen r) else c :=
        State.clearCauses_coalesced s _ _ r
      rw [cleared]
      refine ⟨fun stays => ?_, fun requested set => ?_⟩
      · rcases stays with unrequested | clear
        · rw [if_neg (ne_true_of_eq_false unrequested)]
        · rw [Coalesced.onClear_of_clear clear, ite_self]
      · rw [if_pos requested, Coalesced.onClear_of_set set]
        exact ⟨rfl, fun zero => if_neg (by omega), fun more => if_pos more,
          fun more reached => if_pos ⟨more, reached⟩, fun few => if_neg (by omega)⟩

/-- Settles O13: the write of the mask, the interrupt output, and each word of the window. -/
theorem maskWriteAndInterrupt : Obligations.MaskWriteAndInterrupt := by
  refine ⟨fun s v released => ⟨fun live => ?_, fun halted => ?_, ?_, ?_, fun _ _ => rfl⟩, fun s => ?_⟩
  · exact congrArg Host.Outcome.next ((State.onWrite_of_released released).trans (if_neg live))
  · exact congrArg Host.Outcome.next ((State.onWrite_of_released released).trans (if_pos halted))
  · simp only [State.interruptActive, Bool.or_eq_true, Bool.and_eq_true, or_assoc]
  · simp [State.interruptPinHigh]
  · intro state startError haltCause bits
    have word : ∀ a b c : Bool, BitVec.ofNat 32 (bit a + 2 * bit b + 4 * bit c) = bits a b c := by decide
    refine ⟨rfl, rfl, rfl, ?_, word _ _ _, word _ _ _, fun offset listed => ?_, fun word byte inWord => ?_⟩
    · show s.device.statusWord = _
      simp only [DeviceControl.statusWord, state, startError, haltCause]
      cases s.device.state <;> cases s.device.startError <;> cases s.device.haltCause <;> rfl
    · simp only [List.mem_cons, List.not_mem_nil, or_false] at listed
      rcases listed with rfl | rfl | rfl | rfl | rfl | rfl <;> rfl
    · have aligned : (4 * word + byte) / 4 * 4 = 4 * word := by omega
      have inside : (4 * word + byte) % 4 = byte := by omega
      rw [State.readRegisterByte, aligned, inside]

end Sys2Proof.Machine

/-! The ends of the fetches, the shadow writes and the reply copies, and the halt on a failed access to a
shared ring structure (R127 to R129, R148, R165, R166). -/

namespace Sys2Proof.Machine

/-! ### The order of the accesses -/

/-- What holds up an access (R165, R138, R128). -/
theorem AdmissionAccess.holdsUp_eq_false_iff (x a : AdmissionAccess) :
    x.holdsUp a = false ↔
      (∃ r q, x = .load r ∧ a = .load q) ∨ (∃ r q, x = .shadow r ∧ (a = .fetch q ∨ a = .load q)) := by
  cases x <;> cases a <;> simp [AdmissionAccess.holdsUp]

/-- What was asked before the first `a`. -/
theorem takeWhile_ne_of_not_mem {a : AdmissionAccess} {earlier : List AdmissionAccess}
    (later : List AdmissionAccess) (h : a ∉ earlier) :
    (earlier ++ a :: later).takeWhile (· != a) = earlier := by
  induction earlier with
  | nil => simp
  | cons x xs ih =>
    obtain ⟨hx, hxs⟩ := not_or.1 (mt List.mem_cons.2 h)
    simp [Ne.symm hx, ih hxs]

theorem State.inTurn_iff {s : State} {a : AdmissionAccess} {earlier later : List AdmissionAccess}
    (asked : s.admission.asked = earlier ++ a :: later) (h : a ∉ earlier) :
    s.inTurn a = true ↔ ∀ x ∈ earlier,
      (∃ r q, x = .load r ∧ a = .load q) ∨ (∃ r q, x = .shadow r ∧ (a = .fetch q ∨ a = .load q)) := by
  simp only [State.inTurn, asked, takeWhile_ne_of_not_mem later h, List.all_eq_true, Bool.not_eq_true',
    AdmissionAccess.holdsUp_eq_false_iff]

/-- A read that ends, and begins none, leaves the order of the accesses (R165). -/
theorem orderAsked_read_ends {r : Ring} {u v : RingUnit} {a : AdmissionAccess}
    (asked : List AdmissionAccess) (hs : v.shadow = u.shadow) (hu : u.hold.read r = some a)
    (hv : v.hold.read r = none) : orderAsked r u v asked = asked.filter (· != a) := by
  have shadowStays : u.shadow.ends u.shadow = false ∧ u.shadow.begins u.shadow = false := by
    cases u.shadow <;> exact ⟨rfl, rfl⟩
  have leaves : ∀ x, (some a == some x) = (x == a) := fun x => BEq.comm
  simp [orderAsked, hs, hu, hv, shadowStays.1, shadowStays.2, leaves, bne]

/-! ### Fetches -/

section
variable {s : State}

theorem State.checkedRead_of_allowed {addr : HostAddr} {n : Nat} {result : BusRead}
    (h : s.cfg.mayRead addr n = true) : s.checkedRead addr n result = result := if_pos h

/-- A fetch that ends in its turn (R127). -/
theorem exec_fetchEnd_data {r : Ring} {result : BusRead} {record : List Byte}
    (running : s.device.state = .running) (fetching : (s.ringUnit r).hold.state = .fetching)
    (turn : s.inTurn (.fetch r) = true) (length : record.length = 64)
    (h : s.checkedRead (s.fetchAddress r) 64 result = .data record) :
    exec (.fetchEnd r result) s = .next (s.fetched r record) := by
  simp only [exec, execFetchEnd]
  rw [if_pos ⟨running, fetching, turn⟩, h]
  exact if_pos length

theorem exec_fetchEnd_error {r : Ring} {result : BusRead} {received : List Byte}
    (running : s.device.state = .running) (fetching : (s.ringUnit r).hold.state = .fetching)
    (turn : s.inTurn (.fetch r) = true)
    (h : s.checkedRead (s.fetchAddress r) 64 result = .error received) :
    exec (.fetchEnd r result) s = .next (s.fetchFailed r received) := by
  simp only [exec, execFetchEnd]
  rw [if_pos ⟨running, fetching, turn⟩, h]

theorem State.wake_stage_choice (running : s.device.state = .running) :
    s.wake.admission.stage = match s.admission.stage with
      | some g => some g
      | none => (ringChoice (s.wake.isReady .h) (s.wake.isReady .l) s.admission.credit).map fun q =>
          { ring := q, lowReady := s.wake.isReady .l } := by
  rw [State.wake_stage s running]
  cases s.admission.stage <;> simp only [State.isReady, State.wake_ringUnit]

end

/-- Settles O15. -/
theorem fetchEnds : Obligations.FetchEnds := by
  refine ⟨fun g credit bound => ⟨fun low => ?_, fun high lowReady => ?_, fun high lowIdle => ?_⟩,
    fun credit => ⟨rfl, rfl, fun below => if_pos below, rfl, rfl⟩, fun s a earlier later => State.inTurn_iff,
    fun s r result turn => if_neg fun h => by simp [turn] at h, ?_⟩
  · rw [creditApplied, low]
  · rw [creditApplied, high]
    simp only [lowReady, true_and]
    split <;> omega
  · rw [creditApplied, high]
    simp [lowIdle]
  · intro s r record running fetching turn length allowed
    let u := s.modHold r fun _ => { state := .ready, bytes := record, readFailed := false }
    refine ⟨u.wake, exec_fetchEnd_data running fetching turn length (State.checkedRead_of_allowed allowed),
      ?_, ?_, ?_, ?_, ?_, ?_, ?_, ?_, ?_, ?_, ?_, ?_⟩
    · rw [State.wake_ringUnit]; exact State.ringUnit_modRing_self s r _
    · rw [State.wake_ringUnit]; exact State.ringUnit_modRing_other s r _
    · exact (State.wake_asked u).trans ((State.modRing_asked s r _).trans
        (orderAsked_read_ends _ rfl (by rw [Hold.read, fetching]) rfl))
    · have stage : u.admission.stage = s.admission.stage := State.modRing_stage s r _
      have credit : u.admission.credit = s.admission.credit := State.modRing_credit s r _
      have choice := State.wake_stage_choice (s := u) running
      rw [stage, credit] at choice
      exact choice
    · rw [State.wake_credit]; exact State.modRing_credit s r _
    · rw [State.wake_counter]; exact State.modRing_counter s r _
    · rw [State.wake_places]; exact State.modRing_places s r _
    · exact State.wake_queue u
    · exact State.postingAfter_wake rfl running
    · exact State.SameHost.trans (t := u) ⟨rfl, rfl, rfl, rfl, rfl, rfl, rfl, rfl, rfl⟩ u.wake_sameHost
    · exact State.SameWork.trans (t := u) ⟨rfl, rfl, rfl, rfl⟩ u.wake_sameWork
    · exact State.noIndication_wake (s := s) (t := u) rfl ⟨rfl, rfl, rfl, rfl, rfl, rfl, rfl, rfl, rfl⟩

/-! ### The halt on a failed access -/

section
variable {s t : State} {cause : HaltCause} {source : HaltSource}

/-- What stands in host memory before a halt does not matter to what the halt does. -/
theorem State.HaltedBy.of_busWrites {b before : List BusWrite}
    (h : ({ s with busWrites := b } : State).HaltedBy t cause source before) :
    s.HaltedBy t cause source before :=
  ⟨h.device, h.notify, h.pending, h.resetInput, h.time, h.lines, h.stations, h.entries, h.freeQueue, h.memory,
    h.retire, h.ind, h.cplRing, h.indRing, h.places, h.stage, h.credit, h.counter, h.asked, h.units, h.writes⟩

/-- A halt after a part of a write was placed. -/
theorem State.halt_placed_haltedBy (running : s.device.state = .running) (addr : HostAddr) (bytes : List Byte) :
    s.HaltedBy ((s.placed addr bytes).halt cause source) cause source (s.placed addr bytes).busWrites := by
  have h := State.halt_haltedBy (s := s.placed addr bytes) (by rw [State.placed_device, running]) cause source
  rw [State.placed_frame] at h
  have same := State.placed_frame s addr bytes
  rw [same]
  exact h.of_busWrites

theorem State.placed_busWrites (s : State) (addr : HostAddr) {bytes : List Byte} (h : bytes ≠ []) :
    (s.placed addr bytes).busWrites = { addr := addr, bytes := bytes } :: s.busWrites := by
  rw [State.placed_eq s addr h]

/-- What a record write that failed leaves in host memory: never its last byte (R171). -/
theorem State.placedRecordPart_busWrites (s : State) (w : WriteAccess) (n : Nat) :
    (s.placedRecordPart w n).busWrites =
      if min n (w.bytes.length - 1) = 0 then s.busWrites
      else { addr := w.addr, bytes := w.bytes.take (min n (w.bytes.length - 1)) } :: s.busWrites := by
  unfold State.placedRecordPart
  split
  · next zero => rw [zero]; rfl
  · next some => exact State.placed_busWrites s _ (by simp only [ne_eq, List.take_eq_nil_iff]; grind)

/-- A halt after a part of a record was placed (R149, R153, R171). -/
theorem State.halt_recordPart_haltedBy (running : s.device.state = .running) (w : WriteAccess) (n : Nat) :
    s.HaltedBy ((s.placedRecordPart w n).halt cause source) cause source
      (if min n (w.bytes.length - 1) = 0 then s.busWrites
      else { addr := w.addr, bytes := w.bytes.take (min n (w.bytes.length - 1)) } :: s.busWrites) := by
  rw [← State.placedRecordPart_busWrites]
  exact State.halt_placed_haltedBy running _ _

/-- A halt after a part of a shadow write of two bytes was placed (R128, R171). -/
theorem State.halt_shadowPart_haltedBy (running : s.device.state = .running) {w : WriteAccess}
    (two : w.bytes.length = 2) (n : Nat) :
    s.HaltedBy ((s.placedShadowPart w n).halt cause source) cause source
      (if n % 3 = 1 then { addr := w.addr, bytes := w.bytes.take 1 } :: s.busWrites
      else if n % 3 = 2 then { addr := w.addr + 1, bytes := w.bytes.drop 1 } :: s.busWrites
      else s.busWrites) := by
  unfold State.placedShadowPart
  split
  · rw [← State.placed_busWrites s w.addr (by intro e; simpa [two] using congrArg List.length e)]
    exact State.halt_placed_haltedBy running _ _
  · split
    · rw [← State.placed_busWrites s (w.addr + 1) (by intro e; simpa [two] using congrArg List.length e)]
      exact State.halt_placed_haltedBy running _ _
    · exact State.halt_haltedBy running cause source

/-- The shadow write in flight writes the two bytes of a head (R128). -/
theorem State.shadowAccess_length {r : Ring} {w : WriteAccess} (h : s.shadowAccess r = some w) :
    w.bytes.length = 2 := by
  unfold State.shadowAccess at h
  split at h <;> cases h <;> rfl

theorem exec_shadowWriteEnd_error {r : Ring} {result : BusWriteEnd} {w : WriteAccess} {n : Nat}
    (running : s.device.state = .running) (access : s.shadowAccess r = some w)
    (turn : s.inTurn (.shadow r) = true) (failed : s.checkedWrite w result = .error n) :
    exec (.shadowWriteEnd r result) s
      = .next ((s.placedShadowPart w n).halt .ringWriteError (.write (.shadow r))) := by
  simp only [exec, execShadowWriteEnd, State.whenRunning_of_eq running, access, turn, failed]

theorem exec_shadowWriteEnd_done {r : Ring} {result : BusWriteEnd} {w : WriteAccess}
    (running : s.device.state = .running) (access : s.shadowAccess r = some w)
    (turn : s.inTurn (.shadow r) = true) (done : s.checkedWrite w result = .done) :
    exec (.shadowWriteEnd r result) s
      = .next ((s.placed w.addr w.bytes).modRing r RingUnit.shadowDone) := by
  simp only [exec, execShadowWriteEnd, State.whenRunning_of_eq running, access, turn, done]

/-! ### The halt on a failed fetch -/

/-- The Retire Unit's and the Indication Unit's accesses do not look at the holds. -/
theorem State.modHold_postingPart (s : State) (r : Ring) (f : Hold → Hold) {failed : Option WriteId}
    {x : List BusWrite} : (s.modHold r f).PostingPart failed x ↔ s.PostingPart failed x := by
  cases r <;> exact Iff.rfl

theorem State.modHold_indicationPart (s : State) (r : Ring) (f : Hold → Hold) {failed : Option WriteId}
    {x : List BusWrite} : (s.modHold r f).IndicationPart failed x ↔ s.IndicationPart failed x := Iff.rfl

/-- The bytes of a hold are no part of what the stops of the accesses look at, but for the ring whose fetch
failed. -/
theorem State.HaltedBy.of_received {r : Ring} {received : List Byte}
    (h : (s.modHold r fun h => { h with bytes := received }).HaltedBy t cause (.fetch r) s.busWrites) :
    s.HaltedBy t cause (.fetch r) s.busWrites := by
  set u := s.modHold r fun h => { h with bytes := received } with hu
  have unit : ∀ q, u.ringUnit q = if r = q then
      { s.ringUnit r with hold := { (s.ringUnit r).hold with bytes := received } } else s.ringUnit q :=
    fun q => State.ringUnit_modRing s r q _
  have state : ∀ q, (u.ringUnit q).hold.state = (s.ringUnit q).hold.state := fun q => by
    rw [unit]; split <;> simp_all
  have shadow : ∀ q, (u.ringUnit q).shadow = (s.ringUnit q).shadow := fun q => by
    rw [unit]; split <;> simp_all
  have loadPart : ∀ q bytes, u.LoadPart q bytes ↔ s.LoadPart q bytes := fun q bytes => by
    simp only [State.LoadPart, state]; exact Iff.rfl
  have loadChain : ∀ q, u.loadChain q = s.loadChain q := fun q => by
    simp only [State.loadChain, state]; rfl
  have shadowAccess : ∀ q, u.shadowAccess q = s.shadowAccess q := fun q => by
    simp only [State.shadowAccess, shadow]; rfl
  refine ⟨h.device, h.notify, h.pending, h.resetInput, h.time, h.lines, h.stations, h.entries, h.freeQueue, ?_,
    h.retire, h.ind, h.cplRing, h.indRing, h.places.trans (State.modRing_places s r _),
    h.stage.trans (State.modRing_stage s r _), h.credit.trans (State.modRing_credit s r _),
    h.counter.trans (State.modRing_counter s r _), h.asked.trans ?_, fun q => ?_, ?_⟩
  · obtain ⟨high, low, hh, hl, bytes⟩ := h.memory
    rw [loadChain, loadChain] at bytes
    exact ⟨high, low, (loadPart _ _).1 hh, (loadPart _ _).1 hl, bytes⟩
  · rw [hu, State.modHold, State.modRing_asked]
    exact orderAsked_same _ rfl rfl
  · obtain ⟨bytes, eq, len⟩ := h.units q
    refine ⟨bytes, ?_, fun other => ?_⟩
    · rw [eq, unit]; split <;> simp_all
    · have apart : ¬ r = q := fun e => other (e ▸ rfl)
      have same : u.ringUnit q = s.ringUnit q := (unit q).trans (if_neg apart)
      have allowed : u.fetchAllowed q = s.fetchAllowed q := by
        simp only [State.fetchAllowed, State.fetchAddress, same]; rfl
      simpa only [same, allowed] using len other
  · obtain ⟨placed, ⟨h', l', posting, indication, split, high, low, post, ind⟩, writes⟩ := h.writes
    refine ⟨placed, ⟨h', l', posting, indication, split, ?_, ?_, (State.modHold_postingPart s r _).1 post,
      (State.modHold_indicationPart s r _).1 ind⟩, writes⟩
    · simpa only [State.ShadowPart, shadowAccess] using high
    · simpa only [State.ShadowPart, shadowAccess] using low

theorem Adds.ringUnit {x : List BusWrite} (h : Adds x s t) (r : Ring) : t.ringUnit r = s.ringUnit r := by
  obtain ⟨n, rfl⟩ := h
  rfl

/-- The ring whose fetch failed is not stopped once more (R127). -/
theorem State.stopReads_ringUnit_failed (s : State) (r : Ring) :
    (s.stopReads (some r)).ringUnit r = s.ringUnit r := by
  cases r with
  | h =>
    obtain ⟨bytes, received, stops, -⟩ := State.stopRead_stops s (s.freeSeq + 1) .l
    exact stops.other
  | l =>
    obtain ⟨bytes, received, stops, -⟩ := State.stopRead_stops s s.freeSeq .h
    exact stops.other

theorem State.halt_fetch_ringUnit (running : s.device.state = .running) (cause : HaltCause) (r : Ring) :
    (s.halt cause (.fetch r)).ringUnit r = s.ringUnit r := by
  obtain ⟨placed, -, adds⟩ := State.stopWrites_adds s none
  unfold State.halt
  rw [if_pos running]
  exact (State.stopReads_ringUnit_failed (s.stopWrites none) r).trans (adds.ringUnit r)

end

/-- Settles O16. -/
theorem ringErrorsHalt : Obligations.RingErrorsHalt := by
  intro s running record
  refine ⟨fun r result received fetching turn failed => ?_, fun r result w n access turn failed => ?_,
    fun result f q rest w n writing queue access failed => ?_, fun result w n writing access failed => ?_⟩
  · refine ⟨_, exec_fetchEnd_error running fetching turn failed, ?_, ?_⟩
    · exact (State.halt_haltedBy (s := s.modHold r fun h => { h with bytes := received }) running _
        (.fetch r)).of_received
    · have unit := State.halt_fetch_ringUnit (s := s.modHold r fun h => { h with bytes := received }) running
        .ringReadError r
      exact congrArg RingUnit.hold (unit.trans (State.ringUnit_modRing_self s r _))
  · exact ⟨_, exec_shadowWriteEnd_error running access turn failed,
      State.halt_shadowPart_haltedBy running (State.shadowAccess_length access) n⟩
  · exact ⟨_, exec_completionRecordWriteEnd_error running writing queue access failed,
      State.halt_recordPart_haltedBy running w n⟩
  · exact ⟨_, exec_indicationWriteEnd_error running writing access failed,
      State.halt_recordPart_haltedBy running w n⟩

/-! ### Shadow writes -/

/-- What the end of a shadow write does to the order of the accesses: it leaves, and a further write that was
pending joins at the end (R128, R165). -/
theorem orderAsked_shadowDone {r : Ring} {u : RingUnit} {v : Half} (asked : List AdmissionAccess)
    (h : u.shadow = .writing v ∨ u.shadow = .writingPending v) :
    orderAsked r u u.shadowDone asked = asked.filter (· != .shadow r)
      ++ (if u.shadow = .writing v then [] else [.shadow r]) := by
  rcases h with e | e
  · simp [orderAsked, RingUnit.shadowDone, e, ShadowState.ends, ShadowState.begins, bne]
  · simp [orderAsked, RingUnit.shadowDone, e, ShadowState.ends, ShadowState.begins, bne]

theorem RingUnit.shadowDone_eq {u : RingUnit} {v : Half}
    (h : u.shadow = .writing v ∨ u.shadow = .writingPending v) :
    u.shadowDone = { u with shadow := if u.shadow = .writing v then .idle else .writing u.head } := by
  rcases h with e | e <;> simp [RingUnit.shadowDone, e]

theorem RingUnit.leave_hold_eq (u : RingUnit) :
    u.leave.hold = if u.tail = u.head + 1 then { state := .empty, bytes := [], readFailed := false }
      else { state := .fetching, bytes := [], readFailed := false } := by
  unfold RingUnit.leave
  rw [RingUnit.beginFetch_eq]
  by_cases last : u.tail = u.head + 1 <;> simp [Hold.empty, last]

/-- Settles O17. -/
theorem shadowWriteEnds : Obligations.ShadowWriteEnds := by
  refine ⟨fun u => ⟨RingUnit.leave_tail u, RingUnit.leave_head u, u.leave_hold_eq, ?_⟩,
    fun s r result turn => ?_, fun s r v running inFlight turn => ?_⟩
  · rw [RingUnit.leave_shadow]
    cases u.shadow <;> rfl
  · refine congrArg Host.Outcome.next ?_
    simp only [turn]
    cases s.shadowAccess r <;> exact ite_self s
  · intro field allowed
    have access : s.shadowAccess r = some { addr := field, bytes := le16 v } := by
      rcases inFlight with e | e <;> cases r <;> simp only [State.shadowAccess, e] <;> rfl
    let u := { s with busWrites := { addr := field, bytes := le16 v } :: s.busWrites }
    refine ⟨u.modRing r RingUnit.shadowDone,
      (exec_shadowWriteEnd_done running access turn (State.checkedWrite_of_allowed allowed)).trans ?_,
      (State.ringUnit_modRing_self u r _).trans (RingUnit.shadowDone_eq inFlight),
      State.ringUnit_modRing_other u r _, (State.modRing_asked u r _).trans (orderAsked_shadowDone _ inFlight),
      rfl, rfl, State.modRing_stage u r _, State.modRing_credit u r _, State.modRing_counter u r _,
      State.modRing_places u r _⟩
    rw [State.placed_eq]
    exact List.cons_ne_nil _ _

/-! ### Reply copies -/

theorem Memory.readRun_eq (m : Memory) (a n : Nat) :
    m.readRun a n = (List.range n).map fun k => m.read (a + k) := by
  induction n generalizing a with
  | zero => rfl
  | succ n ih =>
    rw [Memory.readRun, ih, List.range_succ_eq_map, List.map_cons, List.map_map]
    simp only [Nat.add_zero, List.cons.injEq, true_and]
    exact List.map_congr_left fun k _ => by simp only [Function.comp_apply, Nat.succ_eq_add_one]; congr 1; omega

/-- A chain holds its byte `k` in segment `k / 64` of the chain at offset `k mod 64` (R119, R122). -/
theorem Memory.readChain_eq (m : Memory) (chain : List SegIx) (n : Nat) (h : n ≤ 64 * chain.length) :
    m.readChain chain n = (List.range n).map fun k =>
      m.read (64 * (chain.getD (k / 64) 0).val + k % 64) := by
  induction chain generalizing n with
  | nil =>
    obtain rfl : n = 0 := by simpa using h
    rfl
  | cons seg chain ih =>
    rw [List.length_cons] at h
    rw [Memory.readChain, Memory.readRun_eq, ih _ (by omega)]
    obtain ⟨d, split⟩ : ∃ d, n = min n 64 + d := ⟨n - min n 64, by omega⟩
    have rest : n - 64 = d := by omega
    rw [rest]
    conv_rhs => rw [split, List.range_add, List.map_append, List.map_map]
    congr 1
    · refine List.map_congr_left fun k hk => ?_
      have low : k < 64 := by have := List.mem_range.1 hk; omega
      rw [Nat.div_eq_of_lt low, Nat.mod_eq_of_lt low]
      rfl
    · refine List.map_congr_left fun k hk => ?_
      have full : min n 64 = 64 := by have := List.mem_range.1 hk; omega
      have segment : (64 + k) / 64 = k / 64 + 1 := by omega
      have offset : (64 + k) % 64 = k % 64 := by omega
      rw [Function.comp_apply, full, segment, offset]
      rfl

theorem Memory.readChain_of_replyAccess {s : State} {i : EntryIx} {n : Nat}
    (kind : (s.entry i).kind = .transact) (length : (s.entry i).replyTrueLength = some n) :
    (s.entry i).copyLength = min (s.entry i).replyBufferLength n := by
  rw [Entry.copyLength, kind, length]

/-- A reply copy that ends without error (R148). -/
theorem exec_replyCopyEnd_done {s : State} {w : WriteAccess} (running : s.device.state = .running)
    (copying : s.retire.posting = .copying) (access : s.replyAccess = some w)
    (allowed : s.cfg.mayWrite w.addr w.bytes.length = true) :
    exec (.replyCopyEnd .done) s = .next ((s.placed w.addr w.bytes).beginRecord false) := by
  simp only [exec, execReplyCopyEnd, State.whenRunning_of_eq running, copying, access,
    State.checkedWrite_of_allowed allowed]

/-- A reply copy that ends with an error leaves the bytes written before it (R148). -/
theorem exec_replyCopyEnd_error {s : State} {w : WriteAccess} (running : s.device.state = .running)
    (copying : s.retire.posting = .copying) (access : s.replyAccess = some w)
    (allowed : s.cfg.mayWrite w.addr w.bytes.length = true) (n : Nat) :
    exec (.replyCopyEnd (.error n)) s = .next ((s.placed w.addr (w.bytes.take n)).beginRecord true) := by
  simp only [exec, execReplyCopyEnd, State.whenRunning_of_eq running, copying, access,
    State.checkedWrite_of_allowed allowed]

/-- Settles O18. -/
theorem replyCopyEnds : Obligations.ReplyCopyEnds := by
  refine ⟨Memory.readChain_eq,
    fun s i stamp rest n running copying queue kind trueLength pos allowed length => ?_⟩
  intro reply
  have len : reply.length = min (s.entry i).replyBufferLength n := length
  have access : s.replyAccess = some { addr := (s.entry i).replyBufferAddress, bytes := reply } := by
    simp only [State.replyAccess, queue, Memory.readChain_of_replyAccess kind trueLength]
    rfl
  have allowed : s.cfg.mayWrite (s.entry i).replyBufferAddress reply.length = true := by
    rw [len]; exact allowed
  have bytes : ∀ k, 0 < k → reply.take k ≠ [] := fun k hk e => by
    have := congrArg List.length e
    simp only [List.length_take, len, List.length_nil] at this
    omega
  refine ⟨?_, fun k => ⟨_, exec_replyCopyEnd_error running copying access allowed k, ?_, fun zero => ?_, fun some => ?_⟩,
    rfl⟩
  · rw [exec_replyCopyEnd_done running copying access allowed]
    dsimp only
    rw [State.placed_eq s _ fun e => by simp only [e, List.length_nil] at len; omega]
    rfl
  · dsimp only
    rw [State.placed_frame]
    rfl
  · subst zero
    rfl
  · exact State.placed_busWrites s _ (bytes k some)

end Sys2Proof.Machine

/-! The ends of the record writes: the completion record and the indication record byte for byte, what a
posting frees, and what begins behind it (R147 to R154). -/

namespace Sys2Proof.Machine

/-! ### Fields of records -/

theorem getD_padTo_take {n i : Nat} (bytes : List Byte) (h : i < n) :
    ((padTo n bytes).take n).getD i 0 = bytes.getD i 0 := by
  simp only [padTo, List.getD_eq_getElem?_getD, List.getElem?_take, if_pos h, List.getElem?_append]
  split
  · rfl
  · next past =>
    have zero : (List.replicate (n - bytes.length) (0 : Byte))[i - bytes.length]? = some 0 :=
      List.getElem?_replicate_of_lt (by omega)
    rw [zero, List.getElem?_eq_none (Nat.not_lt.1 past)]
    rfl

/-- A byte behind a first part stands in the second. -/
theorem getD_append_add (a b : List Byte) {n : Nat} (i : Nat) (h : a.length = n) :
    (a ++ b).getD (n + i) 0 = b.getD i 0 := by
  rw [← h, List.getD_append_right _ _ _ _ (Nat.le_add_right _ _), Nat.add_sub_cancel_left]

theorem fieldAt_byte {bytes : List Byte} {offset : Nat} {v : Byte} (h : bytes.getD offset 0 = v) :
    fieldAt bytes offset v := by
  intro i hi
  obtain rfl : i = 0 := by omega
  simpa using h

theorem fieldAt_le16 {bytes : List Byte} {offset : Nat} {v : Half}
    (h0 : bytes.getD offset 0 = v.extractLsb' 0 8) (h1 : bytes.getD (offset + 1) 0 = v.extractLsb' 8 8) :
    fieldAt bytes offset v := by
  intro i hi
  obtain rfl | rfl : i = 0 ∨ i = 1 := by omega
  · exact h0
  · exact h1

theorem fieldAt_le32 {bytes : List Byte} {offset : Nat} {v : Word}
    (h : ∀ i < 4, bytes.getD (offset + i) 0 = (le32 v).getD i 0) : fieldAt bytes offset v := by
  intro i hi
  obtain rfl | rfl | rfl | rfl : i = 0 ∨ i = 1 ∨ i = 2 ∨ i = 3 := by omega
  · exact h 0 (by decide)
  · exact h 1 (by decide)
  · exact h 2 (by decide)
  · exact h 3 (by decide)

theorem byteOf_toNat (n : Nat) : (byteOf n).toNat = n % 256 := BitVec.toNat_ofNat n 8

theorem Status.code_mem (x : Status) : (x, (byteOf x.code).toNat) ∈ statusCodes := by
  cases x <;> decide

theorem Status.code_mem_codes (x : Status) : (x, x.code) ∈ statusCodes := by
  cases x <;> decide

theorem Detail.code_mem (x : Detail) : (x, x.code) ∈ detailCodes := by
  cases x <;> decide

theorem StationState.code_mem (x : StationState) : (x, (byteOf x.code).toNat) ∈ stationStateCodes := by
  cases x <;> decide

theorem Reason.code_mem (x : Reason) : (x, (byteOf x.code).toNat) ∈
    [(Reason.add, 1), (.remove, 2), (.sync, 3), (.retireUncertain, 4), (.failures, 5)] := by
  cases x <;> decide

theorem LineState.code_mem (x : LineState) : (x, (byteOf x.code).toNat) ∈
    [(LineState.stopped, 0), (.running, 1), (.draining, 2), (.stopping, 3), (.faulted, 4)] := by
  cases x <;> decide

theorem FaultCause.code_mem (x : FaultCause) : (x, (byteOf x.code).toNat) ∈
    [(FaultCause.none, 0), (.jabber, 1), (.echo, 2)] := by
  cases x <;> decide

/-- The bits of the flags byte (R90, R150). -/
theorem CompletionFlags.getLsbD_toByte (f : CompletionFlags) (n : Nat) (h : n < 8) :
    f.toByte.getLsbD n = [f.mayHaveExecuted, f.late, f.truncated, f.neverSent, f.wasDeferred,
      f.noAnswerExpected, false, false].getD n false := by
  have bits : ∀ (a b c d e g : Bool) (n : Fin 8),
      (byteOf (bit a + 2 * bit b + 4 * bit c + 8 * bit d + 16 * bit e + 32 * bit g)).getLsbD n
        = [a, b, c, d, e, g, false, false].getD n false := by decide
  exact bits f.mayHaveExecuted f.late f.truncated f.neverSent f.wasDeferred f.noAnswerExpected ⟨n, h⟩

/-- The first 16 bytes of a completion record (R150). -/
def Completion.header (c : Completion) : List Byte :=
  [c.kind, byteOf (ringCode c.ring)] ++ le16 c.tag
    ++ [byteOf c.status.code, byteOf c.detail, c.flags.toByte, byteOf c.attemptsUsed,
        byteOf c.collectsUsed, byteOf c.trueLength, 0, 0]
    ++ le32 c.stamp

theorem Completion.bytes_eq (c : Completion) (phase : Byte) :
    c.bytes phase = c.header ++ ((padTo 12 c.result).take 12 ++ [0, 0, 0, phase]) :=
  List.append_assoc _ _ _

theorem Completion.getD_bytes_header (c : Completion) (phase : Byte) {i : Nat} (h : i < 16) :
    (c.bytes phase).getD i 0 = c.header.getD i 0 := by
  rw [Completion.bytes_eq]
  exact List.getD_append _ _ _ _ h

theorem Completion.getD_bytes_result (c : Completion) (phase : Byte) {i : Nat} (h : i < 12) :
    (c.bytes phase).getD (16 + i) 0 = c.result.getD i 0 := by
  rw [Completion.bytes_eq, getD_append_add _ _ i (by rfl),
    List.getD_append _ _ _ _ (by rw [length_padTo_take]; exact h), getD_padTo_take _ h]

theorem Completion.getD_bytes_end (c : Completion) (phase : Byte) (i : Nat) :
    (c.bytes phase).getD (28 + i) 0 = [0, 0, 0, phase].getD i 0 := by
  rw [Completion.bytes_eq, show 28 + i = 16 + (12 + i) by omega, getD_append_add _ _ _ (by rfl),
    getD_append_add _ _ i (length_padTo_take 12 _)]

theorem Completion.getLast?_bytes (c : Completion) (phase : Byte) : (c.bytes phase).getLast? = some phase := by
  rw [Completion.bytes_eq, List.getLast?_append, List.getLast?_append]
  rfl

/-- The fields of a completion record (R150). -/
theorem Completion.fields (c : Completion) (phase : Byte) :
    let r := c.bytes phase
    let flag := fun n => (r.getD 6 0).getLsbD n
    r.length = 32
    ∧ fieldAt r 0 c.kind
    ∧ numberAt r 1 = ringCode c.ring
    ∧ fieldAt r 2 c.tag ∧ (c.status, numberAt r 4) ∈ statusCodes ∧ numberAt r 5 = c.detail % 256
    ∧ (flag 0 = c.flags.mayHaveExecuted ∧ flag 1 = c.flags.late ∧ flag 2 = c.flags.truncated
      ∧ flag 3 = c.flags.neverSent ∧ flag 4 = c.flags.wasDeferred ∧ flag 5 = c.flags.noAnswerExpected
      ∧ flag 6 = false ∧ flag 7 = false)
    ∧ numberAt r 7 = c.attemptsUsed % 256 ∧ numberAt r 8 = c.collectsUsed % 256
    ∧ numberAt r 9 = c.trueLength % 256 ∧ fieldAt r 12 c.stamp
    ∧ (∀ i, i < 12 → r.getD (16 + i) 0 = c.result.getD i 0)
    ∧ (∀ i ∈ [10, 11, 28, 29, 30], r.getD i 0 = 0) ∧ fieldAt r 31 phase := by
  intro r flag
  have head : ∀ {i}, i < 16 → r.getD i 0 = c.header.getD i 0 := c.getD_bytes_header phase
  have number : ∀ {i}, i < 16 → numberAt r i = (c.header.getD i 0).toNat := fun h =>
    congrArg BitVec.toNat (head h)
  have flags : ∀ n < 8, flag n = _ := fun n h =>
    (congrArg (BitVec.getLsbD · n) (head (i := 6) (by decide))).trans (c.flags.getLsbD_toByte n h)
  refine ⟨c.length_bytes phase, fieldAt_byte (head (by decide)), ?_,
    fieldAt_le16 (head (by decide)) (head (by decide)), ?_, ?_,
    ⟨flags 0 (by decide), flags 1 (by decide), flags 2 (by decide), flags 3 (by decide), flags 4 (by decide),
      flags 5 (by decide), flags 6 (by decide), flags 7 (by decide)⟩,
    (number (by decide)).trans (byteOf_toNat _), (number (by decide)).trans (byteOf_toNat _),
    (number (by decide)).trans (byteOf_toNat _), fieldAt_le32 fun i hi => ?_,
    fun i hi => c.getD_bytes_result phase hi, fun i hi => ?_, fieldAt_byte (c.getD_bytes_end phase 3)⟩
  · refine (number (by decide)).trans ((byteOf_toNat _).trans ?_)
    cases c.ring <;> rfl
  · rw [number (by decide)]
    exact c.status.code_mem
  · exact (number (by decide)).trans (byteOf_toNat _)
  · rw [head (by omega)]
    exact getD_append_add _ _ i (by rfl)
  · simp only [List.mem_cons, List.not_mem_nil, or_false] at hi
    rcases hi with rfl | rfl | rfl | rfl | rfl
    · exact head (by decide)
    · exact head (by decide)
    · exact c.getD_bytes_end phase 0
    · exact c.getD_bytes_end phase 1
    · exact c.getD_bytes_end phase 2

/-! ### Indication records -/

/-- The first 15 bytes of an indication record (R154). -/
def Indication.header (x : Indication) : List Byte :=
  [x.body.code, byteOf x.line.val] ++ le16 (BitVec.ofNat 16 x.lost) ++ le32 x.stamp ++ x.body.fields

theorem Indication.length_header (x : Indication) : x.header.length = 15 := by
  simp only [Indication.header, List.length_append, IndicationBody.length_fields, le16, le32, List.length_cons,
    List.length_nil]

theorem Indication.bytes_eq (x : Indication) (phase : Byte) :
    x.bytes phase = x.header ++ ((padTo 48 x.body.payload).take 48 ++ [phase]) :=
  List.append_assoc _ _ _

theorem Indication.getD_bytes_header (x : Indication) (phase : Byte) {i : Nat} (h : i < 15) :
    (x.bytes phase).getD i 0 = x.header.getD i 0 := by
  rw [Indication.bytes_eq]
  exact List.getD_append _ _ _ _ (by rw [x.length_header]; exact h)

/-- Bytes 8 to 14 are the body's. -/
theorem Indication.getD_bytes_fields (x : Indication) (phase : Byte) {i : Nat} (h : i < 7) :
    (x.bytes phase).getD (8 + i) 0 = x.body.fields.getD i 0 := by
  rw [x.getD_bytes_header phase (by omega), Indication.header]
  exact getD_append_add _ _ i (by rfl)

theorem Indication.getD_bytes_payload (x : Indication) (phase : Byte) {i : Nat} (h : i < 48) :
    (x.bytes phase).getD (15 + i) 0 = x.body.payload.getD i 0 := by
  rw [Indication.bytes_eq, getD_append_add _ _ i x.length_header,
    List.getD_append _ _ _ _ (by rw [length_padTo_take]; exact h), getD_padTo_take _ h]

theorem Indication.getD_bytes_end (x : Indication) (phase : Byte) : (x.bytes phase).getD 63 0 = phase := by
  rw [Indication.bytes_eq, show 63 = 15 + 48 by rfl, getD_append_add _ _ _ x.length_header,
    show 48 = 48 + 0 by rfl, getD_append_add _ _ _ (length_padTo_take 48 _)]
  rfl

theorem Indication.getLast?_bytes (x : Indication) (phase : Byte) : (x.bytes phase).getLast? = some phase := by
  rw [Indication.bytes_eq, List.getLast?_append, List.getLast?_append]
  rfl

theorem number16At_le16 {bytes : List Byte} {offset : Nat} {n : Nat}
    (h : ∀ i < 2, bytes.getD (offset + i) 0 = (le16 (BitVec.ofNat 16 n)).getD i 0) :
    number16At bytes offset = n % 65536 := by
  have low : numberAt bytes offset = n % 256 := by
    rw [← byteOf_toNat, numberAt, ← Nat.add_zero offset, h 0 (by decide), le16_ofNat]
    rfl
  have high : numberAt bytes (offset + 1) = n / 256 % 256 := by
    rw [← byteOf_toNat, numberAt, h 1 (by decide), le16_ofNat]
    rfl
  rw [number16At, low, high]
  omega

/-- The fields of an indication record that every kind has (R154). -/
theorem Indication.fields (x : Indication) (phase : Byte) :
    let r := x.bytes phase
    r.length = 64 ∧ numberAt r 1 = x.line.val ∧ number16At r 2 = x.lost % 65536 ∧ fieldAt r 4 x.stamp
    ∧ numberAt r 14 = 0 ∧ fieldAt r 63 phase := by
  intro r
  have head : ∀ {i}, i < 15 → r.getD i 0 = x.header.getD i 0 := x.getD_bytes_header phase
  refine ⟨x.length_bytes phase, ?_, number16At_le16 fun i hi => ?_, fieldAt_le32 fun i hi => ?_, ?_,
    fieldAt_byte (x.getD_bytes_end phase)⟩
  · refine (congrArg BitVec.toNat (head (by decide))).trans ((byteOf_toNat _).trans (Nat.mod_eq_of_lt ?_))
    exact Nat.lt_trans x.line.isLt (by decide)
  · rw [head (by omega)]
    obtain rfl | rfl : i = 0 ∨ i = 1 := by omega
    · rfl
    · rfl
  · rw [head (by omega)]
    obtain rfl | rfl | rfl | rfl : i = 0 ∨ i = 1 ∨ i = 2 ∨ i = 3 := by omega
    · rfl
    · rfl
    · rfl
    · rfl
  · rw [numberAt, show 14 = 8 + 6 by rfl, x.getD_bytes_fields phase (by decide)]
    cases x.body <;> rfl

/-! ### What a posting frees -/

/-- A return, or several, reaches the holds of the rings alone (R130). -/
structure State.ReturnsOnly (s t : State) : Prop where
  host : s.SameHost t
  work : s.SameWork t
  ind : t.ind = s.ind
  retire : t.retire = s.retire
  stage : t.admission.stage = s.admission.stage
  credit : t.admission.credit = s.admission.credit
  counter : t.admission.counter = s.admission.counter
  places : t.admission.places = s.admission.places
  asked : t.admission.asked = s.admission.asked

theorem State.ReturnsOnly.trans {s t u : State} (h : s.ReturnsOnly t) (k : t.ReturnsOnly u) :
    s.ReturnsOnly u :=
  ⟨h.host.trans k.host, h.work.trans k.work, k.ind.trans h.ind, k.retire.trans h.retire, k.stage.trans h.stage,
    k.credit.trans h.credit, k.counter.trans h.counter, k.places.trans h.places, k.asked.trans h.asked⟩

theorem State.returned_only (s : State) (x : Resource) : s.ReturnsOnly (s.returned x) :=
  ⟨s.returned_sameHost x, ⟨rfl, rfl, rfl, rfl⟩, rfl, rfl, rfl, rfl, rfl, rfl, s.returned_asked x⟩

theorem State.returnedEntry_only (s : State) (held : Bool) : s.ReturnsOnly (s.returnedEntry held) := by
  unfold State.returnedEntry
  cases held
  · exact s.returned_only .entry
  · exact (s.returned_only .entry).trans (State.returned_only _ .segments)

/-- What an item held is freed, before the holds that wait for it are told (R149, step 3). -/
def State.freedOf (s : State) : RetireItem → State
  | .entry i => s.freeEntryAt i
  | .immediate p => s.setPlace p none
  | .lineControl l => s.modLine l fun ln => { ln with control := .empty }

theorem State.freeItem_only (s : State) (item : RetireItem) : (s.freedOf item).ReturnsOnly (s.freeItem item) := by
  cases item with
  | entry i => exact State.returnedEntry_only _ _
  | immediate p => exact State.returned_only _ _
  | lineControl l => exact State.returned_only _ _

theorem State.holdsSegments_freedBy (s : State) (i : EntryIx) :
    Resource.entry :: (if (s.entry i).holdsSegments then [Resource.segments] else [])
      = s.freedBy (.entry i) := by
  cases request : (s.entry i).requestChain <;> cases reply : (s.entry i).replyReservation <;>
    simp [State.freedBy, Entry.holdsSegments, request, reply]

/-- What an item frees returns to the holds that wait for it (R130, R149). -/
theorem State.freeItem_to (s : State) (item : RetireItem) (r : Ring) :
    s.ReturnedTo (s.freeItem item) (s.freedBy item) r := by
  cases item with
  | entry i =>
    have told := (s.freeEntryAt i).returnedEntry_to (s.entry i).holdsSegments r
    rw [State.holdsSegments_freedBy] at told
    exact State.ReturnedTo.congr (s := s.freeEntryAt i) told rfl rfl
  | immediate p => exact ((s.setPlace p none).returned_to .immediatePlace r).congr (by simp) rfl
  | lineControl l =>
    exact ((s.modLine l fun ln => { ln with control := .empty }).returned_to (.controlPlace l) r).congr rfl rfl

/-- What an item held is no part of the stage, the credit, the counter, the accesses or the rings' indices. -/
theorem State.freedOf_frame (s : State) (item : RetireItem) :
    (s.freedOf item).stations = s.stations ∧ (s.freedOf item).ind = s.ind
    ∧ (s.freedOf item).retire = s.retire ∧ (s.freedOf item).admission.stage = s.admission.stage
    ∧ (s.freedOf item).admission.credit = s.admission.credit
    ∧ (s.freedOf item).admission.counter = s.admission.counter
    ∧ (s.freedOf item).admission.asked = s.admission.asked := by
  cases item <;> exact ⟨rfl, rfl, rfl, rfl, rfl, rfl, rfl⟩

section
variable {s : State}

/-- A record that was posted is counted, and its item leaves the queue and frees what it held (R149). -/
theorem State.posted_frame (s : State) (q : QueuedItem) :
    (s.posted q).stations = s.stations ∧ (s.posted q).ind = s.ind
    ∧ (s.posted q).retire = { queue := s.retire.queue.tail, posting := .idle }
    ∧ (s.posted q).admission.stage = s.admission.stage
    ∧ (s.posted q).admission.credit = s.admission.credit
    ∧ (s.posted q).admission.counter = s.admission.counter
    ∧ (s.posted q).admission.asked = s.admission.asked := by
  obtain ⟨stations, ind, retire, stage, credit, counter, asked⟩ :=
    State.freedOf_frame (s.countPosted .completion) q.item
  have returns := State.freeItem_only (s.countPosted .completion) q.item
  refine ⟨returns.work.stations.trans stations, returns.ind.trans ind, ?_, returns.stage.trans stage,
    returns.credit.trans credit, returns.counter.trans counter, returns.asked.trans asked⟩
  have queue : ((s.countPosted .completion).freeItem q.item).retire = s.retire := returns.retire.trans retire
  exact congrArg (fun u : RetireUnit => ({ queue := u.queue.tail, posting := .idle } : RetireUnit)) queue

theorem State.posted_work (s : State) (q : QueuedItem) :
    (s.freedOf q.item).SameWork (s.posted q) := by
  obtain ⟨lines, stations, entries, store⟩ := (State.freeItem_only (s.countPosted .completion) q.item).work
  cases q with
  | mk item stamp => cases item <;> exact ⟨lines, stations, entries, store⟩

theorem State.posted_places (s : State) (q : QueuedItem) :
    (s.posted q).admission.places = (s.freedOf q.item).admission.places := by
  have places := (State.freeItem_only (s.countPosted .completion) q.item).places
  cases q with
  | mk item stamp => cases item <;> exact places

theorem State.posted_to (s : State) (q : QueuedItem) (r : Ring) :
    s.ReturnedTo (s.posted q) (s.freedBy q.item) r := by
  have told := State.freeItem_to (s.countPosted .completion) q.item r
  have same : (s.countPosted .completion).freedBy q.item = s.freedBy q.item := by
    cases q with
    | mk item stamp => cases item <;> rfl
  rw [same] at told
  exact told.congr rfl rfl

end

/-- The values of an entry's completion (R90, R91, R99, R148, R150). -/
theorem Entry.completion_values {e : Entry} {x : Final} (fixed : e.final = some x) (stamp : Word) (f : Bool) :
    let c := e.completion stamp f
    c.kind = e.kind.code ∧ c.ring = e.ring ∧ c.tag = e.tag ∧ c.flags = x.flags
    ∧ c.attemptsUsed = e.attemptsUsed ∧ c.collectsUsed = e.collectsUsed
    ∧ c.trueLength = e.replyTrueLength.getD 0 ∧ c.stamp = stamp
    ∧ (f = false → c.status = x.status ∧ (e.lastEnding, c.detail) ∈ detailCodes)
    ∧ (f = true → c.status = .hostWriteError ∧ (x.status, c.detail) ∈ statusCodes)
    ∧ c.result =
      if e.kind = .fence ∧ x.status = .ok then
        le16 (BitVec.ofNat 16 e.waitPlaced) ++ le16 (BitVec.ofNat 16 e.notOkCount)
          ++ [0, 0, 0, 0, 0, 0, 0, 0]
      else List.replicate 12 0 := by
  have final : e.finalD = x := by rw [Entry.finalD, fixed]; rfl
  refine ⟨rfl, rfl, rfl, congrArg Final.flags final, rfl, rfl, rfl, rfl, fun ok => ?_, fun failed => ?_, ?_⟩
  · subst ok
    exact ⟨congrArg Final.status final, e.lastEnding.code_mem⟩
  · subst failed
    refine ⟨rfl, ?_⟩
    rw [← final]
    exact e.finalD.status.code_mem_codes
  · show e.result e.finalD.status = _
    rw [final, Entry.result]
    simp only [Bool.and_eq_true, beq_iff_eq]
    rfl

/-- Settles O19. -/
theorem completionWriteEnds : Obligations.CompletionWriteEnds := by
  refine ⟨fun c phase => ?_, fun s stamp f => ⟨fun i x fixed => ?_, fun p m held => ?_,
    fun l op tag ring status control => ?_⟩, fun s f q rest running writing queue => ?_⟩
  · obtain ⟨length, kind, ring, others⟩ := c.fields phase
    refine ⟨length, kind, ring.trans ?_, others⟩
    cases c.ring <;> rfl
  · obtain ⟨kind, others⟩ := Entry.completion_values fixed stamp f
    refine ⟨kind.trans ?_, others⟩
    cases (s.entry i).kind <;> rfl
  · simp only [State.completionOf, held]
    rfl
  · simp only [State.completionOf, control]
    rfl
  · intro size slot allowed
    let w := s.completionWrite q f
    have allowedWrite : s.cfg.mayWrite w.addr w.bytes.length = true := by
      rw [State.length_completionWrite]
      exact allowed
    have some : w.bytes ≠ [] := fun e => by
      have length := s.length_completionWrite q f
      rw [show (s.completionWrite q f).bytes = [] from e] at length
      cases length
    let v := { s with busWrites := { addr := slot, bytes := w.bytes } :: s.busWrites }
    have placed : s.placed w.addr w.bytes = v := State.placed_eq s _ some
    have host : (v.countPosted .completion).SameHost (v.posted q).wake :=
      (v.countPosted_sameHost_posted q).trans (v.posted q).wake_sameHost
    have deviceStays : (v.posted q).device = s.device := (v.countPosted_sameHost_posted q).device
    have indRing : (v.posted q).indRing = s.indRing := (v.countPosted_sameHost_posted q).indRing
    have runs : (v.posted q).device.state = .running := (congrArg _ deviceStays).trans running
    obtain ⟨stations, ind, retire, stage, credit, counter, asked⟩ := v.posted_frame q
    have work := (v.posted_work q).trans (v.posted q).wake_sameWork
    have places : (v.posted q).wake.admission.places = (v.freedOf q.item).admission.places :=
      (State.wake_places _).trans (v.posted_places q)
    refine ⟨(v.posted q).wake, w.bytes, ?_, rfl, s.length_completionWrite q f, Completion.getLast?_bytes _ _,
      host.busWrites, host.cplRing, ?_, fun i entry => ?_, fun p place => ?_, fun l line => ?_,
      fun r => ((v.posted_to q r).congr rfl (State.wake_ringUnit _ r)),
      (State.wake_stations _).trans stations, host.time, host.device, host.indRing,
      (State.wake_counter _).trans counter, (State.wake_credit _).trans credit,
      (State.wake_asked _).trans asked, State.stageAfter_wake stage runs, ?_,
      (State.wake_ind _).trans (State.beginIndication_congr ind deviceStays indRing)⟩
    · rw [exec_completionRecordWriteEnd_done running writing queue (State.completionAccess_of_head queue f)
        (State.checkedWrite_of_allowed allowedWrite)]
      exact congrArg (fun u : State => Host.Outcome.next (u.posted q).wake) placed
    · rw [State.wake_queue, retire]
      exact congrArg List.tail queue
    · rw [entry] at work places
      have entries : ∀ j, (v.posted q).wake.entry j = (v.freeEntryAt i).entry j := fun j =>
        congrArg (Table.get · j) work.entries
      exact ⟨work.store, (entries i).trans (Table.get_set_self _ _ _),
        fun j other => (entries j).trans (Table.get_set_ne _ _ other.symm), work.lines, places⟩
    · rw [place] at work places
      exact ⟨places, work.lines, work.stations, work.entries, work.store⟩
    · rw [line] at work places
      have lines : ∀ m, (v.posted q).wake.line m = (v.modLine l fun ln => { ln with control := .empty }).line m :=
        fun m => congrArg (Table.get · m) work.lines
      exact ⟨(lines l).trans (State.line_modLine_self _ _ _), fun m other =>
        (lines m).trans ((State.line_modLine _ _ _ _).trans (if_neg other.symm)),
        work.entries, work.store, places⟩
    · exact State.wake_postingBegun runs (congrArg RetireUnit.posting retire)

/-! ### The Indication Unit -/

section
variable {s : State}

/-- The Indication Unit when it has begun what it may begin: the write of the head record, which takes the lost
count (R153). -/
def State.begunUnit (s : State) (unit : IndicationUnit) : IndicationUnit :=
  match unit.queue with
  | [] => unit
  | x :: rest =>
    if unit.writing = false ∧ s.unseen .indication < s.cfg.indicationRing.size then
      { queue := { x with lost := unit.lost } :: rest, lost := 0, writing := true }
    else unit

theorem State.beginIndication_eq_begun (running : s.device.state = .running) :
    s.beginIndication = { s with ind := s.begunUnit s.ind } := by
  have ind : s.beginIndication.ind = s.begunUnit s.ind := State.beginIndication_ind running
  rw [← ind]
  exact State.beginIndication_eq s

/-- An indication given with fewer than 8 queued joins the queue, and an idle unit begins to write it (R152). -/
theorem State.indicate_of_room (running : s.device.state = .running) (l : Line) (body : IndicationBody)
    (room : (s.begunUnit s.ind).queue.length < 8) :
    s.indicate l body = { s with
      ind := s.begunUnit { s.begunUnit s.ind with
        queue := (s.begunUnit s.ind).queue ++ [{ line := l, stamp := s.time.now, lost := 0, body := body }] } } := by
  rw [State.indicate, State.beginIndication_eq_begun running, State.takeIndication, if_pos room]
  exact State.beginIndication_eq_begun running

/-- With 8 queued it is dropped and counted (R152). -/
theorem State.indicate_of_full (running : s.device.state = .running) (l : Line) (body : IndicationBody)
    (full : 8 ≤ (s.begunUnit s.ind).queue.length) (lost : (s.begunUnit s.ind).lost ≤ 65535) :
    s.indicate l body = { s with
      ind := { s.begunUnit s.ind with lost := min 65535 ((s.begunUnit s.ind).lost + 1) } } := by
  have count : saturate16 (s.begunUnit s.ind).lost = min 65535 ((s.begunUnit s.ind).lost + 1) := by
    unfold saturate16
    split <;> omega
  rw [← count, State.indicate, State.beginIndication_eq_begun running, State.takeIndication,
    if_neg (Nat.not_lt.2 full)]

/-- A posted indication is counted and leaves the queue (R153). -/
theorem State.indicationWritten_frame (s : State) :
    s.SameWork s.indicationWritten ∧ s.SameAdmission s.indicationWritten
    ∧ s.indicationWritten.ind = { s.ind with queue := s.ind.queue.tail, writing := false }
    ∧ s.indicationWritten.indRing = { s.indRing with posted := s.indRing.posted + 1 }
    ∧ s.indicationWritten.cplRing = s.cplRing ∧ s.indicationWritten.time = s.time
    ∧ s.indicationWritten.device = s.device ∧ s.indicationWritten.retire = s.retire
    ∧ s.indicationWritten.busWrites = s.busWrites
    ∧ s.indicationWritten.notify.completion = s.notify.completion :=
  ⟨⟨rfl, rfl, rfl, rfl⟩, ⟨fun _ => rfl, rfl, rfl, rfl, rfl, fun _ h => h⟩, rfl, rfl, rfl, rfl, rfl, rfl, rfl, rfl⟩

end

/-- The fields of an indication record that its body gives (R154). -/
theorem Indication.body_fields (x : Indication) (phase : Byte) :
    let r := x.bytes phase
    (∀ i, i < 48 → r.getD (15 + i) 0 = x.body.payload.getD i 0)
    ∧ match x.body with
      | .event station number length _ =>
        numberAt r 0 = 1 ∧ numberAt r 8 = station % 256 ∧ numberAt r 9 = number % 256
          ∧ numberAt r 10 = length % 256 ∧ numberAt r 11 = (if 48 < length then 1 else 0)
          ∧ number16At r 12 = 0
      | .stray addr kind length late _ =>
        numberAt r 0 = 2 ∧ fieldAt r 8 addr ∧ numberAt r 9 = kind % 256 ∧ numberAt r 10 = length % 256
          ∧ numberAt r 11 = (if 48 < length then 1 else 0) + (if late then 2 else 0)
          ∧ number16At r 12 = 0
      | .stationState station old new reason word =>
        numberAt r 0 = 3 ∧ numberAt r 8 = station % 256 ∧ (old, numberAt r 9) ∈ stationStateCodes
          ∧ (new, numberAt r 10) ∈ stationStateCodes
          ∧ (reason, numberAt r 11) ∈
            [(Reason.add, 1), (.remove, 2), (.sync, 3), (.retireUncertain, 4), (.failures, 5)]
          ∧ fieldAt r 12 word
      | .mark number start => numberAt r 0 = 4 ∧ fieldAt r 8 start ∧ fieldAt r 12 number
      | .lineState state cause =>
        numberAt r 0 = 5
          ∧ (state, numberAt r 8) ∈
            [(LineState.stopped, 0), (.running, 1), (.draining, 2), (.stopping, 3), (.faulted, 4)]
          ∧ (cause, numberAt r 9) ∈ [(FaultCause.none, 0), (.jabber, 1), (.echo, 2)]
          ∧ number16At r 10 = 0 ∧ number16At r 12 = 0 := by
  intro r
  have code : r.getD 0 0 = x.body.code := x.getD_bytes_header phase (by decide)
  have field : ∀ i < 7, r.getD (8 + i) 0 = x.body.fields.getD i 0 := fun i h => x.getD_bytes_fields phase h
  have number : ∀ i < 7, numberAt r (8 + i) = (x.body.fields.getD i 0).toNat := fun i h =>
    congrArg BitVec.toNat (field i h)
  have zero : ∀ i, i + 1 < 7 → x.body.fields.getD i 0 = 0 → x.body.fields.getD (i + 1) 0 = 0 →
      number16At r (8 + i) = 0 := fun i h low high => by
    rw [number16At, number i (by omega), low, Nat.add_assoc 8 i 1, number (i + 1) h, high]
    rfl
  refine ⟨fun i hi => x.getD_bytes_payload phase hi, ?_⟩
  have kind : numberAt r 0 = x.body.code.toNat := congrArg BitVec.toNat code
  have n0 := number 0 (by decide)
  have n1 := number 1 (by decide)
  have n2 := number 2 (by decide)
  have n3 := number 3 (by decide)
  cases body : x.body with
  | event station item length payload =>
    rw [body] at kind n0 n1 n2 n3 zero
    refine ⟨kind, n0.trans (byteOf_toNat _), n1.trans (byteOf_toNat _), n2.trans (byteOf_toNat _), n3.trans ?_,
      zero 4 (by decide) rfl rfl⟩
    by_cases long : 48 < length <;> simp [IndicationBody.fields, byteOf, bit, long]
  | stray addr k length late payload =>
    rw [body] at kind n1 n2 n3 zero field
    refine ⟨kind, fieldAt_byte (field 0 (by decide)), n1.trans (byteOf_toNat _), n2.trans (byteOf_toNat _),
      n3.trans ?_, zero 4 (by decide) rfl rfl⟩
    by_cases long : 48 < length <;> cases late <;> simp [IndicationBody.fields, byteOf, bit, long]
  | stationState station old new reason word =>
    rw [body] at kind n0 n1 n2 n3 field
    refine ⟨kind, n0.trans (byteOf_toNat _), ?_, ?_, ?_, fieldAt_le16 (field 4 (by decide)) (field 5 (by decide))⟩
    · rw [n1]
      exact old.code_mem
    · rw [n2]
      exact new.code_mem
    · rw [n3]
      exact reason.code_mem
  | mark item start =>
    rw [body] at kind field
    refine ⟨kind, fieldAt_le32 fun i hi => (field i (by omega)).trans ?_,
      fieldAt_le16 (field 4 (by decide)) (field 5 (by decide))⟩
    exact List.getD_append (le32 start) (le16 item ++ [0]) 0 i hi
  | lineState state cause =>
    rw [body] at kind n0 n1 zero
    refine ⟨kind, ?_, ?_, zero 2 (by decide) rfl rfl, zero 4 (by decide) rfl rfl⟩
    · rw [n0]
      exact state.code_mem
    · rw [n1]
      exact cause.code_mem

/-- Settles O20. -/
theorem indicationWriteEnds : Obligations.IndicationWriteEnds := by
  refine ⟨fun s l body running => ⟨State.beginIndication_eq_begun running, State.indicate_of_room running l body,
    State.indicate_of_full running l body⟩, fun x phase => ?_, fun s x rest running writing queue => ?_⟩
  · obtain ⟨length, line, lost, stamp, pad, last⟩ := x.fields phase
    obtain ⟨payload, body⟩ := x.body_fields phase
    refine ⟨length, line, lost, stamp, pad, last, fun i hi => (payload i hi).trans ?_, body⟩
    cases x.body <;> rfl
  · intro size slot unseen allowed
    let w := s.indicationWrite x
    have allowedWrite : s.cfg.mayWrite w.addr w.bytes.length = true := by
      rw [State.length_indicationWrite]
      exact allowed
    have some : w.bytes ≠ [] := fun e => by
      have length := s.length_indicationWrite x
      rw [show (s.indicationWrite x).bytes = [] from e] at length
      cases length
    let v := { s with busWrites := { addr := slot, bytes := w.bytes } :: s.busWrites }
    have placed : s.placed w.addr w.bytes = v := State.placed_eq s _ some
    obtain ⟨work, admission, ind, indRing, cplRing, time, device, retire, writes, completion⟩ :=
      v.indicationWritten_frame
    have runs : v.indicationWritten.device.state = .running := running
    have begins : s.Begins v.indicationWritten.wake := State.begins_wake rfl rfl runs
    refine ⟨v.indicationWritten.wake, w.bytes, ?_, rfl, s.length_indicationWrite x, Indication.getLast?_bytes _ _,
      (State.wake_busWrites _).trans writes, (State.wake_indRing _).trans indRing, ?_,
      State.SameWork.trans (s := s) (t := v.indicationWritten) ⟨rfl, rfl, rfl, rfl⟩ (State.wake_sameWork _), ?_,
      (State.wake_cplRing _).trans cplRing, (State.wake_time _).trans time, (State.wake_device _).trans device,
      (State.wake_queue _).trans (congrArg RetireUnit.queue retire), begins,
      (congrArg Notification.completion (State.wake_notify _)).trans completion⟩
    · rw [exec_indicationWriteEnd_done running writing (State.indicationAccess_of_head queue)
        (State.checkedWrite_of_allowed allowedWrite)]
      exact congrArg (fun u : State => Host.Outcome.next u.indicationWritten.wake) placed
    · rw [State.wake_ind, State.beginIndication_ind runs, ind]
      have tail : v.ind.queue.tail = rest := congrArg List.tail queue
      rw [tail]
      cases rest with
      | nil => rfl
      | cons y ys => simp only [true_and]; rfl
    · exact State.SameAdmission.trans (t := v.indicationWritten) ⟨fun _ => rfl, rfl, rfl, rfl, rfl, fun _ h => h⟩
        (State.wake_sameAdmission _)

end Sys2Proof.Machine

/-! Submission records at application: their fields and shapes, the checks of a TRANSACT, the rejections, and the
records that are set aside (R129 to R135, R170). -/

namespace Sys2Proof.Machine

/-! ### Checks 1 to 6 -/

section
variable {b : List Byte}

theorem lineOk_iff : lineOk b = true ↔ recLineNumber b ≤ 3 := decide_eq_true_iff

theorem stationOk_iff : stationOk b = true ↔ 1 ≤ recStationNumber b ∧ recStationNumber b ≤ 31 := by
  simp only [stationOk, Bool.and_eq_true, decide_eq_true_eq]

theorem shapeOk_transact_iff (hk : recKind b = 1) : shapeOk b = true ↔ TransactShape b := by
  simp only [shapeOk, hk, Bool.and_eq_true, lineOk_iff, stationOk_iff, decide_eq_true_eq, TransactShape,
    and_assoc]

theorem shapeOk_abort_iff (hk : recKind b = 2) :
    shapeOk b = true ↔ recTargetRingNumber b ≤ 1 ∧ zeroFieldsOk b = true := by
  simp only [shapeOk, hk, Bool.and_eq_true, decide_eq_true_eq]

theorem shapeOk_fence_iff (hk : recKind b = 3) :
    shapeOk b = true ↔ recLineNumber b ≤ 3 ∧ zeroFieldsOk b = true := by
  simp only [shapeOk, hk, Bool.and_eq_true, lineOk_iff]

theorem shapeOk_lineControl_iff (hk : recKind b = 4) :
    shapeOk b = true ↔ recLineNumber b ≤ 3 ∧ (1 ≤ recOp b ∧ recOp b ≤ 6) ∧ zeroFieldsOk b = true := by
  simp only [shapeOk, hk, Bool.and_eq_true, lineOk_iff, decide_eq_true_eq, and_assoc]

theorem shapeOk_stationControl_iff (hk : recKind b = 5) :
    shapeOk b = true ↔ recLineNumber b ≤ 3 ∧ (1 ≤ recStationNumber b ∧ recStationNumber b ≤ 31)
      ∧ (1 ≤ recOp b ∧ recOp b ≤ 3) ∧ zeroFieldsOk b = true := by
  simp only [shapeOk, hk, Bool.and_eq_true, lineOk_iff, stationOk_iff, decide_eq_true_eq, and_assoc]

theorem shapeOk_timeRead_iff (hk : recKind b = 6) : shapeOk b = true ↔ zeroFieldsOk b = true := by
  simp only [shapeOk, hk]

theorem shapeOk_unknown (hk : recKind b = 0 ∨ 7 ≤ recKind b) : shapeOk b = false := by
  unfold shapeOk
  split <;> first | rfl | omega

end

/-- The offsets at which a record of kind `kind` has a field of whole bytes (R170). -/
def usedOffset (kind op offset : Nat) : Prop :=
  offset = 0 ∨ offset = 2 ∨ offset = 3
  ∨ (kind = 1 ∧ (offset = 1 ∨ offset = 4 ∨ (7 ≤ offset ∧ offset ≤ 13) ∨ (24 ≤ offset ∧ offset ≤ 39)))
  ∨ (kind = 2 ∧ (offset = 14 ∨ offset = 16 ∨ offset = 17))
  ∨ (kind = 3 ∧ offset = 1)
  ∨ (kind = 4 ∧ (offset = 1 ∨ offset = 5 ∨ (op = 4 ∧ 40 ≤ offset ∧ offset ≤ 61)))
  ∨ (kind = 5 ∧ (offset = 1 ∨ offset = 4 ∨ offset = 5))

theorem usedBits_of_used {kind op offset : Nat} (h : usedOffset kind op offset) :
    usedBits kind op offset = 0xFF := by
  unfold usedOffset at h
  unfold usedBits
  split
  · rfl
  · split
    · rw [if_neg (by omega), if_pos (by omega)]
    · exact if_pos (by omega)
    · exact if_pos (by omega)
    · exact if_pos (by omega)
    · exact if_pos (by omega)
    · exact absurd h (by tauto)

/-- Beside them a TRANSACT has DEFER_OK, one bit of byte 6, and no record has anything else. -/
theorem usedBits_of_not_used {kind op offset : Nat} (h : ¬ usedOffset kind op offset) :
    usedBits kind op offset = if kind = 1 ∧ offset = 6 then 1 else 0 := by
  unfold usedOffset at h
  unfold usedBits
  rw [if_neg (by omega)]
  split
  · by_cases six : offset = 6
    · simp [six]
    · rw [if_neg six, if_neg (by omega), if_neg (by omega)]
  · rw [if_neg (by omega), if_neg (by omega)]
  · rw [if_neg (by omega), if_neg (by omega)]
  · rw [if_neg (by omega), if_neg (by omega)]
  · rw [if_neg (by omega), if_neg (by omega)]
  · next notTransact _ _ _ _ => rw [if_neg fun one => notTransact one.1]

theorem and_not_one_eq_zero_iff : ∀ x : Byte, x &&& ~~~1 = 0 ↔ x.toNat ≤ 1 := by decide

/-- Check 6 (R131, R170). -/
theorem zeroFieldsOk_iff (b : List Byte) :
    zeroFieldsOk b = true ↔ ∀ i, i < 64 → ¬ usedOffset (recKind b) (recOp b) i →
      b.getD i 0 = 0 ∨ (recKind b = 1 ∧ i = 6 ∧ numberAt b 6 ≤ 1) := by
  simp only [zeroFieldsOk, List.all_eq_true, List.mem_range, beq_iff_eq]
  refine forall_congr' fun i => imp_congr_right fun _ => ?_
  by_cases used : usedOffset (recKind b) (recOp b) i
  · simp [usedBits_of_used used, used]
  · rw [usedBits_of_not_used used]
    split
    · next defer =>
      obtain ⟨kind, rfl⟩ := defer
      rw [and_not_one_eq_zero_iff]
      refine ⟨fun low _ => Or.inr ⟨kind, rfl, low⟩, fun h => (h used).elim (fun zero => ?_) fun low => low.2.2⟩
      rw [byteAt, zero]
      decide
    · next other =>
      show byteAt b i &&& BitVec.allOnes 8 = 0 ↔ _
      rw [BitVec.and_allOnes]
      exact ⟨fun zero _ => Or.inl zero, fun h => (h used).elim id fun defer => absurd ⟨defer.1, defer.2.1⟩ other⟩

/-! ### The checks of a TRANSACT -/

section
variable {s : State} {b : List Byte}

theorem recStation_val (h : 1 ≤ recStationNumber b ∧ recStationNumber b ≤ 31) :
    (recStation b).val + 1 = recStationNumber b := by
  have : (recStation b).val = (recStationNumber b - 1) % 31 := rfl
  omega

theorem recStation_eq_broadcast_iff (h : 1 ≤ recStationNumber b ∧ recStationNumber b ≤ 31) :
    recStation b = broadcastStation ↔ recStationNumber b = 31 := by
  have val := recStation_val h
  have thirty : broadcastStation.val = 30 := rfl
  rw [Fin.ext_iff, thirty]
  omega

theorem State.rangesOk_iff (h : TransactShape b) : s.rangesOk b = true ↔ s.TransactRanges b := by
  obtain ⟨-, station, -⟩ := h
  simp only [State.rangesOk, Bool.and_eq_true, Bool.or_eq_true, beq_iff_eq, recStation_eq_broadcast_iff station,
    State.TransactRanges, or_assoc]

theorem State.findTag_eq_some {r : Ring} {tag : Half} {i : EntryIx} (h : s.findTag r tag = some i) :
    (s.entry i).state ≠ .free ∧ (s.entry i).ring = r ∧ (s.entry i).tag = tag := by
  have found := List.find?_some h
  simpa [and_assoc] using found

theorem State.findTag_isSome_iff {r : Ring} {tag : Half} :
    (s.findTag r tag).isSome = true ↔ s.TagTaken r tag := by
  rw [Option.isSome_iff_exists]
  refine ⟨fun ⟨i, h⟩ => ⟨i, State.findTag_eq_some h⟩, fun ⟨i, occupied, ring, same⟩ => ?_⟩
  cases found : s.findTag r tag with
  | some j => exact ⟨j, rfl⟩
  | none => exact absurd same (State.findTag_none found i occupied ring)

theorem State.findTag_eq_none_iff {r : Ring} {tag : Half} :
    s.findTag r tag = none ↔ ¬ s.TagTaken r tag := by
  rw [← State.findTag_isSome_iff]
  simp

/-- The first check that a TRANSACT fails gives its status (R131 to R133). -/
theorem State.transactCheck_shape {r : Ring} (hk : recKind b = 1) (h : ¬ TransactShape b) :
    s.transactCheck r b = some .badRecord := by
  have shape : shapeOk b = false := Bool.eq_false_iff.2 fun ok => h ((shapeOk_transact_iff hk).1 ok)
  simp [State.transactCheck, shape]

theorem State.transactCheck_ranges {r : Ring} (hk : recKind b = 1) (h : TransactShape b)
    (hr : ¬ s.TransactRanges b) : s.transactCheck r b = some .aperture := by
  have ranges : s.rangesOk b = false := Bool.eq_false_iff.2 fun ok => hr ((State.rangesOk_iff h).1 ok)
  simp [State.transactCheck, (shapeOk_transact_iff hk).2 h, ranges]

theorem State.transactCheck_tag {r : Ring} (hk : recKind b = 1) (h : TransactShape b)
    (hr : s.TransactRanges b) (ht : s.TagTaken r (recTag b)) : s.transactCheck r b = some .duplicateTag := by
  simp [State.transactCheck, (shapeOk_transact_iff hk).2 h, (State.rangesOk_iff h).2 hr,
    State.findTag_isSome_iff.2 ht]

/-- Checks 9 and 10 are the line's and the station's (R133). -/
theorem State.transactCheck_rest {r : Ring} (hk : recKind b = 1) (h : TransactShape b)
    (hr : s.TransactRanges b) (ht : ¬ s.TagTaken r (recTag b)) :
    s.transactCheck r b = (s.line (recLine b)).state.refuses.or
      (s.station (recLine b) (recStation b)).state.refuses := by
  simp only [State.transactCheck, (shapeOk_transact_iff hk).2 h, (State.rangesOk_iff h).2 hr,
    State.findTag_eq_none_iff.2 ht, Bool.not_true, Bool.false_eq_true, if_false, Option.isSome_none]
  cases (s.line (recLine b)).state.refuses <;> rfl

theorem LineState.refuses_eq_none_iff (x : LineState) : x.refuses = none ↔ x = .running := by
  cases x <;> simp [LineState.refuses]

theorem StationState.refuses_eq_none_iff (x : StationState) :
    x.refuses = none ↔ x ≠ .absent ∧ x ≠ .offline := by
  cases x <;> simp [StationState.refuses]

theorem State.transactCheck_eq_none_iff {r : Ring} (hk : recKind b = 1) :
    s.transactCheck r b = none ↔ s.TransactPasses r b := by
  by_cases shape : TransactShape b
  · by_cases ranges : s.TransactRanges b
    · by_cases tag : s.TagTaken r (recTag b)
      · simp [State.transactCheck_tag hk shape ranges tag, State.TransactPasses, tag]
      · rw [State.transactCheck_rest hk shape ranges tag, Option.or_eq_none_iff,
          LineState.refuses_eq_none_iff, StationState.refuses_eq_none_iff]
        simp [State.TransactPasses, shape, ranges, tag]
    · simp [State.transactCheck_ranges hk shape ranges, State.TransactPasses, ranges]
  · simp [State.transactCheck_shape hk shape, State.TransactPasses, shape]

end

/-! ### The moment of application -/

section
variable {s : State} {g : Grant} {b : List Byte}

theorem exec_transact_of_atApplication (hat : s.AtApplication g b) (hk : recKind b = 1) :
    exec .transact s = .next (s.applyTransact g b).wake := by
  simp only [exec, execTransact, State.whenRunning_of_eq hat.1]
  rw [State.onGranted_of_atApplication _ hat (by simp [hk])]

theorem exec_abort_of_atApplication (hat : s.AtApplication g b) (hk : recKind b = 2) :
    exec .abort s = .next (s.applyAbort g b).wake := by
  simp only [exec, execAbort, State.whenRunning_of_eq hat.1]
  rw [State.onGranted_of_atApplication _ hat (by simp [hk])]

theorem exec_fence_of_atApplication (hat : s.AtApplication g b) (hk : recKind b = 3) :
    exec .fence s = .next (s.applyFence g b).wake := by
  simp only [exec, execFence, State.whenRunning_of_eq hat.1]
  rw [State.onGranted_of_atApplication _ hat (by simp [hk])]

theorem exec_timeRead_of_atApplication (hat : s.AtApplication g b) (hk : recKind b = 6) :
    exec .timeRead s = .next (s.applyTimeRead g b).wake := by
  simp only [exec, execTimeRead, State.whenRunning_of_eq hat.1]
  rw [State.onGranted_of_atApplication _ hat (by simp [hk])]

theorem exec_unknownKindRecord_of_atApplication (hat : s.AtApplication g b)
    (hk : recKind b = 0 ∨ 7 ≤ recKind b) :
    exec .unknownKindRecord s = .next (s.reject g b .badRecord).wake := by
  simp only [exec, execUnknownKindRecord, State.whenRunning_of_eq hat.1]
  rw [State.onGranted_of_atApplication _ hat (by simp [unknownKind, hk])]

/-- A LINE_CONTROL that the row for `op` applies (R131, R142, log 15). -/
theorem State.lineControl_of_kind {op : Nat} (f : State → Grant → List Byte → Line → State)
    (hat : s.AtApplication g b) (hk : recKind b = 4) (hop : recOp b = op ∨ recOp b = 0 ∨ 6 < recOp b) :
    s.lineControl op f = (if shapeOk b then f s g b (recLine b) else s.reject g b .badRecord).wake := by
  have kind : isLineControl op b = true := by simp [isLineControl, hk, hop, or_assoc]
  rw [State.lineControl, State.whenRunning_of_eq hat.1, State.onGranted_of_atApplication _ hat kind]

/-- A STATION_CONTROL that the row for `op` applies (R131, R143, log 15). -/
theorem State.stationControl_of_kind {op : Nat} (f : State → Line → Station → State × Status × List Byte)
    (hat : s.AtApplication g b) (hk : recKind b = 5) (hop : recOp b = op ∨ recOp b = 0 ∨ 3 < recOp b) :
    s.stationControl op f = (if shapeOk b then s.completeNow g b fun t => f t (recLine b) (recStation b)
      else s.reject g b .badRecord).wake := by
  have kind : isStationControl op b = true := by simp [isStationControl, hk, hop, or_assoc]
  rw [State.stationControl, State.whenRunning_of_eq hat.1, State.onGranted_of_atApplication _ hat kind]

/-- A record that completes at once with no effect on the part (R134). -/
theorem State.completeNow_only (hat : s.AtApplication g b) (hp : s.HasPlace) (status : Status)
    (result : List Byte) :
    s.OnlyCompleted (s.completeNow g b fun t => (t, status, result)).wake g b status result := by
  obtain ⟨completed, host, work, indication⟩ := State.completeNow_wake_spec
    (f := fun t => (t, status, result)) hat hp (State.ChangesWorkOnly.refl s)
  exact ⟨completed, host, work, indication⟩

theorem State.reject_only (hat : s.AtApplication g b) (hp : s.HasPlace) (status : Status) :
    s.OnlyCompleted (s.reject g b status).wake g b status [] := State.completeNow_only hat hp status []

/-! ### Records that are set aside -/

/-- A READY record is set aside, and the part goes on (R129, R130). -/
theorem State.setAside_wake_frame (running : s.device.state = .running) (ready : (s.ringUnit g.ring).hold.state = .ready)
    (lacks : List Resource) :
    let t := (s.setAside g lacks).wake
    t.ringUnit g.ring = { s.ringUnit g.ring with hold := { (s.ringUnit g.ring).hold with state := .waiting lacks } }
      ∧ t.ringUnit (otherRing g.ring) = s.ringUnit (otherRing g.ring) ∧ t.admission.stage = t.regrant
      ∧ t.admission.credit = s.admission.credit ∧ s.PostingAfter t ∧ t.admission.counter = s.admission.counter
      ∧ t.admission.asked = s.admission.asked ∧ t.retire.queue = s.retire.queue
      ∧ t.admission.places = s.admission.places ∧ s.SameWork t ∧ s.SameHost t ∧ s.NoIndication t := by
  have unit : ∀ q, (s.setAside g lacks).ringUnit q
      = (s.modHold g.ring fun h => { h with state := .waiting lacks }).ringUnit q := fun q => by
    cases q <;> rfl
  let f : RingUnit → RingUnit := fun u => { u with hold := { u.hold with state := .waiting lacks } }
  have host : s.SameHost (s.setAside g lacks) := ⟨rfl, rfl, rfl, rfl, rfl, rfl, rfl, rfl, rfl⟩
  refine ⟨?_, ?_, State.wake_stage_regrant running rfl, (State.wake_credit _).trans (State.modRing_credit s g.ring f),
    State.postingAfter_wake rfl running, (State.wake_counter _).trans (State.modRing_counter s g.ring f), ?_,
    State.wake_queue _, (State.wake_places _).trans (State.modRing_places s g.ring f),
    State.SameWork.trans (t := s.setAside g lacks) ⟨rfl, rfl, rfl, rfl⟩ (State.wake_sameWork _),
    host.trans (State.wake_sameHost _), State.noIndication_wake rfl host⟩
  · rw [State.wake_ringUnit, unit]
    exact State.ringUnit_modRing_self s g.ring f
  · rw [State.wake_ringUnit, unit]
    exact State.ringUnit_modRing_other s g.ring _
  · rw [State.wake_asked]
    refine (State.modRing_asked s g.ring f).trans (orderAsked_same _ rfl ?_)
    show Hold.read { (s.ringUnit g.ring).hold with state := .waiting lacks } g.ring = _
    rw [Hold.read, Hold.read, ready]

theorem State.setAside_wake (hat : s.AtApplication g b) (lacks : List Resource) :
    s.SetAside (s.setAside g lacks).wake g b lacks := by
  obtain ⟨running, -, hold⟩ := hat
  obtain ⟨own, other, stage, credit, posting, counter, asked, queue, places, work, host, noIndication⟩ :=
    State.setAside_wake_frame running (by rw [hold]) lacks
  rw [hold] at own
  exact ⟨by rw [own], by rw [own], by rw [own], by rw [own], other, credit, stage, posting, counter, places, asked, queue,
    host, work, noIndication⟩

theorem State.freePlace_of_not_hasPlace (h : ¬ s.HasPlace) : s.freePlace = none :=
  List.find?_eq_none.2 fun p _ free => h ⟨p, by simpa using free⟩

theorem State.completeNow_of_not_hasPlace (h : ¬ s.HasPlace) (g : Grant) (b : List Byte)
    (f : State → State × Status × List Byte) : s.completeNow g b f = s.setAside g [.immediatePlace] := by
  rw [State.completeNow, State.freePlace_of_not_hasPlace h]

theorem State.reject_of_not_hasPlace (h : ¬ s.HasPlace) (g : Grant) (b : List Byte) (status : Status) :
    s.reject g b status = s.setAside g [.immediatePlace] := State.completeNow_of_not_hasPlace h g b _

end

end Sys2Proof.Machine

/-! Records that complete at once or are set aside: the rejections of a TRANSACT, the ABORTs that retire nothing,
FENCE, SET, ADD, REMOVE and malformed records (R30, R39, R75, R76, R129 to R143). -/

namespace Sys2Proof.Machine

section
variable {s : State} {g : Grant} {b : List Byte}

/-! ### TRANSACT -/

theorem State.applyTransact_of_check {status : Status} (h : s.transactCheck g.ring b = some status) :
    s.applyTransact g b = s.reject g b status := by
  simp only [State.applyTransact, h]

/-- A TRANSACT whose first failing check gives `status` (R131 to R135). -/
theorem exec_transact_rejected {status : Status} (hat : s.AtApplication g b) (hk : recKind b = 1)
    (hp : s.HasPlace) (h : s.transactCheck g.ring b = some status) :
    ∃ t, exec .transact s = .next t ∧ s.OnlyCompleted t g b status [] :=
  ⟨_, (exec_transact_of_atApplication hat hk).trans
    (congrArg (fun u : State => Host.Outcome.next u.wake) (State.applyTransact_of_check h)),
    State.reject_only hat hp status⟩

end

/-- Settles O21. -/
theorem transactRejected : Obligations.TransactRejected := by
  intro s g b hat hk hp line station rejected
  have reject : ∀ {status}, s.transactCheck g.ring b = some status → rejected status :=
    fun h => exec_transact_rejected hat hk hp h
  refine ⟨fun shape => reject (State.transactCheck_shape hk shape),
    fun shape ranges => reject (State.transactCheck_ranges hk shape ranges),
    fun shape ranges tag => reject (State.transactCheck_tag hk shape ranges tag),
    fun shape ranges tag => ?_⟩
  have rest := State.transactCheck_rest hk shape ranges tag
  have byLine : ∀ {x status}, line = x → x.refuses = some status → rejected status := fun e h =>
    reject (by rw [rest, show (s.line (recLine b)).state = _ from e, h]; rfl)
  have byStation : ∀ {x status}, line = .running → station = x → x.refuses = some status → rejected status :=
    fun runs e h => reject (by
      rw [rest, show (s.line (recLine b)).state = _ from runs,
        show (s.station (recLine b) (recStation b)).state = _ from e, h]
      rfl)
  refine ⟨fun e => byLine e rfl, fun e => byLine e rfl, fun e => ?_, fun runs e => byStation runs e rfl,
    fun runs e => byStation runs e rfl⟩
  rcases e with e | e
  · exact byLine e rfl
  · exact byLine e rfl

section
variable {s : State} {g : Grant} {b : List Byte}

/-! ### ABORT -/

/-- The tag of a ring names one occupied entry (R80). -/
theorem State.findTag_of_tagsOk {r : Ring} {tag : Half} {i : EntryIx} (ok : s.TagsOk)
    (occupied : (s.entry i).state ≠ .free) (ring : (s.entry i).ring = r) (same : (s.entry i).tag = tag) :
    s.findTag r tag = some i := by
  cases found : s.findTag r tag with
  | none => exact absurd same (State.findTag_none found i occupied ring)
  | some j =>
    obtain ⟨occupied', ring', same'⟩ := State.findTag_eq_some found
    by_contra other
    have apart : i ≠ j := fun e => other (congrArg some e.symm)
    exact ok i j apart occupied occupied' (ring.trans ring'.symm) (same.trans same'.symm)

theorem State.applyAbort_of_shape (h : shapeOk b = false) : s.applyAbort g b = s.reject g b .badRecord := by
  simp [State.applyAbort, h]

theorem State.applyAbort_of_notFound (h : shapeOk b = true)
    (ht : s.findTag (recTargetRing b) (recTargetTag b) = none) :
    s.applyAbort g b = s.completeNow g b fun t => (t, .notFound, []) := by
  simp [State.applyAbort, h, ht]

theorem State.applyAbort_of_loading {i : EntryIx} (h : shapeOk b = true)
    (ht : s.findTag (recTargetRing b) (recTargetTag b) = some i) (loading : (s.entry i).state = .loading) :
    s.applyAbort g b = s.setAside g [.loadEnd i] := by
  simp [State.applyAbort, h, ht, loading]

theorem State.applyAbort_of_noPlace {i : EntryIx} (h : shapeOk b = true)
    (ht : s.findTag (recTargetRing b) (recTargetTag b) = some i) (loading : (s.entry i).state ≠ .loading)
    (hp : ¬ s.HasPlace) : s.applyAbort g b = s.setAside g [.immediatePlace] := by
  simp [State.applyAbort, h, ht, loading, State.freePlace_of_not_hasPlace hp]

theorem State.applyAbort_of_target {i : EntryIx} {p : PlaceIx} (h : shapeOk b = true)
    (ht : s.findTag (recTargetRing b) (recTargetTag b) = some i) (loading : (s.entry i).state ≠ .loading)
    (hp : s.freePlace = some p) : s.applyAbort g b = s.abortTarget g b p i := by
  simp [State.applyAbort, h, ht, loading, hp]

/-- An ABORT whose target is in EXCHANGE waits in its place (R96). -/
theorem State.abortLater_wake (hat : s.AtApplication g b) {p : PlaceIx} (i : EntryIx)
    (free : s.admission.places.get p = none) :
    let t := (s.abortLater g b p i).wake
    s.AppliedAndLeft t g
      ∧ t.entry i = { s.entry i with abortPending := true }
      ∧ (∀ j, j ≠ i → t.entry j = s.entry j)
      ∧ (∃ p, s.admission.places.get p = none
          ∧ t.admission.places = s.admission.places.set p
              (some { tag := recTag b, ring := g.ring, kind := recKindByte b, status := .ok,
                      result := zeroResult, target := some i }))
      ∧ t.retire.queue = s.retire.queue ∧ t.lines = s.lines ∧ t.stations = s.stations
      ∧ t.store = s.store ∧ s.SameHost t ∧ s.NoIndication t := by
  obtain ⟨running, -, hold⟩ := hat
  let u := (s.abortWaits g b p i).modEntry i fun e => { e with abortPending := true }
  have ready : (s.ringUnit g.ring).hold.state = .ready := by rw [hold]
  have work : u.SameWork (u.applyAndLeave g).wake :=
    (State.applyAndLeave_sameWork u g).trans (State.wake_sameWork _)
  have host : s.SameHost (u.applyAndLeave g) :=
    State.SameHost.trans (t := u) ⟨rfl, rfl, rfl, rfl, rfl, rfl, rfl, rfl, rfl⟩ (State.applyAndLeave_sameHost u g)
  have entries : ∀ j, (u.applyAndLeave g).wake.entry j = u.entry j := fun j =>
    congrArg (Table.get · j) work.entries
  refine ⟨State.applyAndLeave_wake_applied running rfl rfl ready, (entries i).trans (Table.get_set_self _ _ _),
    fun j other => (entries j).trans (Table.get_set_ne _ _ other.symm), ⟨p, free, ?_⟩, State.wake_queue _,
    work.lines, work.stations, work.store, host.trans (State.wake_sameHost _),
    State.noIndication_wake rfl host⟩
  exact (State.wake_places _).trans (State.applyAndLeave_places u g)

end

/-- Settles O24. -/
theorem abortOutcomes : Obligations.AbortOutcomes := by
  intro s g b hat hk hp shape completes
  have exec_of : ∀ {u : State}, s.applyAbort g b = u → exec .abort s = .next u.wake := fun h =>
    (exec_abort_of_atApplication hat hk).trans (congrArg (fun u : State => Host.Outcome.next u.wake) h)
  have completes_of : ∀ {status}, (s.applyAbort g b = s.completeNow g b fun t => (t, status, [])) →
      completes status := fun h => ⟨_, exec_of h, State.completeNow_only hat hp _ []⟩
  have good : shape → shapeOk b = true := (shapeOk_abort_iff hk).2
  refine ⟨fun bad => ?_, fun ok absent => ?_, fun ok tags i ring tag => ?_⟩
  · exact completes_of (State.applyAbort_of_shape (Bool.eq_false_iff.2 fun h => bad ((shapeOk_abort_iff hk).1 h)))
  · exact completes_of (State.applyAbort_of_notFound (good ok) (State.findTag_eq_none_iff.2 absent))
  · obtain ⟨p, place, free⟩ := hp.freePlace
    have target : (s.entry i).state ≠ .free → (s.entry i).state ≠ .loading →
        s.applyAbort g b = s.abortTarget g b p i := fun occupied loading =>
      State.applyAbort_of_target (good ok) (State.findTag_of_tagsOk tags occupied ring tag) loading place
    refine ⟨fun retiring => completes_of ((target ?_ ?_).trans ?_),
      fun exchange pending => completes_of ((target ?_ ?_).trans ?_), fun exchange pending => ?_⟩
    · rw [retiring]; decide
    · rw [retiring]; decide
    · simp only [State.abortTarget, retiring]
    · rw [exchange]; decide
    · rw [exchange]; decide
    · simp only [State.abortTarget, exchange, pending, if_true]
    · have later : s.abortTarget g b p i = s.abortLater g b p i := by
        simp [State.abortTarget, exchange, pending]
      exact ⟨_, exec_of ((target (by rw [exchange]; decide) (by rw [exchange]; decide)).trans later),
        State.abortLater_wake hat i free⟩

section
variable {s : State} {g : Grant} {b : List Byte}

/-! ### FENCE -/

/-- The first of an increasing list that a test takes. -/
theorem find?_eq_some_of_least {n : Nat} {p : Fin n → Bool} {i : Fin n} (xs : List (Fin n))
    (sorted : xs.Pairwise (· < ·)) (mem : i ∈ xs) (hi : p i = true) (least : ∀ j, j < i → p j = false) :
    xs.find? p = some i := by
  induction xs with
  | nil => cases mem
  | cons x xs ih =>
    obtain ⟨first, rest⟩ := List.pairwise_cons.1 sorted
    rcases List.mem_cons.1 mem with rfl | later
    · exact List.find?_cons_of_pos hi
    · rw [List.find?_cons_of_neg (by rw [least x (first i later)]; exact Bool.false_ne_true)]
      exact ih rest later

/-- The FREE entry with the lowest index is the one that is taken (R137). -/
theorem State.LowestFree.freeEntry {i : EntryIx} (h : s.LowestFree i) : s.freeEntry = some i := by
  obtain ⟨free, lowest⟩ := h
  exact find?_eq_some_of_least _ (List.sortedLT_finRange 64).pairwise (List.mem_finRange i) (by simpa using free)
    fun j below => by simpa using lowest j below

theorem State.freeEntry_of_full (h : ∀ i, (s.entry i).state ≠ .free) : s.freeEntry = none :=
  List.find?_eq_none.2 fun i _ free => h i (by simpa using free)

/-- An entry that names no station retires without one (R89). -/
theorem State.retireCore_of_noStation {i : EntryIx} (h : (s.entry i).station = none) (status : Status)
    (release : Option Nat) :
    s.retireCore i status release none = (s.setEntry i ((s.entry i).retired status)).enqueue (.entry i) := by
  simp only [State.retireCore, State.unlinkEntry, h, State.settleToken, State.makeSuspect, State.finishAbort]

theorem State.mem_fenceTargets {r : Ring} {l : Line} {j : EntryIx} :
    j ∈ s.fenceTargets r l ↔ (s.entry j).state ≠ .free ∧ (s.entry j).state ≠ .retiring
      ∧ (s.entry j).kind = .transact ∧ (s.entry j).ring = r ∧ (s.entry j).line = l
      ∧ (s.entry j).admission.toNat < s.admission.counter.toNat := by
  simp [State.fenceTargets, and_assoc]

/-- A FENCE in its entry, before its record leaves the hold; with nothing to wait for it has retired (R98,
R99). -/
def State.fenceEntered (s : State) (g : Grant) (b : List Byte) (i : EntryIx) : State :=
  let t := s.setEntry i (s.fenceEntry g.ring b)
  if s.fenceTargets g.ring (recLine b) = [] then
    (t.setEntry i ((s.fenceEntry g.ring b).retired .ok)).enqueue (.entry i)
  else t

theorem State.fenceTake_eq (s : State) (g : Grant) (b : List Byte) (i : EntryIx) :
    s.fenceTake g b i = (s.fenceEntered g b i).applyAndLeave g := by
  have own : (s.setEntry i (s.fenceEntry g.ring b)).entry i = s.fenceEntry g.ring b :=
    State.entry_setEntry_self _ _ _
  have retires := State.retireCore_of_noStation (s := s.setEntry i (s.fenceEntry g.ring b)) (i := i)
    (by rw [own]; rfl) .ok none
  rw [own] at retires
  unfold State.fenceTake State.fenceEntered
  by_cases waits : s.fenceTargets g.ring (recLine b) = []
  · simp only [waits, List.isEmpty_nil, if_true, retires]
  · simp [waits]

theorem State.fenceEntered_of_none {i : EntryIx} (h : s.fenceTargets g.ring (recLine b) = []) :
    s.fenceEntered g b i = ((s.setEntry i (s.fenceEntry g.ring b)).setEntry i
      ((s.fenceEntry g.ring b).retired .ok)).enqueue (.entry i) := if_pos h

theorem State.fenceEntered_of_some {i : EntryIx} (h : s.fenceTargets g.ring (recLine b) ≠ []) :
    s.fenceEntered g b i = s.setEntry i (s.fenceEntry g.ring b) := if_neg h

/-- The FENCE reaches its own entry, and the retire queue when it retires at once. -/
theorem State.fenceEntered_frame (s : State) (g : Grant) (b : List Byte) (i : EntryIx) :
    let u := s.fenceEntered g b i
    (∀ j, j ≠ i → u.entry j = s.entry j) ∧ u.admission = s.admission ∧ u.lines = s.lines
    ∧ u.stations = s.stations ∧ u.store = s.store ∧ s.SameHost u ∧ u.ind = s.ind
    ∧ u.retire.posting = s.retire.posting := by
  by_cases waits : s.fenceTargets g.ring (recLine b) = []
  · rw [State.fenceEntered_of_none waits]
    refine ⟨fun j other => ?_, rfl, rfl, rfl, rfl, ⟨rfl, rfl, rfl, rfl, rfl, rfl, rfl, rfl, rfl⟩, rfl, rfl⟩
    exact (Table.get_set_ne _ _ other.symm).trans (Table.get_set_ne _ _ other.symm)
  · rw [State.fenceEntered_of_some waits]
    exact ⟨fun j other => Table.get_set_ne _ _ other.symm, rfl, rfl, rfl, rfl,
      ⟨rfl, rfl, rfl, rfl, rfl, rfl, rfl, rfl, rfl⟩, rfl, rfl⟩

theorem State.applyFence_of_shape (h : shapeOk b = false) : s.applyFence g b = s.reject g b .badRecord := by
  simp [State.applyFence, h]

theorem State.applyFence_of_tag (h : shapeOk b = true) (ht : s.TagTaken g.ring (recTag b)) :
    s.applyFence g b = s.reject g b .duplicateTag := by
  simp [State.applyFence, h, State.findTag_isSome_iff.2 ht]

theorem State.applyFence_of_full (h : shapeOk b = true) (ht : ¬ s.TagTaken g.ring (recTag b))
    (hf : s.freeEntry = none) : s.applyFence g b = s.setAside g [.entry] := by
  simp [State.applyFence, h, State.findTag_eq_none_iff.2 ht, hf]

theorem State.applyFence_of_free {i : EntryIx} (h : shapeOk b = true) (ht : ¬ s.TagTaken g.ring (recTag b))
    (hf : s.freeEntry = some i) : s.applyFence g b = s.fenceTake g b i := by
  simp [State.applyFence, h, State.findTag_eq_none_iff.2 ht, hf]

end

/-- Settles O26. -/
theorem fenceTaken : Obligations.FenceTaken := by
  refine ⟨fun e fence => ?_, fun s g b hat hk line zero tag hp => ?_, fun s g b i hat hk line zero tag lowest => ?_⟩
  · rw [Entry.result, fence]
    rfl
  · exact ⟨_, (exec_fence_of_atApplication hat hk).trans (congrArg (fun u : State => Host.Outcome.next u.wake)
      (State.applyFence_of_tag ((shapeOk_fence_iff hk).2 ⟨line, zero⟩) tag)), State.reject_only hat hp _⟩
  · have applied : s.applyFence g b = (s.fenceEntered g b i).applyAndLeave g :=
      (State.applyFence_of_free ((shapeOk_fence_iff hk).2 ⟨line, zero⟩) tag lowest.freeEntry).trans
        (s.fenceTake_eq g b i)
    obtain ⟨running, stage, hold⟩ := hat
    obtain ⟨others, admission, lines, stations, store, host, ind, posting⟩ := s.fenceEntered_frame g b i
    have work : (s.fenceEntered g b i).SameWork ((s.fenceEntered g b i).applyAndLeave g).wake :=
      (State.applyAndLeave_sameWork _ g).trans (State.wake_sameWork _)
    have entries : ∀ j, ((s.fenceEntered g b i).applyAndLeave g).wake.entry j = (s.fenceEntered g b i).entry j :=
      fun j => congrArg (Table.get · j) work.entries
    have hostAll := host.trans (State.applyAndLeave_sameHost _ g)
    refine ⟨_, s.fenceTargets g.ring (recLine b), s.fenceEntry g.ring b,
      (exec_fence_of_atApplication ⟨running, stage, hold⟩ hk).trans
        (congrArg (fun u : State => Host.Outcome.next u.wake) applied),
      State.applyAndLeave_wake_applied (by rw [host.device, running]) (by rw [admission]) posting (by rw [hold]),
      (List.nodup_finRange 64).filter _, fun j => State.mem_fenceTargets, rfl, fun waits => ⟨?_, ?_⟩,
      fun waits => ⟨?_, ?_⟩, fun j other => (entries j).trans (others j other), ?_,
      work.lines.trans lines, work.stations.trans stations, work.store.trans store,
      hostAll.trans (State.wake_sameHost _), State.noIndication_wake ind hostAll⟩
    · rw [entries, State.fenceEntered_of_some waits]
      exact State.entry_setEntry_self _ _ _
    · rw [State.wake_queue, State.applyAndLeave_retire, State.fenceEntered_of_some waits]
      rfl
    · rw [entries, State.fenceEntered_of_none waits]
      exact Table.get_set_self _ _ _
    · rw [State.wake_queue, State.applyAndLeave_retire, State.fenceEntered_of_none waits]
      rfl
    · rw [State.wake_places, State.applyAndLeave_places, admission]

section
variable {s : State} {g : Grant} {b : List Byte}

/-! ### Records that complete at once with an effect on the part -/

/-- A record that completes at once with an effect on the work and, at most, indications (R129, R134, R135). -/
theorem State.completeNow_wake_effect {f : State → State × Status × List Byte} (hat : s.AtApplication g b)
    (hp : s.HasPlace) (host : s.SameHost (f s).1) (admission : (f s).1.admission = s.admission)
    (retire : (f s).1.retire = s.retire) :
    s.CompletedBy (s.completeNow g b f).wake g b (f s).2.1 (f s).2.2
      ∧ s.SameHost (s.completeNow g b f).wake
      ∧ (f s).1.SameWork (s.completeNow g b f).wake
      ∧ (s.completeNow g b f).wake.ind = (f s).1.beginIndication.ind := by
  let v := { s with ind := (f s).1.ind }
  have changes : v.ChangesWorkOnly (f s).1 :=
    ⟨⟨host.pending, host.resetInput, host.device, host.time, host.cplRing, host.indRing, host.notify,
      host.busWrites, host.freeSeq⟩, admission, retire, rfl⟩
  have same : v.completeNow g b (fun _ => f s) = s.completeNow g b f := by
    obtain ⟨p, place, -⟩ := hp.freePlace
    exact (State.completeNow_of_freePlace g b (fun _ => f s) (s := v) place).trans
      (State.completeNow_of_freePlace g b f place).symm
  obtain ⟨⟨⟨counter, credit, stage, posting, unit, other, asked⟩, completion⟩, sameHost, work, indication⟩ :=
    State.completeNow_wake_spec (s := v) (f := fun _ => f s) hat hp changes
  rw [same] at counter credit stage posting unit other asked completion sameHost work indication
  refine ⟨⟨⟨counter, credit, stage, posting, unit, other, asked⟩, completion⟩,
    ⟨sameHost.pending, sameHost.resetInput, sameHost.device, sameHost.time, sameHost.cplRing, sameHost.indRing,
      sameHost.notify, sameHost.busWrites, sameHost.freeSeq⟩, work, ?_⟩
  exact indication.trans (State.beginIndication_congr rfl host.device.symm host.indRing.symm)

/-! ### LINE_CONTROL SET -/

/-- Every parameter of a SET lies in its range (R39); the upper bounds that are a field's largest number cannot
be passed. -/
theorem recParams_inRange_iff (b : List Byte) :
    (recParams b).inRange = true ↔
      (recParams b).rateCode ≤ 7 ∧ 100 ≤ (recParams b).responseWindow
        ∧ (20 ≤ (recParams b).turnaroundGap ∧ (recParams b).turnaroundGap ≤ 5000)
        ∧ 100 ≤ (recParams b).retryHoldoffBase
        ∧ (1 ≤ (recParams b).defaultAttempts ∧ (recParams b).defaultAttempts ≤ 8)
        ∧ (1 ≤ (recParams b).failureThreshold ∧ (recParams b).failureThreshold ≤ 15)
        ∧ 1 ≤ (recParams b).collectInterval ∧ 1 ≤ (recParams b).collectLimit
        ∧ 10 ≤ (recParams b).probeInterval ∧ 1 ≤ (recParams b).markValue
        ∧ (1 ≤ (recParams b).releaseLinger ∧ (recParams b).releaseLinger ≤ 1000) := by
  have window : (recParams b).responseWindow < 65536 := (halfAt b 42).isLt
  have guard : (recParams b).lateGuard < 65536 := (halfAt b 46).isLt
  have base : (recParams b).retryHoldoffBase < 65536 := (halfAt b 48).isLt
  have limit : (recParams b).collectLimit < 256 := (byteAt b 51).isLt
  have interval : (recParams b).collectInterval < 65536 := (halfAt b 52).isLt
  have probe : (recParams b).probeInterval < 65536 := (halfAt b 54).isLt
  have beacon : (recParams b).beaconPeriod < 65536 := (halfAt b 56).isLt
  have mark : (recParams b).markValue < 65536 := (halfAt b 58).isLt
  generalize recParams b = p at *
  simp only [LineParams.inRange, inRange, Bool.and_eq_true, decide_eq_true_eq]
  omega

theorem LineState.isActive_eq_false_iff (x : LineState) : x.isActive = false ↔ x = .stopped ∨ x = .faulted := by
  cases x <;> simp [LineState.isActive]

theorem StationRecord.newThreshold_eq (n : Nat) (r : StationRecord) :
    r.newThreshold n = if r.state = .absent then r
      else if r.state = .offline then { r with failures := n } else { r with failures := 0 } := by
  unfold StationRecord.newThreshold
  cases r.state <;> rfl

/-- New parameters reach the line, and a changed failure threshold its stations (R39). -/
theorem State.replaceParams_frame (s : State) (l : Line) (p : LineParams) :
    s.ChangesWorkOnly (s.replaceParams l p)
    ∧ (s.replaceParams l p).line l = { s.line l with params := p }
    ∧ (∀ m, m ≠ l → (s.replaceParams l p).line m = s.line m)
    ∧ (s.replaceParams l p).entries = s.entries ∧ (s.replaceParams l p).store = s.store
    ∧ ∀ m a, (s.replaceParams l p).station m a =
        if l = m ∧ p.failureThreshold ≠ (s.line l).params.failureThreshold
        then (s.station m a).newThreshold p.failureThreshold else s.station m a := by
  have changes : s.ChangesWorkOnly (s.replaceParams l p) ∧ (s.replaceParams l p).lines = (s.modLine l fun ln =>
      { ln with params := p }).lines ∧ (s.replaceParams l p).entries = s.entries
      ∧ (s.replaceParams l p).store = s.store := by
    unfold State.replaceParams
    dsimp only
    split
    · exact ⟨⟨⟨rfl, rfl, rfl, rfl, rfl, rfl, rfl, rfl, rfl⟩, rfl, rfl, rfl⟩, rfl, rfl, rfl⟩
    · exact ⟨⟨⟨rfl, rfl, rfl, rfl, rfl, rfl, rfl, rfl, rfl⟩, rfl, rfl, rfl⟩, rfl, rfl, rfl⟩
  obtain ⟨only, lines, entries, store⟩ := changes
  have line : ∀ m, (s.replaceParams l p).line m = (s.modLine l fun ln => { ln with params := p }).line m :=
    fun m => congrArg (Table.get · m) lines
  refine ⟨only, (line l).trans (State.line_modLine_self _ _ _), fun m other => (line m).trans
    ((State.line_modLine _ _ _ _).trans (if_neg other.symm)), entries, store, fun m a => ?_⟩
  unfold State.replaceParams
  dsimp only
  by_cases same : p.failureThreshold = (s.line l).params.failureThreshold
  · rw [if_pos same, if_neg fun h => h.2 same]
    rfl
  · rw [if_neg same, State.station_mapStations, State.modLine_station]
    simp only [ne_eq, same, not_false_eq_true, and_true]

end

/-- Settles O30. -/
theorem lineSet : Obligations.LineSet := by
  intro s g b hat hk hop line zero hp l p good inactive
  have applied : exec .lineControlSet s
      = .next (s.completeNow g b fun t => t.setParams l (recParams b)).wake :=
    congrArg Host.Outcome.next (State.lineControl_of_atApplication _ hat hk hop (by decide) line zero)
  have stands : inactive ↔ (s.line l).state.isActive = false := (LineState.isActive_eq_false_iff _).symm
  have goodIff : good ↔ (recParams b).inRange = true := (recParams_inRange_iff b).symm
  have only : ∀ {status}, s.setParams l (recParams b) = (s, status, []) →
      ∃ t, exec .lineControlSet s = .next t ∧ s.OnlyCompleted t g b status [] := fun {status} h => by
    obtain ⟨completed, host, work, ind⟩ := State.completeNow_wake_effect
      (f := fun t => t.setParams l (recParams b)) hat hp (by rw [h]; exact State.SameHost.refl s)
      (by rw [h]) (by rw [h])
    rw [h] at completed work ind
    exact ⟨_, applied, completed, host, work, ind⟩
  refine ⟨fun stopped ok => ?_, fun stopped bad => only ?_, fun active => only ?_⟩
  · have set : s.setParams l (recParams b) = (s.replaceParams l (recParams b), .ok, []) := by
      simp [State.setParams, stands.1 stopped, goodIff.1 ok]
    obtain ⟨changes, own, others, entries, store, stations⟩ := s.replaceParams_frame l (recParams b)
    obtain ⟨completed, host, work, indication⟩ := State.completeNow_wake_spec
      (f := fun t => t.setParams l (recParams b)) hat hp (by rw [set]; exact changes)
    rw [set] at completed work
    refine ⟨_, applied, completed, (work.line l).trans own, fun a => (work.station l a).trans ((stations l a).trans ?_),
      ⟨fun m other => (work.line m).trans (others m other), fun m a other =>
        (work.station m a).trans ((stations m a).trans (if_neg fun h => other h.1.symm))⟩,
      work.entries.trans entries, work.store.trans store, host, indication⟩
    rw [StationRecord.newThreshold_eq]
    by_cases same : p.failureThreshold = (s.line l).params.failureThreshold
    · rw [if_neg fun h => h.2 same, if_pos (Or.inl same)]
    · rw [if_pos ⟨rfl, same⟩]
      by_cases absent : (s.station l a).state = .absent
      · rw [if_pos absent, if_pos (Or.inr absent)]
      · have neither : ¬ (p.failureThreshold = (s.line l).params.failureThreshold
            ∨ (s.station l a).state = .absent) := fun h => h.elim same absent
        rw [if_neg absent, if_neg neither]
        rfl
  · simp [State.setParams, stands.1 stopped, Bool.eq_false_iff.2 fun h => bad (goodIff.2 h)]
  · have on : (s.line l).state.isActive = true := by
      rw [← Bool.not_eq_false]
      exact fun h => active (stands.2 h)
    simp [State.setParams, on]

end Sys2Proof.Machine

/-! STATION_CONTROL ADD and REMOVE, the shapes of the records, and the records that are set aside (R62, R74 to
R76, R123, R129 to R134, R140, R170). -/

namespace Sys2Proof.Machine

section
variable {s : State} {g : Grant} {b : List Byte}

/-! ### STATION_CONTROL -/

/-- A STATION_CONTROL of a good shape at application is taken by the Station Table (R143). -/
theorem State.stationControl_of_shape {op : Nat} (f : State → Line → Station → State × Status × List Byte)
    (hat : s.AtApplication g b) (hk : recKind b = 5) (hop : recOp b = op) (shape : shapeOk b = true) :
    s.stationControl op f = (s.completeNow g b fun t => f t (recLine b) (recStation b)).wake := by
  rw [State.stationControl_of_kind f hat hk (Or.inl hop), if_pos shape]

/-- A change of one station's record, and the indication of it. -/
theorem State.modStation_indicate_frame (s : State) (l : Line) (a : Station)
    (f : StationRecord → StationRecord) (body : IndicationBody) :
    let u := (s.modStation l a f).indicate l body
    s.SameHost u ∧ u.admission = s.admission ∧ u.retire = s.retire
    ∧ u.station l a = f (s.station l a) ∧ (∀ c, c ≠ a → u.station l c = s.station l c)
    ∧ s.SameOtherLines u l ∧ u.lines = s.lines ∧ u.entries = s.entries ∧ u.store = s.store
    ∧ u.ind = (s.indicate l body).ind := by
  refine ⟨?_, by simp, by simp, by simp, fun c other => ?_, ⟨fun m other => by simp, fun m c other => ?_⟩,
    by simp, by simp, by simp, State.indicate_ind_congr (s := s) (t := s.modStation l a f) rfl rfl rfl rfl l body⟩
  · constructor <;> simp
  · rw [State.indicate_station, State.station_modStation, if_neg fun h => other h.2.symm]
  · rw [State.indicate_station, State.station_modStation, if_neg fun h => other h.1.symm]

/-- A station whose record changes by `f` in a record that completes OK, with an indication (R62). -/
theorem State.completeNow_station_indicated (hat : s.AtApplication g b) (hp : s.HasPlace) {l : Line}
    {a : Station} {f : StationRecord → StationRecord} {body : IndicationBody}
    {effect : State → State × Status × List Byte} {result : List Byte}
    (h : effect s = ((s.modStation l a f).indicate l body, .ok, result)) :
    let t := (s.completeNow g b effect).wake
    s.CompletedBy t g b .ok result ∧ t.station l a = f (s.station l a)
      ∧ (∀ c, c ≠ a → t.station l c = s.station l c) ∧ s.SameOtherLines t l ∧ t.lines = s.lines
      ∧ t.entries = s.entries ∧ t.store = s.store ∧ s.SameHost t ∧ s.OneIndication t l body := by
  obtain ⟨host, admission, retire, own, others, lines, engines, entries, store, ind⟩ :=
    s.modStation_indicate_frame l a f body
  obtain ⟨completed, hostAll, work, indication⟩ := State.completeNow_wake_effect (f := effect) hat hp
    (by rw [h]; exact host) (by rw [h]; exact admission) (by rw [h]; exact retire)
  rw [h] at completed work indication
  refine ⟨completed, (work.station l a).trans own, fun c other => (work.station l c).trans (others c other),
    ⟨fun m other => (work.line m).trans (lines.lines m other),
      fun m c other => (work.station m c).trans (lines.stations m c other)⟩,
    work.lines.trans engines, work.entries.trans entries, work.store.trans store, hostAll, ?_⟩
  exact indication.trans (State.beginIndication_congr ind (by simp) (by simp))

/-- A record that completes with no effect on the part, whatever its status. -/
theorem State.completeNow_same (hat : s.AtApplication g b) (hp : s.HasPlace)
    {effect : State → State × Status × List Byte} {status : Status} {result : List Byte}
    (h : effect s = (s, status, result)) :
    s.OnlyCompleted (s.completeNow g b effect).wake g b status result := by
  obtain ⟨completed, host, work, indication⟩ := State.completeNow_wake_spec (f := effect) hat hp
    (by rw [h]; exact State.ChangesWorkOnly.refl s)
  rw [h] at completed work
  exact ⟨completed, host, work, indication⟩

theorem recStation_ne_broadcast (h : 1 ≤ recStationNumber b ∧ recStationNumber b ≤ 31)
    (low : recStationNumber b ≤ 30) : recStation b ≠ broadcastStation := fun e => by
  have := (recStation_eq_broadcast_iff h).1 e
  omega

end

/-- Settles O32. -/
theorem stationAdd : Obligations.StationAdd := by
  intro s g b hat hk hop line station zero hp l a
  have applied : exec .stationControlAdd s = .next (s.completeNow g b fun t => t.addStation l a).wake :=
    congrArg Host.Outcome.next (State.stationControl_of_shape _ hat hk hop
      ((shapeOk_stationControl_iff hk).2 ⟨line, station, by omega, zero⟩))
  refine ⟨fun low absent => ?_, fun low present => ?_, fun last => ?_⟩
  · have number : addressOf a = recStationNumber b := recStation_val station
    have effect : s.addStation l a = ((s.modStation l a StationRecord.added).indicate l
        (.stationState (recStationNumber b) .absent .unknown .add 0), .ok, [1]) := by
      rw [State.addStation, if_neg (recStation_ne_broadcast station low), if_pos absent, ← number]
      simp only [State.stationOutcome, State.stateResult, State.indicateStation, State.indicate_station,
        State.station_modStation_self]
      rfl
    exact ⟨_, applied, State.completeNow_station_indicated (effect := fun t => t.addStation l a) hat hp effect⟩
  · exact ⟨_, applied, State.completeNow_same (effect := fun t => t.addStation l a) hat hp (by
      rw [State.addStation, if_neg (recStation_ne_broadcast station low), if_neg present]
      rfl)⟩
  · exact ⟨_, _, applied, State.completeNow_same (effect := fun t => t.addStation l a) hat hp (by
      rw [State.addStation, if_pos ((recStation_eq_broadcast_iff station).2 last)]
      rfl)⟩

section
variable {s : State}

theorem State.exchangeWith_iff {l : Line} {a : Station} : s.exchangeWith l a = true ↔
    (s.line l).inFlight = true ∧ ∃ ex, (s.line l).current = some ex ∧ ex.station = a := by
  unfold State.exchangeWith
  cases (s.line l).current <;> simp

/-- The work that keeps a station from a REMOVE (R76). -/
theorem State.hasWork_iff {l : Line} {a : Station} : s.hasWork l a = true ↔
    (s.station l a).fifo ≠ [] ∨ (s.station l a).deferred ≠ []
      ∨ ((s.line l).inFlight = true ∧ ∃ ex, (s.line l).current = some ex ∧ ex.station = a)
      ∨ ∃ i, (s.entry i).state = .loading ∧ (s.entry i).line = l ∧ (s.entry i).station = some a := by
  simp only [State.hasWork, Bool.or_eq_true, State.exchangeWith_iff, Bool.not_eq_true',
    List.isEmpty_eq_false_iff, List.any_eq_true, List.mem_finRange, true_and, Bool.and_eq_true, beq_iff_eq,
    or_assoc, and_assoc]

end

/-- Settles O33. -/
theorem stationRemove : Obligations.StationRemove := by
  intro s g b hat hk hop line station zero hp l a old work
  have applied : exec .stationControlRemove s = .next (s.completeNow g b fun t => t.removeStation l a).wake :=
    congrArg Host.Outcome.next (State.stationControl_of_shape _ hat hk hop
      ((shapeOk_stationControl_iff hk).2 ⟨line, station, by omega, zero⟩))
  refine ⟨fun low free => ?_, fun low busy => ?_, fun last => ?_⟩
  · have number : addressOf a = recStationNumber b := recStation_val station
    have idle : s.hasWork l a = false := Bool.eq_false_iff.2 fun h => free (State.hasWork_iff.1 h)
    by_cases absent : old.state = .absent
    · have effect : s.removeStation l a = (s.modStation l a StationRecord.removed, .ok, [0]) := by
        rw [State.removeStation, if_neg (recStation_ne_broadcast station low), idle]
        simp only [Bool.false_eq_true, if_false, if_pos (show (s.station l a).state = .absent from absent),
          State.stationOutcome, State.stateResult, State.station_modStation_self]
        rfl
      obtain ⟨completed, host, kept, indication⟩ := State.completeNow_wake_spec
        (f := fun t => t.removeStation l a) hat hp
        (by rw [effect]; exact ⟨⟨rfl, rfl, rfl, rfl, rfl, rfl, rfl, rfl, rfl⟩, rfl, rfl, rfl⟩)
      rw [effect] at completed kept
      refine ⟨_, applied, completed, (kept.station l a).trans (State.station_modStation_self _ _ _ _),
        fun c other => (kept.station l c).trans ?_, ⟨fun m _ => kept.line m, fun m c other =>
          (kept.station m c).trans ?_⟩, kept.lines, kept.entries, kept.store, host, fun _ => indication,
        fun present => absurd absent present⟩
      · exact (State.station_modStation _ _ _ _ _ _).trans (if_neg fun h => other h.2.symm)
      · exact (State.station_modStation _ _ _ _ _ _).trans (if_neg fun h => other h.1.symm)
    · have effect : s.removeStation l a = ((s.modStation l a StationRecord.removed).indicate l
          (.stationState (recStationNumber b) old.state .absent .remove (old.statusWord.getD 0)), .ok, [0]) := by
        rw [State.removeStation, if_neg (recStation_ne_broadcast station low), idle, ← number]
        simp only [Bool.false_eq_true, if_false, if_neg (show ¬ (s.station l a).state = .absent from absent),
          State.stationOutcome, State.stateResult, State.indicateStation, State.indicate_station,
          State.station_modStation_self]
        rfl
      obtain ⟨completed, own, others, lines, engines, entries, store, host, indication⟩ :=
        State.completeNow_station_indicated (effect := fun t => t.removeStation l a) hat hp effect
      exact ⟨_, applied, completed, own, others, lines, engines, entries, store, host,
        fun h => absurd h absent, fun _ => indication⟩
  · exact ⟨_, applied, State.completeNow_same (effect := fun t => t.removeStation l a) hat hp (by
      rw [State.removeStation, if_neg (recStation_ne_broadcast station low), if_pos (State.hasWork_iff.2 busy)]
      rfl)⟩
  · exact ⟨_, _, applied, State.completeNow_same (effect := fun t => t.removeStation l a) hat hp (by
      rw [State.removeStation, if_pos ((recStation_eq_broadcast_iff station).2 last)]
      rfl)⟩

/-! ### Malformed records -/

section
variable {s : State} {g : Grant} {b : List Byte}

/-- A LINE_CONTROL of a bad shape (R131, R142). -/
theorem State.lineControl_malformed {op : Nat} (f : State → Grant → List Byte → Line → State)
    (hat : s.AtApplication g b) (hk : recKind b = 4) (hop : recOp b = op ∨ recOp b = 0 ∨ 6 < recOp b)
    (bad : shapeOk b = false) : s.lineControl op f = (s.reject g b .badRecord).wake := by
  rw [State.lineControl_of_kind f hat hk hop, bad]
  rfl

/-- A STATION_CONTROL of a bad shape (R131, R143). -/
theorem State.stationControl_malformed {op : Nat} (f : State → Line → Station → State × Status × List Byte)
    (hat : s.AtApplication g b) (hk : recKind b = 5) (hop : recOp b = op ∨ recOp b = 0 ∨ 3 < recOp b)
    (bad : shapeOk b = false) : s.stationControl op f = (s.reject g b .badRecord).wake := by
  rw [State.stationControl_of_kind f hat hk hop, bad]
  rfl

theorem exec_fence_malformed (hat : s.AtApplication g b) (hk : recKind b = 3) (bad : shapeOk b = false) :
    exec .fence s = .next (s.reject g b .badRecord).wake := by
  rw [exec_fence_of_atApplication hat hk, State.applyFence_of_shape bad]

theorem exec_timeRead_malformed (hat : s.AtApplication g b) (hk : recKind b = 6) (bad : shapeOk b = false) :
    exec .timeRead s = .next (s.reject g b .badRecord).wake := by
  rw [exec_timeRead_of_atApplication hat hk, State.applyTimeRead, bad]
  rfl

/-- The rows of the LINE_CONTROL records, by their op (R142). -/
theorem exec_lineControl_malformed {op : Nat} {c : Instr} (hat : s.AtApplication g b) (hk : recKind b = 4)
    (hop : recOp b = op ∨ recOp b = 0 ∨ 6 < recOp b) (bad : shapeOk b = false)
    (row : (op, c) ∈ [(1, Instr.lineControlStart), (2, .lineControlStop), (3, .lineControlDrain),
      (4, .lineControlSet), (5, .lineControlStatus), (6, .lineControlClear)]) :
    exec c s = .next (s.reject g b .badRecord).wake := by
  simp only [List.mem_cons, Prod.mk.injEq, List.not_mem_nil, or_false] at row
  rcases row with ⟨rfl, rfl⟩ | ⟨rfl, rfl⟩ | ⟨rfl, rfl⟩ | ⟨rfl, rfl⟩ | ⟨rfl, rfl⟩ | ⟨rfl, rfl⟩ <;>
    exact congrArg Host.Outcome.next (State.lineControl_malformed _ hat hk hop bad)

/-- The rows of the STATION_CONTROL records, by their op (R143). -/
theorem exec_stationControl_malformed {op : Nat} {c : Instr} (hat : s.AtApplication g b) (hk : recKind b = 5)
    (hop : recOp b = op ∨ recOp b = 0 ∨ 3 < recOp b) (bad : shapeOk b = false)
    (row : (op, c) ∈ [(1, Instr.stationControlAdd), (2, .stationControlRemove), (3, .stationControlQuery)]) :
    exec c s = .next (s.reject g b .badRecord).wake := by
  simp only [List.mem_cons, Prod.mk.injEq, List.not_mem_nil, or_false] at row
  rcases row with ⟨rfl, rfl⟩ | ⟨rfl, rfl⟩ | ⟨rfl, rfl⟩ <;>
    exact congrArg Host.Outcome.next (State.stationControl_malformed _ hat hk hop bad)

end

/-- Settles O35. -/
theorem malformedRecords : Obligations.MalformedRecords := by
  refine ⟨fun b => ⟨?_, fun h => ?_, fun h1 h31 => recStation_val ⟨h1, h31⟩, fun h => if_pos h, fun h => ?_,
    zeroFieldsOk_iff b⟩, fun b => ⟨shapeOk_unknown, shapeOk_fence_iff, shapeOk_lineControl_iff,
    shapeOk_stationControl_iff, shapeOk_timeRead_iff⟩, fun s g b c hat hp bad rows => ?_⟩
  · exact ⟨rfl, rfl, fieldAt_halfAt b 2, rfl, rfl, rfl, rfl, halfAt_toNat b 8, halfAt_toNat b 10,
      halfAt_toNat b 12, rfl, fieldAt_halfAt b 16, fieldAt_addrAt b 24, fieldAt_addrAt b 32⟩
  · exact Nat.mod_eq_of_lt (by omega)
  · exact if_neg (by rw [h]; decide)
  · have rejected : exec c s = .next (s.reject g b .badRecord).wake := by
      rcases rows with ⟨rfl, hk⟩ | ⟨rfl, hk⟩ | ⟨rfl, hk⟩ | ⟨hk, op, hop, row⟩ | ⟨hk, op, hop, row⟩
      · exact exec_unknownKindRecord_of_atApplication hat hk
      · exact exec_fence_malformed hat hk bad
      · exact exec_timeRead_malformed hat hk bad
      · exact exec_lineControl_malformed hat hk hop bad row
      · exact exec_stationControl_malformed hat hk hop bad row
    exact ⟨_, rejected, State.reject_only hat hp .badRecord⟩

/-! ### Records that are set aside -/

section
variable {s : State} {g : Grant} {b : List Byte}

/-- A command whose record is set aside (R129, R130). -/
theorem setAside_of_exec {c : Instr} {lacks : List Resource} (hat : s.AtApplication g b)
    (h : exec c s = .next (s.setAside g lacks).wake) :
    ∃ t, exec c s = .next t ∧ s.SetAside t g b lacks := ⟨_, h, State.setAside_wake hat lacks⟩

theorem demand_eq (station : 1 ≤ recStationNumber b ∧ recStationNumber b ≤ 31) :
    demand b = (recRequestLength b + 63) / 64
      + ((if recStationNumber b = 31 then 0 else min (recReplyLength b) 248) + 63) / 64 := by
  simp only [demand, requestPart, segmentsFor, recReplyLimit, recStation_eq_broadcast_iff station]

/-- A TRANSACT that passed its checks and lacks something is set aside (R130). -/
theorem State.applyTransact_of_lacks {x : Resource} {xs : List Resource}
    (checks : s.transactCheck g.ring b = none) (lacks : s.transactLacks b = x :: xs) :
    s.applyTransact g b = s.setAside g (x :: xs) := by
  simp only [State.applyTransact, checks, lacks]

/-- What completes at once waits for an immediate place, whichever record it is (R130, R134, log 15). -/
theorem exec_lineControl_aside {op : Nat} (f : State → Grant → List Byte → Line → State)
    (hat : s.AtApplication g b) (hk : recKind b = 4) (hop : recOp b = op ∨ recOp b = 0 ∨ 6 < recOp b)
    (hp : ¬ s.HasPlace) (h : shapeOk b = true → f s g b (recLine b) = s.setAside g [.immediatePlace]) :
    s.lineControl op f = (s.setAside g [.immediatePlace]).wake := by
  rw [State.lineControl_of_kind f hat hk hop]
  split
  · next ok => rw [h ok]
  · rw [State.reject_of_not_hasPlace hp]

theorem exec_stationControl_aside {op : Nat} (f : State → Line → Station → State × Status × List Byte)
    (hat : s.AtApplication g b) (hk : recKind b = 5) (hop : recOp b = op ∨ recOp b = 0 ∨ 3 < recOp b)
    (hp : ¬ s.HasPlace) : s.stationControl op f = (s.setAside g [.immediatePlace]).wake := by
  rw [State.stationControl_of_kind f hat hk hop, State.completeNow_of_not_hasPlace hp,
    State.reject_of_not_hasPlace hp, ite_self]

theorem State.takeStop_aside (hp : ¬ s.HasPlace) {l : Line}
    (h : (s.line l).state = .stopped ∨ (s.line l).state = .stopping ∨ (s.line l).state = .faulted) :
    s.takeStop g b l = s.setAside g [.immediatePlace] := by
  rw [State.takeStop]
  rcases h with e | e | e <;> simp only [e, State.completeNow_of_not_hasPlace hp]

theorem State.takeDrain_aside (hp : ¬ s.HasPlace) {l : Line} (h : (s.line l).state ≠ .running) :
    s.takeDrain g b l = s.setAside g [.immediatePlace] := by
  rw [State.takeDrain, if_neg h, State.completeNow_of_not_hasPlace hp]

/-- An op outside its range fails check 4 (R131). -/
theorem shapeOk_of_lineOp (hk : recKind b = 4) (h : recOp b = 0 ∨ 6 < recOp b) : shapeOk b = false :=
  Bool.eq_false_iff.2 fun ok => by
    obtain ⟨-, range, -⟩ := (shapeOk_lineControl_iff hk).1 ok
    omega

end

/-- The rows of the LINE_CONTROL records without an immediate place. -/
theorem exec_lineControl_row_aside {s : State} {g : Grant} {b : List Byte} {c : Instr}
    (hat : s.AtApplication g b) (hk : recKind b = 4) (hp : ¬ s.HasPlace)
    (rows : (recOp b = 1 ∧ c = .lineControlStart) ∨ (recOp b = 4 ∧ c = .lineControlSet)
      ∨ (recOp b = 5 ∧ c = .lineControlStatus) ∨ (recOp b = 6 ∧ c = .lineControlClear)
      ∨ (recOp b = 2 ∧ c = .lineControlStop ∧ (shapeOk b = false ∨ (s.line (recLine b)).state = .stopped
        ∨ (s.line (recLine b)).state = .stopping ∨ (s.line (recLine b)).state = .faulted))
      ∨ (recOp b = 3 ∧ c = .lineControlDrain
        ∧ (shapeOk b = false ∨ (s.line (recLine b)).state ≠ .running))
      ∨ ((recOp b = 0 ∨ 6 < recOp b) ∧ c ∈ [.lineControlStart, .lineControlStop, .lineControlDrain,
          .lineControlSet, .lineControlStatus, .lineControlClear])) :
    exec c s = .next (s.setAside g [.immediatePlace]).wake := by
  have now : ∀ {effect : State → State × Status × List Byte},
      s.completeNow g b effect = s.setAside g [.immediatePlace] := State.completeNow_of_not_hasPlace hp g b _
  rcases rows with ⟨hop, rfl⟩ | ⟨hop, rfl⟩ | ⟨hop, rfl⟩ | ⟨hop, rfl⟩ | ⟨hop, rfl, stands⟩ | ⟨hop, rfl, stands⟩
    | ⟨hop, row⟩
  · exact congrArg Host.Outcome.next (exec_lineControl_aside _ hat hk (Or.inl hop) hp fun _ => now)
  · exact congrArg Host.Outcome.next (exec_lineControl_aside _ hat hk (Or.inl hop) hp fun _ => now)
  · exact congrArg Host.Outcome.next (exec_lineControl_aside _ hat hk (Or.inl hop) hp fun _ => now)
  · exact congrArg Host.Outcome.next (exec_lineControl_aside _ hat hk (Or.inl hop) hp fun _ => now)
  · refine congrArg Host.Outcome.next (exec_lineControl_aside _ hat hk (Or.inl hop) hp fun ok => ?_)
    exact State.takeStop_aside hp (stands.resolve_left (by simp [ok]))
  · refine congrArg Host.Outcome.next (exec_lineControl_aside _ hat hk (Or.inl hop) hp fun ok => ?_)
    exact State.takeDrain_aside hp (stands.resolve_left (by simp [ok]))
  · have bad := shapeOk_of_lineOp hk hop
    rw [← State.reject_of_not_hasPlace hp g b .badRecord]
    simp only [List.mem_cons, List.not_mem_nil, or_false] at row
    rcases row with rfl | rfl | rfl | rfl | rfl | rfl <;>
      exact congrArg Host.Outcome.next (State.lineControl_malformed _ hat hk (Or.inr hop) bad)

/-- The rows of the STATION_CONTROL records without an immediate place. -/
theorem exec_stationControl_row_aside {s : State} {g : Grant} {b : List Byte} {c : Instr}
    (hat : s.AtApplication g b) (hk : recKind b = 5) (hp : ¬ s.HasPlace)
    (rows : (recOp b = 1 ∧ c = .stationControlAdd) ∨ (recOp b = 2 ∧ c = .stationControlRemove)
      ∨ (recOp b = 3 ∧ c = .stationControlQuery)
      ∨ ((recOp b = 0 ∨ 3 < recOp b) ∧ c ∈ [.stationControlAdd, .stationControlRemove,
          .stationControlQuery])) :
    exec c s = .next (s.setAside g [.immediatePlace]).wake := by
  simp only [List.mem_cons, List.not_mem_nil, or_false] at rows
  rcases rows with ⟨hop, rfl⟩ | ⟨hop, rfl⟩ | ⟨hop, rfl⟩ | ⟨hop, rfl | rfl | rfl⟩
  · exact congrArg Host.Outcome.next (exec_stationControl_aside _ hat hk (Or.inl hop) hp)
  · exact congrArg Host.Outcome.next (exec_stationControl_aside _ hat hk (Or.inl hop) hp)
  · exact congrArg Host.Outcome.next (exec_stationControl_aside _ hat hk (Or.inl hop) hp)
  · exact congrArg Host.Outcome.next (exec_stationControl_aside _ hat hk (Or.inr hop) hp)
  · exact congrArg Host.Outcome.next (exec_stationControl_aside _ hat hk (Or.inr hop) hp)
  · exact congrArg Host.Outcome.next (exec_stationControl_aside _ hat hk (Or.inr hop) hp)

section
variable {s : State} {g : Grant} {b : List Byte}

theorem exec_transact_aside (hat : s.AtApplication g b) (hk : recKind b = 1) (hp : ¬ s.HasPlace)
    (fails : ¬ s.TransactPasses g.ring b) :
    exec .transact s = .next (s.setAside g [.immediatePlace]).wake := by
  obtain ⟨status, check⟩ := Option.ne_none_iff_exists'.1 fun h => fails ((State.transactCheck_eq_none_iff hk).1 h)
  rw [exec_transact_of_atApplication hat hk, State.applyTransact_of_check check, State.reject_of_not_hasPlace hp]

theorem exec_abort_aside (hat : s.AtApplication g b) (hk : recKind b = 2) (hp : ¬ s.HasPlace)
    (h : shapeOk b = false ∨ ∀ i, (s.entry i).ring = recTargetRing b → (s.entry i).tag = recTargetTag b →
      (s.entry i).state ≠ .loading) :
    exec .abort s = .next (s.setAside g [.immediatePlace]).wake := by
  rw [exec_abort_of_atApplication hat hk]
  cases shape : shapeOk b with
  | false => rw [State.applyAbort_of_shape shape, State.reject_of_not_hasPlace hp]
  | true =>
    have idle := h.resolve_left (by simp [shape])
    cases found : s.findTag (recTargetRing b) (recTargetTag b) with
    | none => rw [State.applyAbort_of_notFound shape found, State.completeNow_of_not_hasPlace hp]
    | some i =>
      obtain ⟨-, ring, tag⟩ := State.findTag_eq_some found
      rw [State.applyAbort_of_noPlace shape found (idle i ring tag) hp]

theorem exec_fence_aside (hat : s.AtApplication g b) (hk : recKind b = 3) (hp : ¬ s.HasPlace)
    (h : shapeOk b = false ∨ s.TagTaken g.ring (recTag b)) :
    exec .fence s = .next (s.setAside g [.immediatePlace]).wake := by
  rw [exec_fence_of_atApplication hat hk]
  cases shape : shapeOk b with
  | false => rw [State.applyFence_of_shape shape, State.reject_of_not_hasPlace hp]
  | true => rw [State.applyFence_of_tag shape (h.resolve_left (by simp [shape])),
      State.reject_of_not_hasPlace hp]

theorem exec_timeRead_aside (hat : s.AtApplication g b) (hk : recKind b = 6) (hp : ¬ s.HasPlace) :
    exec .timeRead s = .next (s.setAside g [.immediatePlace]).wake := by
  rw [exec_timeRead_of_atApplication hat hk, State.applyTimeRead, State.completeNow_of_not_hasPlace hp,
    State.reject_of_not_hasPlace hp, ite_self]

end

/-! ### The end of a load -/

section
variable {s : State} {r : Ring} {i : EntryIx}

@[simp] theorem State.placeEntry_ringUnit (s : State) (i : EntryIx) (q : Ring) :
    (s.placeEntry i).ringUnit q = s.ringUnit q := by
  have retired : ∀ status, (s.retireEntry i status none).ringUnit q = s.ringUnit q := fun status =>
    (Keeps.retireEntry 0 s i status none).unit q
  unfold State.placeEntry
  dsimp only
  cases (s.entry i).state <;> try rfl
  cases (s.entry i).station with
  | none => rfl
  | some a =>
    cases (s.line (s.entry i).line).state
    case stopping | stopped | faulted => exact retired _
    all_goals
      dsimp only
      split
      · exact retired _
      · rfl

theorem State.leaveHold_ringUnit_other (s : State) (r : Ring) :
    (s.leaveHold r).ringUnit (otherRing r) = s.ringUnit (otherRing r) := State.ringUnit_modRing_other s r _

/-- The end of a load returns to a hold of the other ring that waits for it (R130, R138). -/
theorem State.placeLoaded_to (s : State) (r : Ring) (i : EntryIx) :
    s.ReturnedTo (s.placeLoaded r i) [.loadEnd i] (otherRing r) :=
  (State.returned_to ((s.placeEntry i).leaveHold r) (.loadEnd i) (otherRing r)).congr
    ((State.leaveHold_ringUnit_other _ r).trans (State.placeEntry_ringUnit s i _)).symm rfl

/-- A hold that waits stays so, or is READY, when something returns. -/
theorem State.ReturnedTo.waits {t : State} {freed lacks : List Resource} (h : s.ReturnedTo t freed r)
    (waiting : (s.ringUnit r).hold.state = .waiting lacks) :
    (t.ringUnit r).hold.state = .ready ∨ (t.ringUnit r).hold.state = .waiting lacks := by
  by_cases some : ∃ x ∈ freed, x ∈ lacks
  · rw [h.1 lacks waiting some]
    exact Or.inl rfl
  · rw [h.2 fun l hl x hx hm => some ⟨x, hx, by rw [waiting] at hl; cases hl; exact hm⟩]
    exact Or.inr waiting

/-- Nothing waits behind a load whose other ring has no complete load (R138). -/
theorem State.placeOther_of_not_loading
    (h : ∀ j, (s.ringUnit (otherRing r)).hold.state ≠ .loading j true) : s.placeOther r = s := by
  unfold State.placeOther
  split
  · next j loading => exact absurd loading (h j)
  · rfl

theorem State.mustWait_of_waiting {lacks : List Resource}
    (h : (s.ringUnit (otherRing r)).hold.state = .waiting lacks) : s.mustWait r i = false := by
  simp only [State.mustWait, h]

/-- A load that ends while the other ring's hold waits: the placement, and the line goes on (R138). -/
theorem State.loadDone_of_waiting {lacks : List Resource}
    (h : (s.ringUnit (otherRing r)).hold.state = .waiting lacks) :
    s.loadDone r i = (s.placeLoaded r i).settleLine (s.entry i).line := by
  have other : ∀ j, ((s.placeLoaded r i).ringUnit (otherRing r)).hold.state ≠ .loading j true := fun j e => by
    rcases (s.placeLoaded_to r i).waits h with state | state
    · rw [state] at e; cases e
    · rw [state] at e; cases e
  unfold State.loadDone
  rw [State.mustWait_of_waiting h, State.placeOther_of_not_loading other]
  rfl

theorem State.settleLine_wake_ringUnit (s : State) (l : Line) (q : Ring) :
    (s.settleLine l).wake.ringUnit q = s.ringUnit q :=
  (State.wake_ringUnit _ q).trans ((Keeps.settleLine l s).unit q)

/-- What a failed load returns: the entry and its segments, and the end of the load (R119, R130, R139). -/
def State.loadReturned (s : State) (r : Ring) (i : EntryIx) : State :=
  (((s.freeEntryAt i).modHold r fun h => { h with state := .ready, readFailed := true }).returnedEntry
    (s.entry i).holdsSegments).returned (.loadEnd i)

theorem State.loadFailed_eq (s : State) (r : Ring) (i : EntryIx) :
    s.loadFailed r i = ((s.loadReturned r i).placeOther r).settleLine (s.entry i).line := rfl

theorem State.loadReturned_to (s : State) (r : Ring) (i : EntryIx) :
    s.ReturnedTo (s.loadReturned r i) (s.freedBy (.entry i) ++ [.loadEnd i]) (otherRing r) := by
  let v := (s.freeEntryAt i).modHold r fun h => { h with state := .ready, readFailed := true }
  have entry := v.returnedEntry_to (s.entry i).holdsSegments (otherRing r)
  rw [State.holdsSegments_freedBy] at entry
  have told := entry.append (State.returned_to (v.returnedEntry (s.entry i).holdsSegments) (.loadEnd i)
    (otherRing r))
  exact told.congr (State.ringUnit_modRing_other (s.freeEntryAt i) r _).symm rfl

theorem State.loadFailed_of_waiting {lacks : List Resource}
    (h : (s.ringUnit (otherRing r)).hold.state = .waiting lacks) :
    s.loadFailed r i = (s.loadReturned r i).settleLine (s.entry i).line := by
  have other : ∀ j, ((s.loadReturned r i).ringUnit (otherRing r)).hold.state ≠ .loading j true := fun j e => by
    rcases (s.loadReturned_to r i).waits h with state | state
    · rw [state] at e; cases e
    · rw [state] at e; cases e
  rw [State.loadFailed_eq, State.placeOther_of_not_loading other]

/-! ### The commands -/

theorem State.loadOf_of_loading (running : s.device.state = .running)
    (loading : (s.ringUnit r).hold.state = .loading i false) (turn : s.inTurn (.load r) = true) :
    s.loadOf r = some i := by
  simp [State.loadOf, loading, running, turn]

theorem exec_loadEnd_done {bytes : List Byte} (running : s.device.state = .running)
    (loading : (s.ringUnit r).hold.state = .loading i false) (turn : s.inTurn (.load r) = true)
    (length : bytes.length = (s.entry i).requestLength)
    (allowed : s.cfg.mayRead (s.entry i).requestAddress (s.entry i).requestLength = true) :
    exec (.loadEnd r bytes) s = .next ((s.storeRequest i bytes).loadDone r i).wake := by
  have may : s.loadAllowed i = true := allowed
  simp only [exec, execLoadEnd, State.loadOf_of_loading running loading turn, may, if_true, if_pos length]

/-- The state of the part when a load fails: the bytes that had been read stand in the entry's chain (R119). -/
def State.loadPartStored (s : State) (i : EntryIx) (received : List Byte) : State :=
  if s.loadAllowed i then s.storeRequest i (received.take (s.entry i).requestLength) else s

theorem exec_loadError (received : List Byte) (running : s.device.state = .running)
    (loading : (s.ringUnit r).hold.state = .loading i false) (turn : s.inTurn (.load r) = true) :
    exec (.loadError r received) s = .next ((s.loadPartStored i received).loadFailed r i).wake := by
  simp only [exec, execLoadError, State.loadOf_of_loading running loading turn, State.loadPartStored]
  split <;> rfl

end

/-- Settles O23. -/
theorem recordsSetAside : Obligations.RecordsSetAside := by
  refine ⟨fun s g b hat => ⟨fun hk passes => ?_, fun hk line zero tag full => ?_,
    fun i hk ring zero tags loading target tag => ?_, fun c rows hp => setAside_of_exec hat ?_⟩,
    fun s running => ⟨fun f q rest writing queue allowed => ?_, fun r i lacks loading turn waiting =>
      ⟨fun bytes length allowed => ?_, fun received => ?_⟩⟩⟩
  · have checks := (State.transactCheck_eq_none_iff (s := s) (r := g.ring) hk).2 passes
    have parts := demand_eq passes.1.2.1
    have aside : ∀ {x xs}, s.transactLacks b = x :: xs →
        ∃ t, exec .transact s = .next t ∧ s.SetAside t g b (x :: xs) := fun lacks =>
      setAside_of_exec hat ((exec_transact_of_atApplication hat hk).trans
        (congrArg (fun u : State => Host.Outcome.next u.wake) (State.applyTransact_of_lacks checks lacks)))
    intro limit short
    have shortIff : s.store.freeQueue.length < demand b ↔ short := by rw [parts]
    refine ⟨fun full lack => aside ?_, fun full enough => aside ?_, fun ⟨i, free⟩ lack => aside ?_⟩
    · rw [State.transactLacks, State.freeEntry_of_full full, if_pos (shortIff.2 lack)]
      rfl
    · rw [State.transactLacks, State.freeEntry_of_full full, if_neg fun h => enough (shortIff.1 h)]
      rfl
    · have found : s.freeEntry.isSome := by
        rw [State.freeEntry, List.find?_isSome]
        exact ⟨i, List.mem_finRange i, by simpa using free⟩
      rw [State.transactLacks, Option.isNone_eq_false_iff.2 found, if_pos (shortIff.2 lack)]
      rfl
  · exact setAside_of_exec hat ((exec_fence_of_atApplication hat hk).trans
      (congrArg (fun u : State => Host.Outcome.next u.wake) (State.applyFence_of_full
        ((shapeOk_fence_iff hk).2 ⟨line, zero⟩) tag (State.freeEntry_of_full full))))
  · exact setAside_of_exec hat ((exec_abort_of_atApplication hat hk).trans
      (congrArg (fun u : State => Host.Outcome.next u.wake) (State.applyAbort_of_loading
        ((shapeOk_abort_iff hk).2 ⟨ring, zero⟩)
        (State.findTag_of_tagsOk tags (by rw [loading]; decide) target tag) loading)))
  · rcases rows with ⟨rfl, hk, fails⟩ | ⟨rfl, hk, h⟩ | ⟨rfl, hk, h⟩ | ⟨hk, row⟩ | ⟨hk, row⟩ | ⟨rfl, hk⟩ | ⟨rfl, hk⟩
    · exact exec_transact_aside hat hk hp fails
    · exact exec_abort_aside hat hk hp h
    · exact exec_fence_aside hat hk hp h
    · exact exec_lineControl_row_aside hat hk hp row
    · exact exec_stationControl_row_aside hat hk hp row
    · exact exec_timeRead_aside hat hk hp
    · rw [exec_unknownKindRecord_of_atApplication hat hk, State.reject_of_not_hasPlace hp]
  · obtain ⟨t, record, ends, -, -, -, -, -, -, -, -, -, returned, -⟩ :=
      completionWriteEnds.2.2 s f q rest running writing queue allowed
    exact ⟨t, ends, returned⟩
  · have waits : ((s.storeRequest i bytes).ringUnit (otherRing r)).hold.state = .waiting lacks := waiting
    refine ⟨_, exec_loadEnd_done running loading turn length allowed, ?_⟩
    rw [State.loadDone_of_waiting waits]
    exact (State.placeLoaded_to (s.storeRequest i bytes) r i).congr rfl (State.settleLine_wake_ringUnit _ _ _)
  · have part : ∃ store, s.loadPartStored i received = { s with store := store } := by
      unfold State.loadPartStored
      split
      · exact ⟨_, rfl⟩
      · exact ⟨s.store, rfl⟩
    obtain ⟨store, eq⟩ := part
    refine ⟨_, exec_loadError received running loading turn, ?_⟩
    rw [eq, State.loadFailed_of_waiting (s := { s with store := store }) waiting]
    exact (State.loadReturned_to { s with store := store } r i).congr rfl (State.settleLine_wake_ringUnit _ _ _)

end Sys2Proof.Machine

/-! The flags of a retiring entry, and what the arbiter chooses (R52, R54, R89, R90). -/

namespace Sys2Proof.Machine

/-- Settles O54. -/
theorem retirementFlags : Obligations.RetirementFlags := by
  intro e status
  refine ⟨e.finalFlags status, rfl, ?_, ?_, ?_, Iff.rfl, ?_, ?_⟩
  · simp only [Entry.finalFlags, Bool.and_eq_true, beq_iff_eq, Bool.not_eq_true', Option.isNone_iff_eq_none,
      and_assoc]
  · simp only [Entry.finalFlags, Bool.and_eq_true, beq_iff_eq]
    tauto
  · simp only [Entry.finalFlags, Bool.and_eq_true, beq_iff_eq, Bool.not_eq_true']
  · simp only [Entry.finalFlags, Bool.and_eq_true, beq_iff_eq]
    tauto
  · simp only [Entry.finalFlags, Entry.truncated]
    cases e.replyTrueLength <;> simp

/-! ### The least of a list -/

theorem leastBy_eq_none_iff {α : Type} {key : α → Nat} {xs : List α} : leastBy key xs = none ↔ xs = [] := by
  cases xs with
  | nil => simp [leastBy]
  | cons x xs =>
    simp only [leastBy, reduceCtorEq, iff_false]
    split
    · simp
    · split <;> simp

theorem leastBy_le {α : Type} {key : α → Nat} {xs : List α} {x : α} (h : leastBy key xs = some x) :
    ∀ y ∈ xs, key x ≤ key y := by
  induction xs generalizing x with
  | nil => simp
  | cons z xs ih =>
    intro y hy
    unfold leastBy at h
    cases rest : leastBy key xs with
    | none =>
      rw [rest] at h
      obtain rfl := Option.some.inj h
      rw [leastBy_eq_none_iff.1 rest, List.mem_singleton] at hy
      exact Nat.le_of_eq (congrArg key hy.symm)
    | some w =>
      rw [rest] at h
      have below := ih rest
      dsimp only at h
      rcases List.mem_cons.1 hy with rfl | later <;> split at h <;> obtain rfl := Option.some.inj h
      · omega
      · exact Nat.le_refl _
      · exact below y later
      · have := below y later
        omega

/-- The first of an increasing list that a test takes is the least. -/
theorem find?_least {n : Nat} {p : Fin n → Bool} {a : Fin n} {xs : List (Fin n)}
    (sorted : xs.Pairwise (· < ·)) (h : xs.find? p = some a) : ∀ b ∈ xs, p b = true → a ≤ b := by
  induction xs with
  | nil => simp
  | cons x xs ih =>
    obtain ⟨first, rest⟩ := List.pairwise_cons.1 sorted
    intro b hb pb
    cases hx : p x with
    | true =>
      rw [List.find?_cons_of_pos hx] at h
      obtain rfl := Option.some.inj h
      rcases List.mem_cons.1 hb with rfl | later
      · exact Nat.le_refl _
      · exact Nat.le_of_lt (first b later)
    | false =>
      rw [List.find?_cons_of_neg (by simp [hx])] at h
      rcases List.mem_cons.1 hb with rfl | later
      · rw [hx] at pb; cases pb
      · exact ih rest h b later pb

/-! ### The candidates (R52) -/

theorem mem_realStations {a : Station} : a ∈ realStations ↔ a ≠ broadcastStation := by
  simp [realStations]

theorem realStations_sorted : realStations.Pairwise (· < ·) :=
  (List.sortedLT_finRange 31).pairwise.filter _

/-- `a` is the next after `round`, counting upward and round, among the stations 1 to 30 that `p` takes
(R52, R56). -/
def IsNext (round : Nat) (p : Station → Prop) (a : Station) : Prop :=
  (a ≠ broadcastStation ∧ p a)
  ∧ ∀ b, (b ≠ broadcastStation ∧ p b) → (round < addressOf a ∧ (round < addressOf b → addressOf a ≤ addressOf b))
      ∨ (addressOf b ≤ round ∧ addressOf a ≤ addressOf b)

theorem addressOf_le {a b : Station} (h : a ≤ b) : addressOf a ≤ addressOf b :=
  Nat.add_le_add_right (Fin.le_def.1 h) 1

theorem nextAfter_isNext {round : Nat} {p : Station → Bool} {a : Station} (h : nextAfter round p = some a) :
    IsNext round (p · = true) a := by
  unfold nextAfter at h
  split at h
  · next c above =>
    obtain rfl := Option.some.inj h
    have test := List.find?_some above
    simp only [Bool.and_eq_true, decide_eq_true_eq] at test
    refine ⟨⟨mem_realStations.1 (List.mem_of_find?_eq_some above), test.2⟩, fun b hb => Or.inl ⟨test.1, fun after => ?_⟩⟩
    exact addressOf_le (find?_least realStations_sorted above b (mem_realStations.2 hb.1) (by simp [after, hb.2]))
  · next below =>
    have test := List.find?_some h
    refine ⟨⟨mem_realStations.1 (List.mem_of_find?_eq_some h), test⟩, fun b hb => Or.inr ⟨?_, ?_⟩⟩
    · have fails := List.find?_eq_none.1 below b (mem_realStations.2 hb.1)
      simp only [hb.2, Bool.and_true, decide_eq_true_eq] at fails
      omega
    · exact addressOf_le (find?_least realStations_sorted h b (mem_realStations.2 hb.1) hb.2)

theorem nextAfter_eq_none_iff {round : Nat} {p : Station → Bool} :
    nextAfter round p = none ↔ ∀ a, a ≠ broadcastStation → p a = false := by
  unfold nextAfter
  constructor
  · intro h a ha
    split at h
    · cases h
    · simpa using List.find?_eq_none.1 h a (mem_realStations.2 ha)
  · intro h
    have all : realStations.find? p = none :=
      List.find?_eq_none.2 fun a ha => by simp [h a (mem_realStations.1 ha)]
    have above : realStations.find? (fun a => decide (round < addressOf a) && p a) = none :=
      List.find?_eq_none.2 fun a ha => by simp [h a (mem_realStations.1 ha)]
    simp only [above, all]

/-- Only one station is the next. -/
theorem IsNext.unique {round : Nat} {p : Station → Prop} {a b : Station} (ha : IsNext round p a)
    (hb : IsNext round p b) : a = b := by
  have ab := ha.2 b hb.1
  have ba := hb.2 a ha.1
  have val : ∀ c : Station, addressOf c = c.val + 1 := fun _ => rfl
  rw [val, val] at ab ba
  exact Fin.ext (by omega)

section
variable {s : State} {l : Line}

/-- Entry `i` is the QUEUED head of the FIFO of station `a`, from ring `r` (R52). -/
def State.IsHead (s : State) (l : Line) (r : Ring) (a : Station) (i : EntryIx) : Prop :=
  (∃ rest, (s.station l a).fifo = i :: rest) ∧ (s.entry i).state = .queued ∧ (s.entry i).ring = r

theorem State.queuedHead_eq_some_iff {r : Ring} {a b : Station} {i : EntryIx} :
    s.queuedHead l r a = some (b, i) ↔ a = b ∧ s.IsHead l r a i := by
  unfold State.queuedHead State.IsHead
  cases fifo : (s.station l a).fifo with
  | nil => simp
  | cons j rest =>
    dsimp only
    split
    · next queued =>
      simp only [Option.some.injEq, Prod.mk.injEq, List.cons.injEq]
      constructor
      · rintro ⟨rfl, rfl⟩
        exact ⟨rfl, ⟨rest, rfl, rfl⟩, queued⟩
      · rintro ⟨rfl, ⟨_, rfl, _⟩, _⟩
        exact ⟨rfl, rfl⟩
    · next other =>
      simp only [reduceCtorEq, false_iff]
      rintro ⟨rfl, ⟨_, same⟩, queued⟩
      obtain ⟨rfl, -⟩ := List.cons.inj same
      exact other queued

theorem State.mem_queuedHeads {r : Ring} {a : Station} {i : EntryIx} :
    (a, i) ∈ (List.finRange 31).filterMap (s.queuedHead l r) ↔ s.IsHead l r a i := by
  simp only [List.mem_filterMap, List.mem_finRange, true_and]
  constructor
  · rintro ⟨c, h⟩
    obtain ⟨rfl, head⟩ := State.queuedHead_eq_some_iff.1 h
    exact head
  · exact fun head => ⟨a, State.queuedHead_eq_some_iff.2 ⟨rfl, head⟩⟩

theorem State.ringHead_eq_none_iff {r : Ring} : s.ringHead l r = none ↔ ¬ ∃ a i, s.IsHead l r a i := by
  rw [State.ringHead, Option.map_eq_none_iff, leastBy_eq_none_iff, List.eq_nil_iff_forall_not_mem]
  exact ⟨fun h ⟨a, i, head⟩ => h (a, i) (State.mem_queuedHeads.2 head),
    fun h x mem => h ⟨x.1, x.2, State.mem_queuedHeads.1 mem⟩⟩

/-- The head of a ring with the lowest admission number (R52). -/
theorem State.ringHead_eq_some {r : Ring} {c : Candidate} (h : s.ringHead l r = some c) :
    ∃ a i, c = .head a i ∧ s.IsHead l r a i
      ∧ ∀ b j, s.IsHead l r b j → (s.entry i).admission.toNat ≤ (s.entry j).admission.toNat := by
  obtain ⟨⟨a, i⟩, least, rfl⟩ := Option.map_eq_some_iff.1 h
  exact ⟨a, i, rfl, State.mem_queuedHeads.1 (leastBy_mem least),
    fun b j head => leastBy_le least (b, j) (State.mem_queuedHeads.2 head)⟩

/-- A due collect of the line (R52). -/
def State.IsDue (s : State) (l : Line) (i : EntryIx) : Prop :=
  (s.entry i).state = .deferred ∧ (s.entry i).line = l ∧ (s.entry i).dueTime ≠ none

theorem State.mem_dueCollects {i : EntryIx} :
    i ∈ (List.finRange 64).filter (fun i => (s.entry i).state == .deferred && (s.entry i).line == l
      && (s.entry i).dueTime.isSome) ↔ s.IsDue l i := by
  simp [State.IsDue, Option.isSome_iff_ne_none, and_assoc]

theorem State.dueCollect_eq_none_iff : s.dueCollect l = none ↔ ¬ ∃ i, s.IsDue l i := by
  rw [State.dueCollect, Option.map_eq_none_iff, leastBy_eq_none_iff, List.eq_nil_iff_forall_not_mem]
  exact ⟨fun h ⟨i, due⟩ => h i (State.mem_dueCollects.2 due), fun h i mem => h ⟨i, State.mem_dueCollects.1 mem⟩⟩

/-- The due collect of the earliest increment, the lowest admission number among equals (R52). -/
theorem State.dueCollect_eq_some {c : Candidate} (h : s.dueCollect l = some c) :
    ∃ i, c = .collect i ∧ s.IsDue l i ∧ ∀ j, s.IsDue l j →
      (s.entry i).dueTime.getD 0 < (s.entry j).dueTime.getD 0
        ∨ ((s.entry i).dueTime.getD 0 = (s.entry j).dueTime.getD 0
          ∧ (s.entry i).admission.toNat ≤ (s.entry j).admission.toNat) := by
  obtain ⟨i, least, rfl⟩ := Option.map_eq_some_iff.1 h
  refine ⟨i, rfl, State.mem_dueCollects.1 (leastBy_mem least), fun j due => ?_⟩
  have key := leastBy_le least j (State.mem_dueCollects.2 due)
  have hi := (s.entry i).admission.isLt
  have hj := (s.entry j).admission.isLt
  omega

theorem State.fetchCandidate_eq_none_iff :
    s.fetchCandidate l = none ↔ ¬ ∃ a, a ≠ broadcastStation ∧ (s.station l a).attention = true := by
  rw [State.fetchCandidate, Option.map_eq_none_iff, nextAfter_eq_none_iff]
  simp

theorem State.fetchCandidate_eq_some {c : Candidate} (h : s.fetchCandidate l = some c) :
    ∃ a, c = .eventFetch a
      ∧ IsNext (s.line l).eventRotation (fun a => (s.station l a).attention = true) a := by
  obtain ⟨a, next, rfl⟩ := Option.map_eq_some_iff.1 h
  exact ⟨a, rfl, nextAfter_isNext next⟩

theorem State.mem_flushes {a : Station} : a ∈ realStations.filter (fun a => (s.station l a).flushDue.isSome) ↔
    a ≠ broadcastStation ∧ (s.station l a).flushDue ≠ none := by
  simp [mem_realStations, Option.isSome_iff_ne_none]

theorem State.flushCandidate_eq_none_iff :
    s.flushCandidate l = none ↔ ¬ ∃ a, a ≠ broadcastStation ∧ (s.station l a).flushDue ≠ none := by
  rw [State.flushCandidate, Option.map_eq_none_iff, leastBy_eq_none_iff, List.eq_nil_iff_forall_not_mem]
  exact ⟨fun h ⟨a, owes⟩ => h a (State.mem_flushes.2 owes), fun h a mem => h ⟨a, State.mem_flushes.1 mem⟩⟩

/-- The flush that became due first, the lowest address among equals (R52). -/
theorem State.flushCandidate_eq_some {c : Candidate} (h : s.flushCandidate l = some c) :
    ∃ a, c = .flush a ∧ (a ≠ broadcastStation ∧ (s.station l a).flushDue ≠ none)
      ∧ ∀ b, b ≠ broadcastStation ∧ (s.station l b).flushDue ≠ none →
        (s.station l a).flushDue.getD 0 < (s.station l b).flushDue.getD 0
          ∨ ((s.station l a).flushDue.getD 0 = (s.station l b).flushDue.getD 0
            ∧ addressOf a ≤ addressOf b) := by
  obtain ⟨a, least, rfl⟩ := Option.map_eq_some_iff.1 h
  refine ⟨a, rfl, State.mem_flushes.1 (leastBy_mem least), fun b owes => ?_⟩
  have key := leastBy_le least b (State.mem_flushes.2 owes)
  have ha := a.isLt
  have hb := b.isLt
  have val : ∀ c : Station, addressOf c = c.val + 1 := fun _ => rfl
  rw [val, val]
  omega

/-! ### The choice (R52, R54) -/

/-- The seven categories in their order (R52). -/
theorem State.choose_of_order (h : (s.line l).credit < 8 ∨ s.ringHead l .l = none) :
    s.choose l = firstOf
      [ if (s.line l).beaconDue then some .beacon else none, s.dueCollect l, s.ringHead l .h,
        s.fetchCandidate l, s.ringHead l .l, if (s.line l).reprobeDue then some .reprobe else none,
        s.flushCandidate l ] := by
  unfold State.choose
  dsimp only
  rw [if_neg]
  rintro ⟨full, some⟩
  rcases h with below | none
  · omega
  · rw [none] at some
    cases some

theorem State.choose_of_credit {c : Candidate} (full : 8 ≤ (s.line l).credit) (h : s.ringHead l .l = some c) :
    s.choose l = some c := by
  unfold State.choose
  dsimp only
  rw [if_pos ⟨full, by rw [h]; rfl⟩, h]

end

/-- Settles O49. -/
theorem arbiterOrder : Obligations.ArbiterOrder := by
  intro s l isHead first due dueAt low high asks owes owedAt ln round
  have ring : ∀ r, (∃ a i, isHead r a i) → ∃ c, s.ringHead l r = some c ∧ first r c := fun r some => by
    obtain ⟨c, h⟩ := Option.ne_none_iff_exists'.1 fun none => State.ringHead_eq_none_iff.1 none some
    exact ⟨c, h, State.ringHead_eq_some h⟩
  have noRing : ∀ r, (¬ ∃ a i, isHead r a i) → s.ringHead l r = none := fun r => State.ringHead_eq_none_iff.2
  refine ⟨fun full some => ?_, fun order => ?_⟩
  · obtain ⟨c, h, least⟩ := ring .l some
    exact ⟨c, State.choose_of_credit full h, least⟩
  have order' : (s.line l).credit < 8 ∨ s.ringHead l .l = none := order.imp_right (noRing .l)
  rw [State.choose_of_order order']
  refine ⟨fun beacon => ?_, fun beacon collects => ?_, fun beacon collects => ⟨fun some => ?_, fun noHigh =>
    ⟨fun some => ?_, fun noEvent => ⟨fun some => ?_, fun noLow => ⟨fun reprobe => ?_, fun reprobe =>
      ⟨fun some => ?_, fun noFlush => ?_⟩⟩⟩⟩⟩⟩
  · rw [show (s.line l).beaconDue = true from beacon]
    rfl
  · obtain ⟨c, h⟩ := Option.ne_none_iff_exists'.1 fun none => State.dueCollect_eq_none_iff.1 none collects
    obtain ⟨i, rfl, isDue, least⟩ := State.dueCollect_eq_some h
    rw [show (s.line l).beaconDue = false from beacon, h]
    exact ⟨i, rfl, isDue, least⟩
  all_goals rw [show (s.line l).beaconDue = false from beacon, State.dueCollect_eq_none_iff.2 collects]
  · obtain ⟨c, h, least⟩ := ring .h some
    rw [h]
    exact ⟨c, rfl, least⟩
  all_goals rw [noRing .h noHigh]
  · obtain ⟨c, h⟩ := Option.ne_none_iff_exists'.1 fun none => State.fetchCandidate_eq_none_iff.1 none some
    obtain ⟨a, rfl, next⟩ := State.fetchCandidate_eq_some h
    rw [h]
    exact ⟨a, rfl, next⟩
  all_goals rw [State.fetchCandidate_eq_none_iff.2 noEvent]
  · obtain ⟨c, h, least⟩ := ring .l some
    rw [h]
    exact ⟨c, rfl, least⟩
  all_goals rw [noRing .l noLow]
  · rw [show (s.line l).reprobeDue = true from reprobe]
    rfl
  all_goals rw [show (s.line l).reprobeDue = false from reprobe]
  · obtain ⟨c, h⟩ := Option.ne_none_iff_exists'.1 fun none => State.flushCandidate_eq_none_iff.1 none some
    obtain ⟨a, rfl, least⟩ := State.flushCandidate_eq_some h
    rw [h]
    exact ⟨a, rfl, least⟩
  · rw [State.flushCandidate_eq_none_iff.2 noFlush]
    rfl

end Sys2Proof.Machine

/-! The evaluation of the arbiter: what a grant does to the line, the entry and the station, and what the part
begins of itself before and after it (R42, R51, R53 to R57, R73, R82, R92, R106). -/

namespace Sys2Proof.Machine

/-! ### The work of a line between two wakes -/

section
variable {u v s : State}

theorem State.startsWithCopy_congr (h : ∀ i, (v.entry i).copyLength = (u.entry i).copyLength)
    (item : RetireItem) : v.startsWithCopy item = u.startsWithCopy item := by
  cases item <;> simp only [State.startsWithCopy, h]

/-- The posting that begins is the same before and after an operation that leaves the completion ring and the head
of the retire queue alone (R147). -/
theorem State.wakes_posting (running : u.device.state = .running) (device : v.device = u.device)
    (cplRing : v.cplRing = u.cplRing) (posting : v.retire.posting = u.retire.posting)
    (queue : u.retire.queue <+: v.retire.queue) (copies : ∀ i, (v.entry i).copyLength = (u.entry i).copyLength) :
    u.wake.PostingAfter v.wake := by
  have running' : v.device.state = .running := by rw [device, running]
  have room : v.hasRoom .completion = u.hasRoom .completion := by
    have cfg : v.cfg = u.cfg := by rw [State.cfg, State.cfg, device]
    show decide (v.cplRing.unseen < _) = decide (u.cplRing.unseen < _)
    rw [cplRing, cfg]
  refine ⟨fun busy => ?_, fun idle => State.wake_postingBegun running' ?_⟩
  · rw [State.wake_posting] at busy
    rw [State.wake_posting, State.wake_posting]
    by_cases idle : u.retire.posting = .idle
    · cases hq : u.retire.queue with
      | nil =>
        rw [State.beginPosting_of_waits (Or.inl hq)] at busy
        exact absurd idle busy
      | cons q rest =>
        cases hr : u.hasRoom .completion with
        | false =>
          rw [State.beginPosting_of_waits (Or.inr hr)] at busy
          exact absurd idle busy
        | true =>
          obtain ⟨more, hv⟩ := queue
          rw [hq] at hv
          rw [State.beginPosting_posting running idle hq hr, State.beginPosting_posting running'
            (posting.trans idle) hv.symm (room.trans hr), State.startsWithCopy_congr copies]
    · rw [State.beginPosting_of_busy idle, State.beginPosting_of_busy (by rw [posting]; exact idle), posting]
  · rw [State.wake_posting] at idle
    by_contra busy
    rw [posting] at busy
    rw [State.beginPosting_of_busy busy] at idle
    exact busy idle

/-- What the part begins of itself is the same before and after an operation that leaves the Admission Unit,
the rings and the head of the retire queue alone (R129, R147). -/
theorem State.wakes_begin (running : u.device.state = .running) (device : v.device = u.device)
    (cplRing : v.cplRing = u.cplRing) (unit : ∀ r, v.ringUnit r = u.ringUnit r)
    (stage : v.admission.stage = u.admission.stage) (credit : v.admission.credit = u.admission.credit)
    (posting : v.retire.posting = u.retire.posting) (queue : u.retire.queue <+: v.retire.queue)
    (copies : ∀ i, (v.entry i).copyLength = (u.entry i).copyLength) : u.wake.Begins v.wake := by
  have running' : v.device.state = .running := by rw [device, running]
  have sameStage : v.wake.admission.stage = u.wake.admission.stage := by
    rw [State.wake_stage u running, State.wake_stage v running', stage, credit, State.isReady, State.isReady,
      State.isReady, State.isReady, unit, unit]
  refine ⟨?_, State.wakes_posting running device cplRing posting queue copies⟩
  unfold State.StageAfter
  cases granted : u.wake.admission.stage with
  | some g => rw [sameStage, granted]
  | none =>
    have free : v.admission.stage = none := by
      cases held : v.admission.stage with
      | none => rfl
      | some g => rw [State.wake_stage_some u g (stage ▸ held)] at granted; cases granted
    exact State.wake_stage_regrant running' free

/-- A woken Indication Unit has nothing more to begin. -/
theorem State.wake_noIndication_wake (ind : v.ind = u.ind) (host : u.SameHost v) :
    u.wake.NoIndication v.wake := by
  show v.wake.ind = u.wake.beginIndication.ind
  rw [State.wake_ind, State.beginIndication_congr (s := u.beginIndication) (t := u.wake) (State.wake_ind u)
    (by simp) (by simp), State.beginIndication_idem]
  exact State.beginIndication_congr ind host.device host.indRing

/-- An operation on the work alone, between two wakes. -/
theorem State.ChangesWorkOnly.wake_sameRest (h : u.ChangesWorkOnly v) (running : u.device.state = .running)
    (store : v.store = u.store) (copies : ∀ i, (v.entry i).copyLength = (u.entry i).copyLength) :
    u.wake.SameRest v.wake := by
  have host : u.wake.SameHost v.wake := by
    obtain ⟨pending, resetInput, device, time, cplRing, indRing, notify, busWrites, freeSeq⟩ := h.host
    constructor <;> simpa
  have begins : u.wake.Begins v.wake := State.wakes_begin running h.host.device h.host.cplRing
    (fun r => by simp only [State.ringUnit, h.admission]) (by rw [h.admission]) (by rw [h.admission])
    (by rw [h.retire]) (by rw [h.retire]) copies
  refine ⟨host, ⟨fun r => ?_, ?_, ?_, ?_, ?_, fun g granted => ?_⟩, ?_, ?_,
    State.wake_noIndication_wake h.ind h.host, begins⟩
  · rw [State.wake_ringUnit, State.wake_ringUnit, State.ringUnit, State.ringUnit, h.admission]
  · rw [State.wake_credit, State.wake_credit, h.admission]
  · rw [State.wake_counter, State.wake_counter, h.admission]
  · rw [State.wake_places, State.wake_places, h.admission]
  · rw [State.wake_asked, State.wake_asked, h.admission]
  · have stage := begins.stage
    rw [State.StageAfter, granted] at stage
    exact stage
  · rw [State.wake_queue, State.wake_queue, h.retire]
  · rw [State.wake_store, State.wake_store, store]

/-- An operation on the work alone, and the wake after it. -/
theorem State.ChangesWorkOnly.sameRest_wake (h : s.ChangesWorkOnly v) (running : s.device.state = .running)
    (store : v.store = s.store) : s.SameRest v.wake := by
  have runs : v.device.state = .running := by rw [h.host.device, running]
  have begins : s.Begins v.wake := State.begins_wake (by rw [h.admission]) (by rw [h.retire]) runs
  exact ⟨h.host.trans (State.wake_sameHost v),
    (State.SameAdmission.of_eq h.admission).trans (State.wake_sameAdmission v),
    (State.wake_queue v).trans (congrArg RetireUnit.queue h.retire), (State.wake_store v).trans store,
    State.noIndication_wake h.ind h.host, begins⟩

theorem State.ChangesWorkOnly.trans {t : State} (h : s.ChangesWorkOnly u) (k : u.ChangesWorkOnly t) :
    s.ChangesWorkOnly t :=
  ⟨h.host.trans k.host, k.admission.trans h.admission, k.retire.trans h.retire, k.ind.trans h.ind⟩

theorem State.modStation_changesWorkOnly (s : State) (l : Line) (a : Station)
    (f : StationRecord → StationRecord) : s.ChangesWorkOnly (s.modStation l a f) :=
  ⟨⟨rfl, rfl, rfl, rfl, rfl, rfl, rfl, rfl, rfl⟩, rfl, rfl, rfl⟩

theorem State.modEntry_changesWorkOnly (s : State) (i : EntryIx) (f : Entry → Entry) :
    s.ChangesWorkOnly (s.modEntry i f) :=
  ⟨⟨rfl, rfl, rfl, rfl, rfl, rfl, rfl, rfl, rfl⟩, rfl, rfl, rfl⟩

end

/-! ### What a grant does (R42) -/

/-- The station record of a station that is owed a release, when a frame to it is granted (R73). -/
theorem StationRecord.granted_eq (r : StationRecord) (linger : Nat) :
    r.granted linger = if r.release = [] then r
      else { r with linger := Timer.start (1000 * linger), flushDue := none } := by
  unfold StationRecord.granted
  cases r.release <;> rfl

/-- The state a grant is made from: line `l` as `from_`, its rotations and credit set, and the entries as
`entries`. -/
structure State.Prepared (s v : State) (l : Line) (from_ : LineEngine) (entries : EntryIx → Entry) : Prop where
  line : v.line l = from_
  lines : ∀ m, m ≠ l → v.line m = s.line m
  params : from_.params = (s.line l).params
  beaconNumber : from_.beaconNumber = (s.line l).beaconNumber
  stations : v.stations = s.stations
  store : v.store = s.store
  entry : ∀ j, v.entry j = entries j
  changes : s.ChangesWorkOnly v

/-- The exchange `ex` was granted: TRANSMIT begins from the engine `from_`, with the entries as `entries`, and
the station that is owed a release has its linger timer restarted (R42, R73). -/
structure State.Granted (s v : State) (l : Line) (from_ : LineEngine) (ex : Exchange)
    (entries : EntryIx → Entry) : Prop where
  line : v.line l = from_.sending ex
  entry : ∀ j, v.entry j = entries j
  station : v.station l ex.station =
    if ex.station = broadcastStation then s.station l ex.station
    else (s.station l ex.station).granted (s.line l).params.releaseLinger
  others : ∀ c, c ≠ ex.station → v.station l c = s.station l c
  lines : s.SameOtherLines v l
  store : v.store = s.store
  changes : s.ChangesWorkOnly v

section
variable {s v : State} {l : Line} {from_ : LineEngine} {entries : EntryIx → Entry}

theorem State.prepared_credit (s : State) (l : Line) (c : Nat) :
    s.Prepared (s.modLine l fun ln => { ln with credit := c }) l { s.line l with credit := c } s.entry :=
  ⟨State.line_modLine_self _ _ _, fun _ other => (State.line_modLine _ _ _ _).trans (if_neg other.symm), rfl, rfl,
    rfl, rfl, fun _ => rfl, s.modLine_changesWorkOnly l _⟩

theorem State.Prepared.modLine (h : s.Prepared v l from_ entries) {f : LineEngine → LineEngine}
    (params : (f from_).params = from_.params) (number : (f from_).beaconNumber = from_.beaconNumber) :
    s.Prepared (v.modLine l f) l (f from_) entries :=
  ⟨(State.line_modLine_self _ _ _).trans (congrArg f h.line),
    fun m other => (State.line_modLine _ _ _ _).trans ((if_neg other.symm).trans (h.lines m other)),
    params.trans h.params, number.trans h.beaconNumber, h.stations, h.store, h.entry,
    h.changes.trans (v.modLine_changesWorkOnly l f)⟩

theorem State.Prepared.modEntry (h : s.Prepared v l from_ s.entry) (i : EntryIx) (f : Entry → Entry) :
    s.Prepared (v.modEntry i f) l from_ (fun j => if j = i then f (s.entry i) else s.entry j) := by
  refine ⟨h.line, h.lines, h.params, h.beaconNumber, h.stations, h.store, fun j => ?_,
    h.changes.trans (v.modEntry_changesWorkOnly i f)⟩
  rw [State.entry_modEntry, h.entry, h.entry]
  by_cases same : i = j
  · rw [if_pos same, if_pos same.symm]
  · rw [if_neg same, if_neg (Ne.symm same)]

theorem State.Prepared.station (h : s.Prepared v l from_ entries) (m : Line) (a : Station) :
    v.station m a = s.station m a := by rw [State.station, State.station, h.stations]

/-- A frame to a station 1 to 30, carrying its oldest release item (R55). -/
theorem State.Prepared.sendToStation (h : s.Prepared v l from_ entries) {a : Station}
    (real : a ≠ broadcastStation) (kind : MasterKind) (owner : Owner) (seq flag : Bool) (token : Nat)
    (payload : List Byte) :
    s.Granted (v.sendToStation l a kind owner seq flag token payload) l from_
      { kind := kind, owner := owner, station := a, seq := seq, flag := flag, token := token
        carried := (s.station l a).release.head?
        chars := masterChars kind (addressOf a) seq flag token (s.station l a).release.head? payload
        echoed := 0, beaconTime := 0, beaconNumber := 0 } entries := by
  let f : StationRecord → StationRecord := fun r => r.granted (v.line l).params.releaseLinger
  unfold State.sendToStation
  dsimp only
  rw [h.station]
  generalize hex : ({ kind := kind, owner := owner, station := a, seq := seq, flag := flag, token := token
                      carried := (s.station l a).release.head?
                      chars := masterChars kind (addressOf a) seq flag token (s.station l a).release.head? payload
                      echoed := 0, beaconTime := 0, beaconNumber := 0 } : Exchange) = ex
  have at_ : ex.station = a := by rw [← hex]
  let w := v.modLine l fun ln => ln.transmit ex
  have record : ∀ m c, (w.modStation l a f).station m c
      = if l = m ∧ a = c then f (v.station l a) else v.station m c := fun m c => State.station_modStation w l m a c f
  have lines : ∀ m, (w.modStation l a f).line m = if l = m then (v.line l).transmit ex else v.line m :=
    fun m => State.line_modLine v l m fun ln => ln.transmit ex
  refine ⟨?_, h.entry, ?_, fun c other => ?_, ⟨fun m other => ?_, fun m c other => ?_⟩, h.store,
    h.changes.trans ((v.modLine_changesWorkOnly l _).trans (w.modStation_changesWorkOnly l a f))⟩
  · exact (lines l).trans ((if_pos rfl).trans (congrArg (LineEngine.transmit · ex) h.line))
  · rw [at_, if_neg real]
    refine (record l a).trans ((if_pos ⟨rfl, rfl⟩).trans ?_)
    show (v.station l a).granted (v.line l).params.releaseLinger = _
    rw [h.station, h.line, h.params]
  · rw [at_] at other
    exact (record l c).trans ((if_neg fun e => other e.2.symm).trans (h.station l c))
  · exact (lines m).trans ((if_neg other.symm).trans (h.lines m other))
  · exact (record m c).trans ((if_neg fun e => other e.1.symm).trans (h.station m c))

/-- A frame to address 31: no SEQ, no flag, no release item (R9, R10, R92). -/
theorem State.Prepared.sendBroadcast (h : s.Prepared v l from_ entries) (kind : MasterKind) (owner : Owner)
    (payload : List Byte) :
    s.Granted (v.sendBroadcast l kind owner payload) l from_
      { kind := kind, owner := owner, station := broadcastStation, seq := false, flag := false
        token := 0, carried := none, chars := masterChars kind 31 false false 0 none payload
        echoed := 0, beaconTime := s.time.now, beaconNumber := (s.line l).beaconNumber } entries := by
  unfold State.sendBroadcast
  dsimp only
  rw [h.line, h.beaconNumber, h.changes.host.time]
  have lines : ∀ ex m, (v.modLine l fun ln => ln.transmit ex).line m
      = if l = m then (v.line l).transmit ex else v.line m := fun ex m => State.line_modLine v l m _
  refine ⟨?_, h.entry, ?_, fun c _ => h.station l c, ⟨fun m other => ?_, fun m c _ => h.station m c⟩, h.store,
    h.changes.trans (v.modLine_changesWorkOnly l _)⟩
  · exact (lines _ l).trans ((if_pos rfl).trans (congrArg (LineEngine.transmit · _) h.line))
  · rw [if_pos rfl]
    exact h.station l broadcastStation
  · exact (lines _ m).trans ((if_neg other.symm).trans (h.lines m other))

/-- A grant, as the part stands when it has begun what it may begin, before and after. -/
def State.GrantedWoken (s t : State) (l : Line) (from_ : LineEngine) (ex : Exchange)
    (entries : EntryIx → Entry) : Prop :=
  t.line l = from_.sending ex ∧ (∀ j, t.entry j = entries j)
    ∧ t.station l ex.station =
        (if ex.station = broadcastStation then s.station l ex.station
        else if (s.station l ex.station).release = [] then s.station l ex.station
          else { s.station l ex.station with
            linger := Timer.start (1000 * (s.line l).params.releaseLinger), flushDue := none })
    ∧ (∀ c, c ≠ ex.station → t.station l c = s.station l c)
    ∧ s.wake.SameOtherLines t l ∧ s.wake.SameRest t

/-- A grant, between two wakes. -/
theorem State.Granted.wake {ex : Exchange} (h : s.Granted v l from_ ex entries)
    (running : s.device.state = .running) (copies : ∀ i, (entries i).copyLength = (s.entry i).copyLength) :
    s.GrantedWoken v.wake l from_ ex entries := by
  refine ⟨by rw [State.wake_line, h.line], fun j => by rw [State.wake_entry, h.entry], ?_,
    fun c other => by rw [State.wake_station, h.others c other],
    ⟨fun m other => by rw [State.wake_line, State.wake_line, h.lines.lines m other],
      fun m c other => by rw [State.wake_station, State.wake_station, h.lines.stations m c other]⟩,
    h.changes.wake_sameRest running h.store fun i => by rw [h.entry, copies]⟩
  rw [State.wake_station, h.station, StationRecord.granted_eq]

end

end Sys2Proof.Machine

/-! What an evaluation of the arbiter grants, candidate by candidate (R51 to R57). -/

namespace Sys2Proof.Machine

theorem Table.set_set {α : Type} {n : Nat} (t : Table α n) (i : Fin n) (a b : α) :
    (t.set i a).set i b = t.set i b := by
  refine Table.ext_get fun j => ?_
  rw [Table.get_set, Table.get_set, Table.get_set]
  split <;> rfl

section
variable {u s : State} {l : Line}

/-! ### The choice before and after a wake -/

theorem State.SameWork.choose (h : s.SameWork u) (l : Line) : u.choose l = s.choose l := by
  have line : u.line = s.line := funext h.line
  have entry : u.entry = s.entry := funext fun i => congrArg (Table.get · i) h.entries
  have station : u.station = s.station := funext fun m => funext fun a => h.station m a
  have head : u.queuedHead = s.queuedHead := by
    funext m r a
    simp only [State.queuedHead, entry, station]
  have ring : u.ringHead = s.ringHead := by
    funext m r
    rw [State.ringHead, State.ringHead, entry, head]
  simp only [State.choose, ring, State.dueCollect, State.fetchCandidate, State.flushCandidate, line, entry,
    station]

theorem State.wake_choose (u : State) (l : Line) : u.wake.choose l = u.choose l := (State.wake_sameWork u).choose l

/-- An EVENT_FETCH is to a station 1 to 30, and so is the PROBE of a flush (R52). -/
theorem State.choose_real {a : Station} (h : u.choose l = some (.eventFetch a) ∨ u.choose l = some (.flush a)) :
    a ≠ broadcastStation := by
  have ringHead : ∀ r c, u.ringHead l r = some c → ∃ b i, c = .head b i := fun r c hr => by
    obtain ⟨b, i, e, -⟩ := State.ringHead_eq_some hr
    exact ⟨b, i, e⟩
  have member : ∀ c, u.choose l = some c → (∃ b i, c = .head b i) ∨ c = .beacon ∨ c = .reprobe
      ∨ u.dueCollect l = some c ∨ u.fetchCandidate l = some c ∨ u.flushCandidate l = some c := fun c hc => by
    by_cases full : 8 ≤ (u.line l).credit ∧ u.ringHead l .l ≠ none
    · obtain ⟨d, hd⟩ := Option.ne_none_iff_exists'.1 full.2
      rw [State.choose_of_credit full.1 hd] at hc
      exact Or.inl (ringHead _ _ (hd.trans hc))
    · rw [State.choose_of_order (by
        by_cases none : u.ringHead l .l = none
        · exact Or.inr none
        · exact Or.inl (Nat.lt_of_not_le fun h => full ⟨h, none⟩))] at hc
      have mem := firstOf_mem hc
      simp only [List.mem_cons, List.not_mem_nil, or_false] at mem
      rcases mem with e | e | e | e | e | e | e
      · split at e
        · exact Or.inr (Or.inl (Option.some.inj e))
        · cases e
      · exact Or.inr (Or.inr (Or.inr (Or.inl e.symm)))
      · exact Or.inl (ringHead _ _ e.symm)
      · exact Or.inr (Or.inr (Or.inr (Or.inr (Or.inl e.symm))))
      · exact Or.inl (ringHead _ _ e.symm)
      · split at e
        · exact Or.inr (Or.inr (Or.inl (Option.some.inj e)))
        · cases e
      · exact Or.inr (Or.inr (Or.inr (Or.inr (Or.inr e.symm))))
  rcases h with h | h
  · rcases member _ h with ⟨b, i, e⟩ | e | e | e | e | e
    · cases e
    · cases e
    · cases e
    · obtain ⟨i, e, -⟩ := State.dueCollect_eq_some e; cases e
    · obtain ⟨b, e, next⟩ := State.fetchCandidate_eq_some e
      cases e
      exact next.1.1
    · obtain ⟨b, e, -⟩ := State.flushCandidate_eq_some e; cases e
  · rcases member _ h with ⟨b, i, e⟩ | e | e | e | e | e
    · cases e
    · cases e
    · cases e
    · obtain ⟨i, e, -⟩ := State.dueCollect_eq_some e; cases e
    · obtain ⟨b, e, -⟩ := State.fetchCandidate_eq_some e; cases e
    · obtain ⟨b, e, real, -⟩ := State.flushCandidate_eq_some e
      cases e
      exact real.1

/-- Without a candidate of any category nothing is chosen (R52). -/
theorem State.NothingToGrant.choose (h : u.NothingToGrant l) : u.choose l = none := by
  obtain ⟨beacon, reprobe, collect, head, attention, flush⟩ := h
  have noHead : ∀ r, u.ringHead l r = none := fun r => State.ringHead_eq_none_iff.2 fun ⟨a, i, ⟨rest, fifo⟩, queued, _⟩ =>
    head a i rest fifo queued
  have noDue : u.dueCollect l = none :=
    State.dueCollect_eq_none_iff.2 fun ⟨i, deferred, line, due⟩ => due (collect i deferred line)
  have noFetch : u.fetchCandidate l = none := State.fetchCandidate_eq_none_iff.2 fun ⟨a, real, set⟩ => by
    rw [attention a real] at set; cases set
  have noFlush : u.flushCandidate l = none :=
    State.flushCandidate_eq_none_iff.2 fun ⟨a, real, due⟩ => due (flush a real)
  rw [State.choose_of_order (Or.inr (noHead .l)), beacon, reprobe, noHead, noHead, noDue, noFetch, noFlush]
  rfl

/-! ### One evaluation -/

theorem State.evaluateOnce_of_choice {c : Candidate} (idle : (u.line l).phase = .idle)
    (hunt : (u.line l).receiver = .hunt) (h : u.choose l = some c) : u.evaluateOnce l = u.grant l c := by
  simp [State.evaluateOnce, LineEngine.mayGrant, idle, hunt, h]

theorem State.evaluateOnce_of_none (h : u.choose l = none) : u.evaluateOnce l = u := by
  simp [State.evaluateOnce, h]

theorem State.evaluateOnce_of_away (h : (u.line l).receiver ≠ .hunt) : u.evaluateOnce l = u := by
  have may : (u.line l).mayGrant = false := by simp [LineEngine.mayGrant, h]
  simp [State.evaluateOnce, may]

theorem State.evaluateOnce_of_busy (h : (u.line l).phase ≠ .idle) : u.evaluateOnce l = u := by
  have may : (u.line l).mayGrant = false := by simp [LineEngine.mayGrant, h]
  simp [State.evaluateOnce, may]

theorem State.Granted.busy {v : State} {from_ : LineEngine} {ex : Exchange} {entries : EntryIx → Entry}
    (h : s.Granted v l from_ ex entries) : (v.line l).phase ≠ .idle := by
  rw [h.line]
  exact fun e => by cases e

/-- An evaluation that grants an exchange ends with it (R51). -/
theorem State.evaluate_of_granted {c : Candidate} {from_ : LineEngine} {ex : Exchange}
    {entries : EntryIx → Entry} (idle : (u.line l).phase = .idle) (hunt : (u.line l).receiver = .hunt)
    (h : u.choose l = some c) (g : u.Granted (u.grant l c) l from_ ex entries) :
    u.Granted (u.evaluate l) l from_ ex entries := by
  rw [State.evaluate, State.evaluateOnce_of_choice idle hunt h, State.evaluateOnce_of_busy g.busy]
  exact g

/-- The credit after a grant of one of the first four categories (R54). -/
def State.moreCredit (u : State) (l : Line) : Nat :=
  if (u.ringHead l .l).isSome ∧ (u.line l).credit < 8 then (u.line l).credit + 1 else (u.line l).credit

theorem State.moreCredit_eq {more : Nat}
    (counts : (∃ a i rest, (u.station l a).fifo = i :: rest ∧ (u.entry i).state = .queued
      ∧ (u.entry i).ring = .l) → (u.line l).credit < 8 → more = (u.line l).credit + 1)
    (stands : ¬ (∃ a i rest, (u.station l a).fifo = i :: rest ∧ (u.entry i).state = .queued
      ∧ (u.entry i).ring = .l) ∨ 8 ≤ (u.line l).credit → more = (u.line l).credit) :
    u.moreCredit l = more := by
  have waits : (u.ringHead l .l).isSome = true ↔ ∃ a i rest, (u.station l a).fifo = i :: rest
      ∧ (u.entry i).state = .queued ∧ (u.entry i).ring = .l := by
    rw [Option.isSome_iff_ne_none, ne_eq, State.ringHead_eq_none_iff, not_not]
    exact ⟨fun ⟨a, i, ⟨rest, fifo⟩, queued, ring⟩ => ⟨a, i, rest, fifo, queued, ring⟩,
      fun ⟨a, i, rest, fifo, queued, ring⟩ => ⟨a, i, ⟨rest, fifo⟩, queued, ring⟩⟩
  unfold State.moreCredit
  split
  · next h => exact (counts (waits.1 h.1) h.2).symm
  · next h =>
    refine (stands ?_).symm
    by_cases low : (u.ringHead l .l).isSome = true
    · exact Or.inr (Nat.le_of_not_lt fun below => h ⟨low, below⟩)
    · exact Or.inl fun head => low (waits.2 head)

/-- A FIFO head is granted: its POLL, or a SYNC first where the station is UNKNOWN or SUSPECT (R53, R82, R92). -/
theorem State.grant_head_sync {a : Station} {i : EntryIx} {purge : Bool} (real : a ≠ broadcastStation)
    (state : (u.station l a).state = if purge then .unknown else .suspect) :
    u.Granted (u.grant l (.head a i)) l
      { u.line l with credit := if (u.entry i).ring = .l then 0 else u.moreCredit l }
      { kind := .sync, owner := .station, station := a, seq := !(u.station l a).seqBit, flag := purge
        token := 0, carried := (u.station l a).release.head?
        chars := masterChars .sync (addressOf a) (!(u.station l a).seqBit) purge 0
          (u.station l a).release.head? []
        echoed := 0, beaconTime := 0, beaconNumber := 0 } u.entry := by
  have prepared := u.prepared_credit l (u.creditAfter l (.head a i))
  have sent := prepared.sendToStation real .sync .station (!(u.station l a).seqBit) purge 0 []
  have head : u.grant l (.head a i)
      = (u.modLine l fun ln => { ln with credit := u.creditAfter l (.head a i) }).grantSync l a purge := by
    show State.grantHead _ l a i = _
    unfold State.grantHead
    rw [prepared.station]
    cases purge with
    | true => rw [if_pos ⟨real, state⟩]
    | false =>
      have notUnknown : ¬ (a ≠ broadcastStation ∧ (u.station l a).state = .unknown) := fun h => by
        rw [state] at h
        cases h.2
      rw [if_neg notUnknown, if_pos ⟨real, state⟩]
  rw [head]
  exact sent

theorem State.grant_head_poll {a : Station} {i : EntryIx} (real : a ≠ broadcastStation)
    (unknown : (u.station l a).state ≠ .unknown) (suspect : (u.station l a).state ≠ .suspect) :
    u.Granted (u.grant l (.head a i)) l
      { u.line l with credit := if (u.entry i).ring = .l then 0 else u.moreCredit l }
      { kind := .poll, owner := .entry i, station := a, seq := (u.station l a).seqBit
        flag := (u.entry i).deferOk, token := 0, carried := (u.station l a).release.head?
        chars := masterChars .poll (addressOf a) (u.station l a).seqBit (u.entry i).deferOk 0
          (u.station l a).release.head? (u.requestPayload i)
        echoed := 0, beaconTime := 0, beaconNumber := 0 }
      (fun j => if j = i then
          { u.entry i with
            state := .exchange, attemptsUsed := (u.entry i).attemptsUsed + 1, everSent := true }
        else u.entry j) := by
  have prepared := (u.prepared_credit l (u.creditAfter l (.head a i))).modEntry i fun e =>
    { e with state := .exchange, attemptsUsed := e.attemptsUsed + 1, everSent := true }
  have sent := prepared.sendToStation real .poll (.entry i) (u.station l a).seqBit (u.entry i).deferOk 0
    (u.requestPayload i)
  have head : u.grant l (.head a i)
      = (u.modLine l fun ln => { ln with credit := u.creditAfter l (.head a i) }).grantPoll l a i := by
    show State.grantHead _ l a i = _
    unfold State.grantHead
    rw [State.modLine_station, if_neg fun h => unknown h.2, if_neg fun h => suspect h.2]
  rw [head]
  unfold State.grantPoll
  rw [if_neg real]
  exact sent

theorem State.grant_head_broadcast (i : EntryIx) :
    u.Granted (u.grant l (.head broadcastStation i)) l
      { u.line l with credit := if (u.entry i).ring = .l then 0 else u.moreCredit l }
      { kind := .poll, owner := .entry i, station := broadcastStation, seq := false, flag := false
        token := 0, carried := none
        chars := masterChars .poll 31 false false 0 none (u.requestPayload i)
        echoed := 0, beaconTime := u.time.now, beaconNumber := (u.line l).beaconNumber }
      (fun j => if j = i then
          { u.entry i with
            state := .exchange, attemptsUsed := (u.entry i).attemptsUsed + 1, everSent := true }
        else u.entry j) := by
  have prepared := (u.prepared_credit l (u.creditAfter l (.head broadcastStation i))).modEntry i fun e =>
    { e with state := .exchange, attemptsUsed := e.attemptsUsed + 1, everSent := true }
  have sent := prepared.sendBroadcast .poll (.entry i) (u.requestPayload i)
  have head : u.grant l (.head broadcastStation i) = (u.modLine l fun ln =>
      { ln with credit := u.creditAfter l (.head broadcastStation i) }).grantPoll l broadcastStation i := by
    show State.grantHead _ l broadcastStation i = _
    unfold State.grantHead
    rw [if_neg fun h => h.1 rfl, if_neg fun h => h.1 rfl]
  rw [head]
  unfold State.grantPoll
  rw [if_pos rfl]
  exact sent

theorem State.grant_collect {a : Station} {i : EntryIx} (real : a ≠ broadcastStation)
    (station : (u.entry i).station = some a) :
    u.Granted (u.grant l (.collect i)) l { u.line l with credit := u.moreCredit l }
      { kind := .collect, owner := .entry i, station := a, seq := false, flag := false
        token := (u.entry i).token.getD 0, carried := (u.station l a).release.head?
        chars := masterChars .collect (addressOf a) false false ((u.entry i).token.getD 0)
          (u.station l a).release.head? []
        echoed := 0, beaconTime := 0, beaconNumber := 0 }
      (fun j => if j = i then
          { u.entry i with
            state := .exchange, collectAttemptsUsed := (u.entry i).collectAttemptsUsed + 1
            dueTime := none }
        else u.entry j) := by
  have prepared := (u.prepared_credit l (u.creditAfter l (.collect i))).modEntry i fun e =>
    { e with state := .exchange, collectAttemptsUsed := e.collectAttemptsUsed + 1, dueTime := none }
  have sent := prepared.sendToStation real .collect (.entry i) false false ((u.entry i).token.getD 0) []
  show u.Granted (State.grantCollect _ l i) l _ _ _
  unfold State.grantCollect
  rw [State.modLine_entry, station]
  exact sent

theorem State.grant_eventFetch {a : Station} (real : a ≠ broadcastStation) :
    u.Granted (u.grant l (.eventFetch a)) l
      { u.line l with credit := u.moreCredit l, eventRotation := addressOf a }
      { kind := .eventFetch, owner := .station, station := a, seq := false, flag := false
        token := 0, carried := (u.station l a).release.head?
        chars := masterChars .eventFetch (addressOf a) false false 0 (u.station l a).release.head? []
        echoed := 0, beaconTime := 0, beaconNumber := 0 } u.entry :=
  ((u.prepared_credit l (u.creditAfter l (.eventFetch a))).modLine
    (f := fun ln => { ln with eventRotation := addressOf a }) rfl rfl).sendToStation real .eventFetch .station
    false false 0 []

theorem State.grant_flush {a : Station} (real : a ≠ broadcastStation) :
    u.Granted (u.grant l (.flush a)) l (u.line l)
      { kind := .probe, owner := .station, station := a, seq := false, flag := false
        token := 0, carried := (u.station l a).release.head?
        chars := masterChars .probe (addressOf a) false false 0 (u.station l a).release.head? []
        echoed := 0, beaconTime := 0, beaconNumber := 0 } u.entry :=
  (u.prepared_credit l (u.creditAfter l (.flush a))).sendToStation real .probe .station false false 0 []

theorem State.grant_beacon :
    u.Granted (u.grant l .beacon) l { u.line l with credit := u.moreCredit l, beaconDue := false }
      { kind := .beacon, owner := .beacon, station := broadcastStation, seq := false, flag := false
        token := 0, carried := none
        chars := masterChars .beacon 31 false false 0 none
          (le32 u.time.now ++ le16 (u.line l).beaconNumber)
        echoed := 0, beaconTime := u.time.now, beaconNumber := (u.line l).beaconNumber } u.entry := by
  have prepared := u.prepared_credit l (u.creditAfter l .beacon)
  have sent := (prepared.modLine (f := fun ln => { ln with beaconDue := false }) rfl rfl).sendBroadcast .beacon
    .beacon (le32 u.time.now ++ le16 (u.line l).beaconNumber)
  show u.Granted (State.grantBeacon _ l) l _ _ _
  unfold State.grantBeacon
  rw [prepared.line]
  exact sent

/-- A re-probe with an OFFLINE station: a SYNC with PURGE to the next after the probe rotation (R56). -/
theorem State.grant_reprobe {a : Station} (next : u.nextOffline l = some a) (real : a ≠ broadcastStation) :
    u.Granted (u.grant l .reprobe) l { u.line l with reprobeDue := false, probeRotation := addressOf a }
      { kind := .sync, owner := .station, station := a, seq := !(u.station l a).seqBit, flag := true
        token := 0, carried := (u.station l a).release.head?
        chars := masterChars .sync (addressOf a) (!(u.station l a).seqBit) true 0
          (u.station l a).release.head? []
        echoed := 0, beaconTime := 0, beaconNumber := 0 } u.entry := by
  have prepared := ((u.prepared_credit l (u.creditAfter l .reprobe)).modLine
    (f := fun ln => { ln with reprobeDue := false }) rfl rfl).modLine
    (f := fun ln => { ln with probeRotation := addressOf a }) rfl rfl
  have sent := prepared.sendToStation real .sync .station (!(u.station l a).seqBit) true 0 []
  have same : (u.modLine l fun ln => { ln with credit := u.creditAfter l .reprobe }).nextOffline l = some a := by
    unfold State.nextOffline
    rw [State.line_modLine_self]
    exact next
  show u.Granted (State.grantReprobe _ l) l _ _ _
  unfold State.grantReprobe
  rw [same]
  exact sent

/-- A re-probe without an OFFLINE station clears its flag alone (R56). -/
theorem State.grant_reprobe_none (next : u.nextOffline l = none) :
    u.grant l .reprobe = u.setLine l { u.line l with reprobeDue := false } := by
  have same : (u.modLine l fun ln => { ln with credit := u.creditAfter l .reprobe }).nextOffline l = none := by
    unfold State.nextOffline
    rw [State.line_modLine_self]
    exact next
  have twice : ∀ (x y : LineEngine), (u.setLine l x).setLine l y = u.setLine l y := fun x y =>
    congrArg (fun t => { u with lines := t }) (Table.set_set _ _ _ _)
  show State.grantReprobe _ l = _
  unfold State.grantReprobe
  rw [same]
  exact (twice _ _).trans (by rw [State.line_modLine_self]; rfl)

/-! ### The evaluation between two wakes -/

theorem State.offline_next_iff {round : Nat} {a : Station} :
    IsNext round (fun a => ((u.station l a).state == .offline) = true) a ↔
      IsNext round (fun a => (u.station l a).state = .offline) a := by
  simp only [beq_iff_eq]

theorem State.nextOffline_of_isNext {a : Station}
    (h : IsNext (u.line l).probeRotation (fun a => (u.station l a).state = .offline) a) :
    u.nextOffline l = some a := by
  cases found : u.nextOffline l with
  | none =>
    have none := nextAfter_eq_none_iff.1 found a h.1.1
    rw [h.1.2] at none
    exact absurd none (by decide)
  | some b => rw [IsNext.unique (State.offline_next_iff.1 (nextAfter_isNext found)) h]

theorem State.nextOffline_of_none (h : ∀ a, ¬ (a ≠ broadcastStation ∧ (u.station l a).state = .offline)) :
    u.nextOffline l = none :=
  nextAfter_eq_none_iff.2 fun a real => by simpa using fun state => h a ⟨real, state⟩

/-- The arbiter of an IDLE line was evaluated, between two wakes (R51). -/
theorem State.evaluates_wake (running : u.device.state = .running) (idle : (u.line l).phase = .idle) :
    u.wake.Evaluates (u.evaluate l).wake l := by
  generalize result : (u.evaluate l).wake = t
  unfold State.Evaluates
  simp only [State.wake_line, State.wake_station, State.wake_entry, State.wake_time, State.wake_choose,
    State.wake_store]
  refine ⟨fun h => ?_, fun hunt more counts stands => ?_⟩
  · have same : u.evaluate l = u := by
      rcases h with away | nothing
      · rw [State.evaluate, State.evaluateOnce_of_away away, State.evaluateOnce_of_away away]
      · have none : u.choose l = none := by
          rw [← State.wake_choose]
          exact nothing.choose
        rw [State.evaluate, State.evaluateOnce_of_none none, State.evaluateOnce_of_none none]
    rw [← result, same]
  · rw [← State.moreCredit_eq counts stands]
    have granted : ∀ {c from_ ex entries}, u.choose l = some c → u.Granted (u.grant l c) l from_ ex entries →
        (∀ i, (entries i).copyLength = (u.entry i).copyLength) →
        u.GrantedWoken t l from_ ex entries := fun choice grant copies =>
      result ▸ (State.evaluate_of_granted idle hunt choice grant).wake running copies
    have changed : ∀ {i : EntryIx} {e : Entry}, e.copyLength = (u.entry i).copyLength →
        ∀ j, (if j = i then e else u.entry j).copyLength = (u.entry j).copyLength := fun h j => by
      split
      · next same => rw [same]; exact h
      · rfl
    refine ⟨fun a i choice => ⟨fun real unknown suspect => ?_, fun broadcast => ?_, fun real state => ?_,
      fun real state => ?_⟩, fun a i choice station real => ?_, fun a choice => ?_, fun a choice => ?_,
      fun choice => ?_, fun choice => ⟨fun a offline next => ?_, fun none => ?_⟩⟩
    · exact granted choice (State.grant_head_poll real unknown suspect) (changed rfl)
    · subst broadcast
      exact granted choice (State.grant_head_broadcast i) (changed rfl)
    · exact granted choice (State.grant_head_sync real (purge := true) state) fun _ => rfl
    · exact granted choice (State.grant_head_sync real (purge := false) state) fun _ => rfl
    · exact granted choice (State.grant_collect real station) (changed rfl)
    · exact granted choice (State.grant_eventFetch (State.choose_real (Or.inl choice))) fun _ => rfl
    · exact granted choice (State.grant_flush (State.choose_real (Or.inr choice))) fun _ => rfl
    · exact granted choice State.grant_beacon fun _ => rfl
    · exact granted choice (State.grant_reprobe (State.nextOffline_of_isNext ⟨offline, next⟩) offline.1)
        fun _ => rfl
    · let v := u.setLine l { u.line l with reprobeDue := false }
      have once : u.evaluateOnce l = v := by
        rw [State.evaluateOnce_of_choice idle hunt choice]
        exact State.grant_reprobe_none (State.nextOffline_of_none none)
      have evaluated : u.evaluate l = v.evaluateOnce l := by rw [State.evaluate, once]
      have line : v.line l = { u.line l with reprobeDue := false } := State.line_setLine_self _ _ _
      have changes : u.ChangesWorkOnly v := ⟨⟨rfl, rfl, rfl, rfl, rfl, rfl, rfl, rfl, rfl⟩, rfl, rfl, rfl⟩
      have wakes : (u.wake.setLine l { u.line l with reprobeDue := false }).choose l = v.choose l := by
        have work : v.SameWork (u.wake.setLine l { u.line l with reprobeDue := false }) :=
          ⟨congrArg (fun t : Table LineEngine 4 => t.set l { u.line l with reprobeDue := false })
            (State.wake_lines u), State.wake_stations u, State.wake_entries u, State.wake_store u⟩
        exact work.choose l
      rw [wakes, ← result, evaluated]
      refine ⟨fun a flush => ?_, fun nothing => ?_⟩
      · rw [State.evaluateOnce_of_choice (by rw [line]; exact idle) (by rw [line]; exact hunt) flush]
        have real := State.choose_real (Or.inr flush)
        have cleared : u.Prepared v l { u.line l with reprobeDue := false } u.entry :=
          ⟨line, fun m other => (State.line_setLine _ _ _ _).trans (if_neg other.symm), rfl, rfl, rfl, rfl,
            fun _ => rfl, changes⟩
        have prepared := cleared.modLine (f := fun ln => { ln with credit := v.creditAfter l (.flush a) }) rfl rfl
        have credit : v.creditAfter l (.flush a) = (u.line l).credit := by
          show (v.line l).credit = _
          rw [line]
        rw [credit] at prepared
        have sent := (prepared.sendToStation real .probe .station false false 0 []).wake running fun _ => rfl
        have grant : v.grant l (.flush a) = (v.modLine l fun ln => { ln with credit := (u.line l).credit }).sendToStation
            l a .probe .station false false 0 [] := by rw [← credit]; rfl
        rw [grant]
        exact sent
      · rw [State.evaluateOnce_of_none nothing]
        refine ⟨by rw [State.wake_line, line], fun m other => ?_, fun m a => ?_, fun i => ?_,
          changes.wake_sameRest running rfl fun _ => rfl⟩
        · rw [State.wake_line, State.wake_line]
          exact (State.line_setLine _ _ _ _).trans (if_neg other.symm)
        · rw [State.wake_station, State.wake_station]
          rfl
        · rw [State.wake_entry, State.wake_entry]
          rfl

end

end Sys2Proof.Machine

/-! The retirement of one entry (R89, R98, R99): its steps, and the FENCEs that count it. -/

namespace Sys2Proof.Machine

/-! ### What no retirement touches -/

/-- What every retirement leaves as it was: the lines, the Payload Store, the host's side, the Admission Unit but
for its places, and the posting; the retire queue only grows. -/
structure State.RetireFrame (s t : State) : Prop where
  lines : t.lines = s.lines
  store : t.store = s.store
  host : s.SameHost t
  unit : ∀ r, t.ringUnit r = s.ringUnit r
  credit : t.admission.credit = s.admission.credit
  counter : t.admission.counter = s.admission.counter
  asked : t.admission.asked = s.admission.asked
  stage : t.admission.stage = s.admission.stage
  posting : t.retire.posting = s.retire.posting
  queue : s.retire.queue <+: t.retire.queue
  copies : ∀ j, (t.entry j).copyLength = (s.entry j).copyLength

section
variable {s t u v : State} {i : EntryIx} {status : Status} {release : Option Nat} {abort : Option PlaceIx}

theorem State.RetireFrame.refl (s : State) : s.RetireFrame s :=
  ⟨rfl, rfl, State.SameHost.refl s, fun _ => rfl, rfl, rfl, rfl, rfl, rfl, List.prefix_refl _, fun _ => rfl⟩

theorem State.RetireFrame.trans (h : s.RetireFrame t) (k : t.RetireFrame u) : s.RetireFrame u :=
  ⟨k.lines.trans h.lines, k.store.trans h.store, h.host.trans k.host, fun r => (k.unit r).trans (h.unit r),
    k.credit.trans h.credit, k.counter.trans h.counter, k.asked.trans h.asked, k.stage.trans h.stage,
    k.posting.trans h.posting, h.queue.trans k.queue, fun j => (k.copies j).trans (h.copies j)⟩

theorem State.RetireFrame.line (h : s.RetireFrame t) (l : Line) : t.line l = s.line l := by
  rw [State.line, h.lines, State.line]

theorem Entry.copyLength_congr {e f : Entry} (kind : f.kind = e.kind)
    (reply : f.replyTrueLength = e.replyTrueLength) (buffer : f.replyBufferLength = e.replyBufferLength) :
    f.copyLength = e.copyLength := by
  unfold Entry.copyLength
  rw [kind, reply, buffer]

theorem Entry.retired_copyLength (e : Entry) (status : Status) : (e.retired status).copyLength = e.copyLength :=
  Entry.copyLength_congr rfl rfl rfl

/-! ### The station record (R89, steps 1 and 4) -/

theorem StationRecord.unlink_eq_afterRetire (r : StationRecord) (i : EntryIx) (active : Bool) (linger : Nat) :
    r.unlink i = r.afterRetire i none active linger := rfl

theorem StationRecord.unlink_append_eq_afterRetire (r : StationRecord) (i : EntryIx) (token : Nat)
    (active : Bool) (linger : Nat) :
    (r.unlink i).appendRelease { kind := .deferred, token := token } active linger
      = r.afterRetire i (some token) active linger := by
  unfold StationRecord.appendRelease StationRecord.afterRetire StationRecord.unlink
  dsimp only
  split
  · rfl
  · cases list : r.release <;> cases active <;> simp [ms]

theorem StationRecord.afterRetire_state (r : StationRecord) (i : EntryIx) (release : Option Nat)
    (active : Bool) (linger : Nat) : (r.afterRetire i release active linger).state = r.state := by
  unfold StationRecord.afterRetire
  cases release with
  | none => rfl
  | some token => dsimp only; split <;> rfl

theorem StationRecord.afterRetire_statusWord (r : StationRecord) (i : EntryIx) (release : Option Nat)
    (active : Bool) (linger : Nat) :
    (r.afterRetire i release active linger).statusWord = r.statusWord := by
  unfold StationRecord.afterRetire
  cases release with
  | none => rfl
  | some token => dsimp only; split <;> rfl

theorem State.setStation_setStation (s : State) (l : Line) (a : Station) (r x : StationRecord) :
    (s.setStation l a r).setStation l a x = s.setStation l a x := by
  unfold State.setStation
  dsimp only
  rw [Table.get_set_self, Table.set_set, Table.set_set]

/-- The state after steps 1 to 4 of R89. -/
def State.settled (s : State) (i : EntryIx) (status : Status) (release : Option Nat) : State :=
  ((s.unlinkEntry i).setEntry i ((s.entry i).retired status)).settleToken (s.entry i).line (s.entry i).station
    release

theorem State.retireCore_eq (s : State) (i : EntryIx) (status : Status) (release : Option Nat)
    (abort : Option PlaceIx) :
    s.retireCore i status release abort
      = (((s.settled i status release).enqueue (.entry i)).makeSuspect (s.entry i).line (s.entry i).station
          ((s.entry i).finalFlags status).mayHaveExecuted).finishAbort abort status := rfl

theorem State.settled_of_none (h : (s.entry i).station = none) :
    s.settled i status release = s.setEntry i ((s.entry i).retired status) := by
  simp only [State.settled, State.unlinkEntry, h, State.settleToken]

/-- Steps 1 to 4 of R89 for an entry of station `a` reach its station record and the entry alone. -/
theorem State.settled_of_some {a : Station} (h : (s.entry i).station = some a) :
    s.settled i status release
      = (s.modStation (s.entry i).line a fun _ => s.unlinked i a release).setEntry i
          ((s.entry i).retired status) := by
  have twice : ∀ (m : Line) (r x : StationRecord) (e : Entry),
      ((s.setStation m a r).setEntry i e).setStation m a x = (s.setStation m a x).setEntry i e :=
    fun m r x e => congrArg (State.setEntry · i e) (State.setStation_setStation s m a r x)
  unfold State.settled
  rw [State.unlinkEntry, h]
  cases release with
  | none =>
    show State.setEntry _ _ _ = _
    rw [State.unlinked, ite_self, ← StationRecord.unlink_eq_afterRetire]
    rfl
  | some token =>
    show State.appendRelease _ _ a _ = _
    unfold State.appendRelease State.unlinked
    by_cases broadcast : a = broadcastStation
    · rw [if_pos broadcast, if_pos broadcast, ← StationRecord.unlink_eq_afterRetire]
      rfl
    · rw [if_neg broadcast, if_neg broadcast, ← StationRecord.unlink_append_eq_afterRetire]
      unfold State.modStation
      rw [State.setEntry_station, State.station_setStation_self, twice]
      rfl

/-! ### The entry that retires (R89, steps 1 to 7) -/

/-- The immediate places when the ABORT in place `abort`, if any, is fixed by a retirement with `status` (R96). -/
def State.placesFixed (s : State) (abort : Option PlaceIx) (status : Status) : Table (Option Immediate) 8 :=
  (s.finishAbort abort status).admission.places

/-- What joins the retire queue behind the entry: the ABORT in place `abort`, if any (R96). -/
def State.abortItems (s : State) : Option PlaceIx → List QueuedItem
  | none => []
  | some p => if s.admission.places.get p = none then []
    else [{ item := .immediate p, stamp := s.time.now }]

/-- What the ABORT of an entry changes when the entry retires: its place, and the retire queue (R96). -/
theorem State.finishAbort_frame (s : State) (abort : Option PlaceIx) (status : Status) :
    let u := s.finishAbort abort status
    s.RetireFrame u ∧ u.stations = s.stations ∧ u.entries = s.entries ∧ u.ind = s.ind
      ∧ u.retire.queue = s.retire.queue ++ s.abortItems abort := by
  cases abort with
  | none => exact ⟨State.RetireFrame.refl s, rfl, rfl, rfl, (List.append_nil _).symm⟩
  | some p =>
    cases place : s.admission.places.get p with
    | none =>
      have same : s.finishAbort (some p) status = s := by simp only [State.finishAbort, place]
      rw [same, State.abortItems, if_pos place]
      exact ⟨State.RetireFrame.refl s, rfl, rfl, rfl, (List.append_nil _).symm⟩
    | some c =>
      simp only [State.finishAbort, place, State.abortItems, reduceCtorEq, if_false]
      exact ⟨⟨rfl, rfl, ⟨rfl, rfl, rfl, rfl, rfl, rfl, rfl, rfl, rfl⟩, fun _ => rfl, rfl, rfl, rfl, rfl, rfl,
        List.prefix_append _ _, fun _ => rfl⟩, rfl, rfl, rfl, rfl⟩

/-- The entry retired: steps 1 to 7 of R89, before any FENCE counts it. -/
structure State.CoreRetires (s v : State) (i : EntryIx) (status : Status) (release : Option Nat)
    (abort : Option PlaceIx) : Prop where
  frame : s.RetireFrame v
  entry : v.entry i = (s.entry i).retired status
  entries : ∀ j, j ≠ i → v.entry j = s.entry j
  queue : v.retire.queue
    = s.retire.queue ++ ({ item := .entry i, stamp := s.time.now } :: s.abortItems abort)
  places : v.admission.places = s.placesFixed abort status
  stations : ∀ m c, ¬ (m = (s.entry i).line ∧ (s.entry i).station = some c) → v.station m c = s.station m c
  certain : ∀ a, (s.entry i).station = some a → ¬ s.Suspects i a status →
    v.station (s.entry i).line a = s.unlinked i a release
  suspect : ∀ a, (s.entry i).station = some a → s.Suspects i a status →
    v.station (s.entry i).line a = { s.unlinked i a release with state := .suspect }
      ∧ v.ind = (s.indicate (s.entry i).line (.stationState (addressOf a) .online .suspect .retireUncertain
          ((s.station (s.entry i).line a).statusWord.getD 0))).ind
  silent : (∀ a, (s.entry i).station = some a → ¬ s.Suspects i a status) → v.ind = s.ind

theorem State.unlinked_state (s : State) (i : EntryIx) (a : Station) (release : Option Nat) :
    (s.unlinked i a release).state = (s.station (s.entry i).line a).state :=
  StationRecord.afterRetire_state _ _ _ _ _

theorem State.unlinked_statusWord (s : State) (i : EntryIx) (a : Station) (release : Option Nat) :
    (s.unlinked i a release).statusWord = (s.station (s.entry i).line a).statusWord :=
  StationRecord.afterRetire_statusWord _ _ _ _ _

/-- The ABORT of the entry completes after steps 1 to 6 (R89, step 7). -/
theorem State.CoreRetires.finishAbort (h : s.CoreRetires v i status release none)
    (places : v.admission.places = s.admission.places) (abort : Option PlaceIx) :
    s.CoreRetires (v.finishAbort abort status) i status release abort := by
  obtain ⟨frame, stations, entries, ind, queue⟩ := v.finishAbort_frame abort status
  have entry : ∀ j, (v.finishAbort abort status).entry j = v.entry j := fun j => congrArg (Table.get · j) entries
  have station : ∀ m c, (v.finishAbort abort status).station m c = v.station m c := fun m c => by
    rw [State.station, State.station, stations]
  have fixed : (v.finishAbort abort status).admission.places = s.placesFixed abort status := by
    unfold State.placesFixed
    cases abort with
    | none => exact places
    | some p =>
      simp only [State.finishAbort, places]
      cases place : s.admission.places.get p with
      | none => exact places
      | some c => exact congrArg (Table.set · p _) places
  have items : v.abortItems abort = s.abortItems abort := by
    cases abort with
    | none => rfl
    | some p => simp only [State.abortItems, places, h.frame.host.time]
  refine ⟨h.frame.trans frame, (entry i).trans h.entry, fun j other => (entry j).trans (h.entries j other), ?_, fixed,
    fun m c other => (station m c).trans (h.stations m c other), fun a own calm => (station _ a).trans (h.certain a own calm),
    fun a own bad => ?_, fun calm => ind.trans (h.silent calm)⟩
  · rw [queue, h.queue, items, List.append_assoc]
    rfl
  · obtain ⟨record, given⟩ := h.suspect a own bad
    exact ⟨(station _ a).trans record, ind.trans given⟩

/-- An entry that names no station retires. -/
theorem State.coreRetires_of_none (h : (s.entry i).station = none) :
    s.CoreRetires ((s.setEntry i ((s.entry i).retired status)).enqueue (.entry i)) i status release none := by
  have noStation : ∀ a, (s.entry i).station ≠ some a := fun a e => by rw [h] at e; cases e
  have entry : ∀ j, (s.setEntry i ((s.entry i).retired status)).entry j
      = if i = j then (s.entry i).retired status else s.entry j := fun j => State.entry_setEntry _ _ _ _
  refine ⟨⟨rfl, rfl, ⟨rfl, rfl, rfl, rfl, rfl, rfl, rfl, rfl, rfl⟩, fun _ => rfl, rfl, rfl, rfl, rfl, rfl,
    List.prefix_append _ _, fun j => ?_⟩, (entry i).trans (if_pos rfl), fun j other => (entry j).trans (if_neg other.symm),
    rfl, rfl, fun _ _ _ => rfl, fun a own => absurd own (noStation a), fun a own => absurd own (noStation a),
    fun _ => rfl⟩
  refine (congrArg Entry.copyLength (entry j)).trans ?_
  split
  · next same => rw [← same, Entry.retired_copyLength]
  · rfl

/-- The state after steps 1 to 5 of R89 for an entry of station `a`. -/
def State.recorded (s : State) (i : EntryIx) (a : Station) (status : Status) (release : Option Nat) : State :=
  ((s.modStation (s.entry i).line a fun _ => s.unlinked i a release).setEntry i
    ((s.entry i).retired status)).enqueue (.entry i)

theorem State.recorded_station (s : State) (i : EntryIx) (a : Station) (status : Status)
    (release : Option Nat) (m : Line) (c : Station) :
    (s.recorded i a status release).station m c
      = if (s.entry i).line = m ∧ a = c then s.unlinked i a release else s.station m c :=
  State.station_modStation s _ m a c fun _ => s.unlinked i a release

theorem State.recorded_entry (s : State) (i : EntryIx) (a : Station) (status : Status) (release : Option Nat)
    (j : EntryIx) :
    (s.recorded i a status release).entry j = if i = j then (s.entry i).retired status else s.entry j :=
  State.entry_setEntry (s.modStation _ a _) i j _

theorem State.recorded_frame (s : State) (i : EntryIx) (a : Station) (status : Status) (release : Option Nat) :
    s.RetireFrame (s.recorded i a status release) := by
  refine ⟨rfl, rfl, ⟨rfl, rfl, rfl, rfl, rfl, rfl, rfl, rfl, rfl⟩, fun _ => rfl, rfl, rfl, rfl, rfl, rfl,
    List.prefix_append _ _, fun j => ?_⟩
  rw [State.recorded_entry]
  split
  · next same => rw [← same, Entry.retired_copyLength]
  · rfl

/-- The retirement of an entry of station `a` leaves the record `r` uncertain (R67). -/
theorem State.makeSuspect_of_calm {l : Line} {a : Station} {may : Bool}
    (h : ¬ (may = true ∧ a ≠ broadcastStation ∧ (s.station l a).state = .online)) :
    s.makeSuspect l (some a) may = s := by
  refine if_neg fun e => h ?_
  simpa [and_assoc] using e

theorem State.makeSuspect_of_uncertain {l : Line} {a : Station} {may : Bool}
    (h : may = true ∧ a ≠ broadcastStation ∧ (s.station l a).state = .online) :
    s.makeSuspect l (some a) may = (s.modStation l a fun r => { r with state := .suspect }).indicate l
      (.stationState (addressOf a) .online .suspect .retireUncertain ((s.station l a).statusWord.getD 0)) :=
  if_pos (by simpa [and_assoc] using h)

/-- The station that is left uncertain, or not, when its entry has retired (R89, step 6; R67). -/
theorem State.coreRetires_of_some {a : Station} (h : (s.entry i).station = some a) :
    s.CoreRetires ((s.recorded i a status release).makeSuspect (s.entry i).line (some a)
      ((s.entry i).finalFlags status).mayHaveExecuted) i status release none
    ∧ ((s.recorded i a status release).makeSuspect (s.entry i).line (some a)
      ((s.entry i).finalFlags status).mayHaveExecuted).admission.places = s.admission.places := by
  have own : ∀ c, (s.entry i).station = some c → c = a := fun c e => Option.some.inj (e.symm.trans h)
  have place : (s.recorded i a status release).station (s.entry i).line a = s.unlinked i a release := by
    rw [State.recorded_station, if_pos ⟨rfl, rfl⟩]
  have elsewhere : ∀ {m c}, ¬ (m = (s.entry i).line ∧ (s.entry i).station = some c) →
      (s.recorded i a status release).station m c = s.station m c := fun {m c} other => by
    rw [State.recorded_station]
    exact if_neg fun same : (s.entry i).line = m ∧ a = c => other ⟨same.1.symm, same.2 ▸ h⟩
  have frame := s.recorded_frame i a status release
  have entry := s.recorded_entry i a status release
  by_cases bad : s.Suspects i a status
  · have uncertain : ((s.entry i).finalFlags status).mayHaveExecuted = true ∧ a ≠ broadcastStation
        ∧ ((s.recorded i a status release).station (s.entry i).line a).state = .online := by
      rw [place, State.unlinked_state]
      exact bad
    rw [State.makeSuspect_of_uncertain uncertain, place, State.unlinked_statusWord]
    obtain ⟨host, admission, retire, record, others, lines, engines, entries, store, ind⟩ :=
      (s.recorded i a status release).modStation_indicate_frame (s.entry i).line a
        (fun r => { r with state := .suspect })
        (.stationState (addressOf a) .online .suspect .retireUncertain
          ((s.station (s.entry i).line a).statusWord.getD 0))
    generalize State.indicate _ _ _ = w at *
    have entry' : ∀ j, w.entry j = if i = j then (s.entry i).retired status else s.entry j := fun j =>
      (congrArg (Table.get · j) entries).trans (entry j)
    have frame' : (s.recorded i a status release).RetireFrame w :=
      ⟨engines, store, host, fun r => by simp only [State.ringUnit, admission], by rw [admission], by rw [admission],
        by rw [admission], by rw [admission], by rw [retire], by rw [retire],
        fun j => congrArg (fun t => (Table.get t j).copyLength) entries⟩
    have given := ind.trans (State.indicate_ind_congr (s := s) (t := s.recorded i a status release) rfl rfl rfl rfl _ _)
    refine ⟨⟨frame.trans frame', (entry' i).trans (if_pos rfl), fun j other => (entry' j).trans (if_neg other.symm),
      (congrArg RetireUnit.queue retire).trans rfl, (by rw [admission]; rfl), fun m c other => ?_,
      fun c mine calm => absurd (own c mine ▸ bad) calm, fun c mine _ => ?_, fun calm => absurd bad (calm a h)⟩,
      (by rw [admission]; rfl)⟩
    · by_cases line : m = (s.entry i).line
      · subst line
        exact (others c fun same => other ⟨rfl, same ▸ h⟩).trans (elsewhere other)
      · exact (lines.stations m c line).trans (elsewhere other)
    · rw [own c mine]
      exact ⟨record.trans (by rw [place]), given⟩
  · rw [State.makeSuspect_of_calm fun uncertain => bad ⟨uncertain.1, uncertain.2.1, by
      rw [← State.unlinked_state s i a release, ← place]
      exact uncertain.2.2⟩]
    exact ⟨⟨frame, (entry i).trans (if_pos rfl), fun j other => (entry j).trans (if_neg other.symm), rfl, rfl,
      fun m c other => elsewhere other, fun c mine _ => own c mine ▸ place, fun c mine mad => absurd (own c mine ▸ mad) bad,
      fun _ => rfl⟩, rfl⟩

/-- What steps 1 to 7 of R89 do. -/
theorem State.retireCore_retires (s : State) (i : EntryIx) (status : Status) (release : Option Nat)
    (abort : Option PlaceIx) :
    s.CoreRetires (s.retireCore i status release abort) i status release abort := by
  rw [State.retireCore_eq]
  cases h : (s.entry i).station with
  | none =>
    rw [State.settled_of_none h]
    exact (State.coreRetires_of_none h).finishAbort rfl abort
  | some a =>
    rw [State.settled_of_some h]
    obtain ⟨retires, places⟩ := State.coreRetires_of_some (status := status) (release := release) h
    exact retires.finishAbort places abort

end

end Sys2Proof.Machine

/-! The FENCEs that count a retirement (R98, R99), and the whole of a retirement as its parts. -/

namespace Sys2Proof.Machine

/-- A FENCE's entry when it has counted the retirement of entry `i`, and has retired when it waits for no more
(R98, R99). -/
def Entry.counting (e : Entry) (i : EntryIx) (status : Status) : Entry :=
  if (e.waitsFor.filter (· != i)).isEmpty then (e.countRetired i status).retired .ok else e.countRetired i status

/-- The FENCE waits for no more once entry `i` has retired (R99). -/
def Entry.lastFor (e : Entry) (i : EntryIx) : Bool := (e.waitsFor.filter (· != i)).isEmpty

/-- The FENCEs `js` counted the retirement of entry `i`, each once. -/
structure State.FencesCount (s v : State) (i : EntryIx) (status : Status) (js : List EntryIx) : Prop where
  frame : s.RetireFrame v
  counted : ∀ j ∈ js, v.entry j = (s.entry j).counting i status
  others : ∀ j, j ∉ js → v.entry j = s.entry j
  queue : v.retire.queue = s.retire.queue
    ++ (js.filter fun j => (s.entry j).lastFor i).map fun j => { item := .entry j, stamp := s.time.now }
  places : v.admission.places = s.admission.places
  alone : (∀ j ∈ js, (s.entry j).station = none) → v.stations = s.stations ∧ v.ind = s.ind

section
variable {s t u v : State} {i j : EntryIx} {status : Status} {release : Option Nat} {abort : Option PlaceIx}

theorem State.modEntry_retireFrame (s : State) (i : EntryIx) {f : Entry → Entry}
    (h : (f (s.entry i)).copyLength = (s.entry i).copyLength) : s.RetireFrame (s.modEntry i f) := by
  refine ⟨rfl, rfl, ⟨rfl, rfl, rfl, rfl, rfl, rfl, rfl, rfl, rfl⟩, fun _ => rfl, rfl, rfl, rfl, rfl, rfl,
    List.prefix_refl _, fun j => ?_⟩
  rw [State.entry_modEntry]
  split
  · next same => rw [← same, h]
  · rfl

theorem State.countAtFence_counts (s : State) (i j : EntryIx) (status : Status) :
    s.FencesCount (State.countAtFence status i s j) i status [j] := by
  let c := s.modEntry j fun e => e.countRetired i status
  have own : c.entry j = (s.entry j).countRetired i status := State.entry_setEntry_self _ _ _
  have others : ∀ k, k ≠ j → c.entry k = s.entry k := fun k other =>
    (State.entry_modEntry _ _ _ _).trans (if_neg other.symm)
  have frame : s.RetireFrame c := s.modEntry_retireFrame j (Entry.copyLength_congr rfl rfl rfl)
  have waits : (c.entry j).waitsFor.isEmpty = (s.entry j).lastFor i := by rw [own]; rfl
  have outside : ∀ {k}, k ∉ [j] → k ≠ j := fun h same => h (List.mem_singleton.2 same)
  show s.FencesCount (if (c.entry j).waitsFor.isEmpty then c.retireCore j .ok none none else c) i status [j]
  cases last : (s.entry j).lastFor i with
  | false =>
    have going : (s.entry j).counting i status = (s.entry j).countRetired i status :=
      if_neg (Bool.eq_false_iff.1 last)
    rw [waits, last, if_neg Bool.false_ne_true]
    exact ⟨frame, by simpa [going] using own, fun k other => others k (outside other),
      by simp only [List.filter_cons, last]; exact (List.append_nil _).symm, rfl, fun _ => ⟨rfl, rfl⟩⟩
  | true =>
    have done : (s.entry j).counting i status = ((s.entry j).countRetired i status).retired .ok := if_pos last
    have core := c.retireCore_retires j .ok none none
    rw [waits, last, if_pos rfl]
    refine ⟨frame.trans core.frame, ?_, fun k other => (core.entries k (outside other)).trans (others k (outside other)),
      ?_, core.places, fun alone => ?_⟩
    · simpa [done, own] using core.entry
    · simp only [List.filter_cons, last, if_true]
      exact core.queue
    · have noStation : (c.entry j).station = none := by rw [own]; exact alone j (List.mem_singleton.2 rfl)
      have same : c.retireCore j .ok none none
          = (c.setEntry j ((c.entry j).retired .ok)).enqueue (.entry j) := State.retireCore_of_noStation noStation _ _
      rw [same]
      exact ⟨rfl, rfl⟩

theorem State.FencesCount.cons {js : List EntryIx} (h : s.FencesCount t i status [j])
    (k : t.FencesCount u i status js) (fresh : j ∉ js) : s.FencesCount u i status (j :: js) := by
  have same : ∀ l ∈ js, t.entry l = s.entry l := fun l hl =>
    h.others l fun e => fresh (List.mem_singleton.1 e ▸ hl)
  have filter : (js.filter fun l => (t.entry l).lastFor i) = js.filter fun l => (s.entry l).lastFor i :=
    List.filter_congr fun l hl => by rw [same l hl]
  refine ⟨h.frame.trans k.frame, fun l hl => ?_, fun l out => ?_, ?_, k.places.trans h.places, fun alone => ?_⟩
  · rcases List.mem_cons.1 hl with e | hl
    · subst e
      exact (k.others l fresh).trans (h.counted l (List.mem_singleton.2 rfl))
    · exact (k.counted l hl).trans (by rw [same l hl])
  · have first : l ∉ [j] := fun e => out (List.mem_singleton.1 e ▸ List.mem_cons_self)
    exact (k.others l fun e => out (List.mem_cons_of_mem _ e)).trans (h.others l first)
  · rw [k.queue, h.queue, filter, h.frame.host.time, List.append_assoc, ← List.map_append, ← List.filter_append]
    rfl
  · obtain ⟨stations, ind⟩ := h.alone fun l hl => alone l (List.mem_singleton.1 hl ▸ List.mem_cons_self)
    obtain ⟨stations', ind'⟩ := k.alone fun l hl => by rw [same l hl]; exact alone l (List.mem_cons_of_mem _ hl)
    exact ⟨stations'.trans stations, ind'.trans ind⟩

theorem State.foldl_countAtFence (i : EntryIx) (status : Status) (js : List EntryIx) (s : State)
    (once : js.Nodup) : s.FencesCount (js.foldl (State.countAtFence status i) s) i status js := by
  induction js generalizing s with
  | nil =>
    exact ⟨State.RetireFrame.refl s, fun _ h => absurd h List.not_mem_nil, fun _ _ => rfl, (List.append_nil _).symm,
      rfl, fun _ => ⟨rfl, rfl⟩⟩
  | cons j js ih =>
    obtain ⟨fresh, once'⟩ := List.nodup_cons.1 once
    exact (s.countAtFence_counts i j status).cons (ih _ once') fresh

/-! ### Lists in the order of a key -/

theorem insertByKey_perm {α : Type} (key : α → Nat) (x : α) (xs : List α) :
    (insertByKey key x xs).Perm (x :: xs) := by
  induction xs with
  | nil => exact List.Perm.refl _
  | cons y ys ih =>
    unfold insertByKey
    split
    · exact List.Perm.refl _
    · exact (ih.cons y).trans (List.Perm.swap x y ys)

theorem sortByKey_perm {α : Type} (key : α → Nat) (xs : List α) : (sortByKey key xs).Perm xs := by
  induction xs with
  | nil => exact List.Perm.refl _
  | cons x xs ih => exact (insertByKey_perm key x _).trans (ih.cons x)

theorem insertByKey_pairwise {α : Type} (key : α → Nat) (x : α) {xs : List α}
    (h : xs.Pairwise fun a b => key a ≤ key b) : (insertByKey key x xs).Pairwise fun a b => key a ≤ key b := by
  induction xs with
  | nil => exact List.pairwise_singleton _ _
  | cons y ys ih =>
    obtain ⟨least, rest⟩ := List.pairwise_cons.1 h
    unfold insertByKey
    split
    · next before =>
      refine List.pairwise_cons.2 ⟨fun z hz => ?_, h⟩
      rcases List.mem_cons.1 hz with e | hz
      · subst e; exact before.le
      · exact Nat.le_trans before.le (least z hz)
    · next after =>
      refine List.pairwise_cons.2 ⟨fun z hz => ?_, ih rest⟩
      rcases mem_insertByKey.1 hz with e | hz
      · subst e; omega
      · exact least z hz

theorem sortByKey_pairwise {α : Type} (key : α → Nat) (xs : List α) :
    (sortByKey key xs).Pairwise fun a b => key a ≤ key b := by
  induction xs with
  | nil => exact List.Pairwise.nil
  | cons x xs ih => exact insertByKey_pairwise key x ih

theorem State.mem_fencesOn : j ∈ s.fencesOn i ↔ (s.entry j).state = .fenceWait ∧ i ∈ (s.entry j).waitsFor := by
  simp [State.fencesOn, mem_sortByKey]

theorem State.fencesOn_nodup (s : State) (i : EntryIx) : (s.fencesOn i).Nodup :=
  (sortByKey_perm _ _).nodup_iff.2 ((List.nodup_finRange 64).filter _)

/-! ### A retirement -/

/-- FENCE `j` waits for entry `i`. -/
def State.WaitsFor (s : State) (j i : EntryIx) : Prop := (s.entry j).state = .fenceWait ∧ i ∈ (s.entry j).waitsFor

/-- Entry `i` has retired with `status`, its token `release` gone to the release list of its station, the ABORT in
place `abort` fixed, and every FENCE that waited for it has counted it (R89, R98, R99). -/
structure State.Retires (s v : State) (i : EntryIx) (status : Status) (release : Option Nat)
    (abort : Option PlaceIx) : Prop where
  frame : s.RetireFrame v
  entry : v.entry i = (s.entry i).retired status
  fences : ∀ j, j ≠ i → s.WaitsFor j i → v.entry j = (s.entry j).counting i status
  others : ∀ j, j ≠ i → ¬ s.WaitsFor j i → v.entry j = s.entry j
  queue : ∃ done : List EntryIx, done.Nodup
    ∧ (∀ j, j ∈ done ↔ j ≠ i ∧ s.WaitsFor j i ∧ (s.entry j).lastFor i = true)
    ∧ v.retire.queue = s.retire.queue ++ { item := .entry i, stamp := s.time.now } :: (s.abortItems abort
        ++ done.map fun j => { item := .entry j, stamp := s.time.now })
  places : v.admission.places = s.placesFixed abort status
  record : (∀ j, s.WaitsFor j i → (s.entry j).station = none) →
    (∀ m c, ¬ (m = (s.entry i).line ∧ (s.entry i).station = some c) → v.station m c = s.station m c)
    ∧ (∀ a, (s.entry i).station = some a → ¬ s.Suspects i a status →
      v.station (s.entry i).line a = s.unlinked i a release)
    ∧ (∀ a, (s.entry i).station = some a → s.Suspects i a status →
      v.station (s.entry i).line a = { s.unlinked i a release with state := .suspect }
        ∧ v.ind = (s.indicate (s.entry i).line (.stationState (addressOf a) .online .suspect .retireUncertain
            ((s.station (s.entry i).line a).statusWord.getD 0))).ind)
    ∧ ((∀ a, (s.entry i).station = some a → ¬ s.Suspects i a status) → v.ind = s.ind)

theorem State.retireFor_retires (free : (s.entry i).state ≠ .free) (retiring : (s.entry i).state ≠ .retiring)
    (status : Status) (release : Option Nat) (abort : Option PlaceIx) :
    s.Retires (s.retireFor i status release abort) i status release abort := by
  have core := s.retireCore_retires i status release abort
  unfold State.retireFor
  rw [if_neg fun h => h.elim free retiring]
  dsimp only
  generalize s.retireCore i status release abort = t at *
  have counts := t.foldl_countAtFence i status (t.fencesOn i) (t.fencesOn_nodup i)
  generalize (t.fencesOn i).foldl (State.countAtFence status i) t = v at *
  have waits : ∀ j, j ∈ t.fencesOn i ↔ j ≠ i ∧ s.WaitsFor j i := fun j => by
    rw [State.mem_fencesOn]
    by_cases same : j = i
    · subst same
      rw [core.entry]
      exact ⟨fun h => by simp [Entry.retired] at h, fun h => absurd rfl h.1⟩
    · rw [core.entries j same]
      exact ⟨fun h => ⟨same, h⟩, fun h => h.2⟩
  refine ⟨core.frame.trans counts.frame, (counts.others i fun h => ((waits i).1 h).1 rfl).trans core.entry,
    fun j other h => (counts.counted j ((waits j).2 ⟨other, h⟩)).trans (by rw [core.entries j other]),
    fun j other h => (counts.others j fun e => h ((waits j).1 e).2).trans (core.entries j other),
    ⟨(t.fencesOn i).filter fun j => (t.entry j).lastFor i, (t.fencesOn_nodup i).filter _, fun j => ?_, ?_⟩,
    counts.places.trans core.places, fun alone => ?_⟩
  · rw [List.mem_filter, waits, and_assoc]
    exact and_congr_right fun other => by rw [core.entries j other]
  · rw [counts.queue, core.queue, core.frame.host.time, List.append_assoc]
    rfl
  · obtain ⟨stations, ind⟩ := counts.alone fun j hj => by
      obtain ⟨other, h⟩ := (waits j).1 hj
      rw [core.entries j other]
      exact alone j h
    have station : ∀ m c, v.station m c = t.station m c := fun m c => by rw [State.station, State.station, stations]
    refine ⟨fun m c other => (station m c).trans (core.stations m c other),
      fun a own calm => (station _ a).trans (core.certain a own calm), fun a own bad => ?_,
      fun calm => ind.trans (core.silent calm)⟩
    obtain ⟨record, given⟩ := core.suspect a own bad
    exact ⟨(station _ a).trans record, ind.trans given⟩

end

end Sys2Proof.Machine

/-! A line cascade: the entries it reaches retire one after the other (R100, R89, R98, R99, R67, R71). -/

namespace Sys2Proof.Machine

/-- Entry `i` is one of `done`, and of station `a`. -/
def State.isOf (s : State) (done : List EntryIx) (a : Station) (i : EntryIx) : Bool :=
  decide (i ∈ done ∧ (s.entry i).station = some a)

/-- The station takes no release item (R61, R74). -/
def State.Closed (s : State) (l : Line) (a : Station) : Prop :=
  a = broadcastStation ∨ (s.station l a).state = .absent ∨ (s.station l a).state = .offline

/-- Of the entries `done` one left station `a` uncertain (R67). -/
def State.LeavesUncertain (s : State) (status : Status) (done : List EntryIx) (a : Station) : Prop :=
  ∃ i ∈ done, (s.entry i).station = some a ∧ s.Suspects i a status

/-- What the entries `done`, retired one after the other, left in the record of station `a`. -/
structure State.SweptRecord (s t : State) (l : Line) (status : Status) (done : List EntryIx) (a : Station) :
    Prop where
  record : t.station l a =
    { s.station l a with
      state := (t.station l a).state
      release := (t.station l a).release
      fifo := (s.station l a).fifo.filter fun i => !s.isOf done a i
      deferred := (s.station l a).deferred.filter fun i => !s.isOf done a i
      linger := (t.station l a).linger }
  closed : s.Closed l a → (t.station l a).release = (s.station l a).release
  opened : ¬ s.Closed l a → (t.station l a).release = appendTokens (s.station l a).release
    ((done.filter (s.isOf done a)).filterMap fun i => (s.entry i).token)
  suspect : s.LeavesUncertain status done a → (t.station l a).state = .suspect
  same : ¬ s.LeavesUncertain status done a → (t.station l a).state = (s.station l a).state
  linger : (s.line l).state.isActive = false → (t.station l a).linger = (s.station l a).linger

/-- What a FENCE waits for once the entries `done` have retired. -/
def Entry.left (e : Entry) (done : List EntryIx) : List EntryIx := e.waitsFor.filter fun i => decide (i ∉ done)

/-- The not-OK count of a FENCE once the entries `done` have retired with another status than OK (R98). -/
def Entry.counted (e : Entry) (done : List EntryIx) : Nat :=
  e.notOkCount + (done.filter fun i => decide (i ∈ e.waitsFor)).length

/-- The indications of the stations that a cascade left uncertain (R67). -/
def State.indicateSuspects (s : State) (l : Line) (suspects : List Station) : State :=
  suspects.foldl (fun u a => u.indicate l
    (.stationState (addressOf a) .online .suspect .retireUncertain ((s.station l a).statusWord.getD 0))) s

/-- Of a line cascade the entries `done` have retired with `status`, in this order. -/
structure State.Swept (s t : State) (l : Line) (status : Status) (done : List EntryIx) : Prop where
  frame : s.RetireFrame t
  reached : ∀ i ∈ done, s.Reached l i
  retired : ∀ i ∈ done, t.entry i = (s.entry i).retired status
  others : ∀ j, j ∉ done → (s.entry j).state ≠ .fenceWait → t.entry j = s.entry j
  waiting : ∀ j, (s.entry j).state = .fenceWait → (s.entry j).left done ≠ [] ∨ (s.entry j).waitsFor = [] →
    t.entry j = { s.entry j with waitsFor := (s.entry j).left done, notOkCount := (s.entry j).counted done }
  finished : ∀ j, (s.entry j).state = .fenceWait → (s.entry j).waitsFor ≠ [] → (s.entry j).left done = [] →
    t.entry j = { s.entry j with notOkCount := (s.entry j).counted done }.retired .ok
  queue : ∃ more, t.retire.queue = s.retire.queue ++ more
    ∧ (done.map fun i => ({ item := .entry i, stamp := s.time.now } : QueuedItem)).Sublist more
    ∧ ((∀ i ∈ done, s.NoFenceOn i) → (∀ i ∈ done, s.NoAbortOn i) →
      more = done.map (fun i => { item := .entry i, stamp := s.time.now })
        ∧ t.admission.places = s.admission.places)
  records : s.FencesOk → ∀ a, s.SweptRecord t l status done a
  elsewhere : s.FencesOk → ∀ m a, m ≠ l → t.station m a = s.station m a
  indications : s.FencesOk → ∃ suspects : List Station, suspects.Nodup
    ∧ (∀ a, a ∈ suspects ↔ s.LeavesUncertain status done a)
    ∧ t.ind = (s.indicateSuspects l suspects).ind

section
variable {s t v : State} {l : Line} {status : Status} {done : List EntryIx} {i j : EntryIx} {a : Station}

theorem State.Reached.states (h : s.Reached l i) : (s.entry i).state ≠ .free ∧ (s.entry i).state ≠ .retiring
    ∧ (s.entry i).state ≠ .fenceWait := by
  rcases h.2.2 with e | e | e | e <;> rw [e] <;> exact ⟨by decide, by decide, by decide⟩

/-! ### The FENCEs as the cascade goes on -/

theorem Entry.left_append (e : Entry) (done : List EntryIx) (i : EntryIx) :
    e.left (done ++ [i]) = (e.left done).filter (· != i) := by
  unfold Entry.left
  rw [List.filter_filter]
  refine List.filter_congr fun k _ => ?_
  by_cases same : k = i <;> simp [same]

theorem Entry.left_append_of_not_mem {e : Entry} (h : i ∉ e.waitsFor) (done : List EntryIx) :
    e.left (done ++ [i]) = e.left done := by
  rw [Entry.left_append]
  refine List.filter_eq_self.2 fun k hk => ?_
  have other : k ≠ i := fun same => h (same ▸ (List.mem_filter.1 hk).1)
  simpa using other

theorem Entry.counted_append (e : Entry) (done : List EntryIx) (i : EntryIx) :
    e.counted (done ++ [i]) = if i ∈ e.waitsFor then e.counted done + 1 else e.counted done := by
  unfold Entry.counted
  rw [List.filter_append, List.length_append]
  split
  · next h => simp [h, Nat.add_assoc]
  · next h => simp [h]

theorem Entry.mem_left {e : Entry} : i ∈ e.left done ↔ i ∈ e.waitsFor ∧ i ∉ done := by
  simp [Entry.left]

/-- The state of a FENCE's entry during the cascade. -/
theorem State.Swept.fence (h : s.Swept t l status done) (wait : (s.entry j).state = .fenceWait) :
    ((s.entry j).left done ≠ [] ∨ (s.entry j).waitsFor = [])
      ∧ t.entry j = { s.entry j with waitsFor := (s.entry j).left done, notOkCount := (s.entry j).counted done }
    ∨ ((s.entry j).waitsFor ≠ [] ∧ (s.entry j).left done = [])
      ∧ t.entry j = { s.entry j with notOkCount := (s.entry j).counted done }.retired .ok := by
  by_cases going : (s.entry j).left done ≠ [] ∨ (s.entry j).waitsFor = []
  · exact Or.inl ⟨going, h.waiting j wait going⟩
  · obtain ⟨none, some⟩ := not_or.1 going
    exact Or.inr ⟨⟨some, not_not.1 none⟩, h.finished j wait some (not_not.1 none)⟩

theorem State.Swept.waitsFor_iff (h : s.Swept t l status done) (fresh : i ∉ done) :
    t.WaitsFor j i ↔ s.WaitsFor j i := by
  unfold State.WaitsFor
  by_cases wait : (s.entry j).state = .fenceWait
  · rcases h.fence wait with ⟨_, e⟩ | ⟨⟨_, none⟩, e⟩
    · rw [e]
      exact ⟨fun k => ⟨wait, (Entry.mem_left.1 k.2).1⟩, fun k => ⟨wait, Entry.mem_left.2 ⟨k.2, fresh⟩⟩⟩
    · rw [e]
      refine ⟨fun k => by simp [Entry.retired] at k, fun k => ?_⟩
      have member : i ∈ (s.entry j).left done := Entry.mem_left.2 ⟨k.2, fresh⟩
      rw [none] at member
      cases member
  · by_cases old : j ∈ done
    · rw [h.retired j old]
      exact ⟨fun k => by simp [Entry.retired] at k, fun k => absurd k.1 wait⟩
    · rw [h.others j old wait]

theorem State.Swept.station_entry (h : s.Swept t l status done) (wait : (s.entry j).state = .fenceWait) :
    (t.entry j).station = (s.entry j).station := by
  rcases h.fence wait with ⟨_, e⟩ | ⟨_, e⟩
  · rw [e]
  · rw [e]
    rfl

/-- A FENCE counts one more entry of the cascade. -/
theorem State.Swept.fence_counts (h : s.Swept t l status done) (notOk : status ≠ .ok)
    (wait : (s.entry j).state = .fenceWait) (fresh : i ∉ done) (member : i ∈ (s.entry j).waitsFor) :
    (t.entry j).counting i status = if (s.entry j).left (done ++ [i]) = [] then
        { s.entry j with notOkCount := (s.entry j).counted (done ++ [i]) }.retired .ok
      else { s.entry j with
        waitsFor := (s.entry j).left (done ++ [i]), notOkCount := (s.entry j).counted (done ++ [i]) } := by
  have left : i ∈ (s.entry j).left done := Entry.mem_left.2 ⟨member, fresh⟩
  have now := h.waiting j wait (Or.inl fun e => by rw [e] at left; cases left)
  rw [Entry.left_append, Entry.counted_append, if_pos member, now]
  unfold Entry.counting Entry.countRetired
  simp only [List.isEmpty_iff, notOk, if_false]
  split <;> rfl

/-! ### The stations as the cascade goes on -/

theorem StationRecord.afterRetire_eq (r : StationRecord) (i : EntryIx) (release : Option Nat) (active : Bool)
    (linger : Nat) :
    let gone := r.afterRetire i release active linger
    gone = { r with
      fifo := r.fifo.filter (· != i), deferred := r.deferred.filter (· != i), release := gone.release
      linger := gone.linger } := by
  unfold StationRecord.afterRetire
  cases release with
  | none => rfl
  | some token => dsimp only; split <;> rfl

theorem StationRecord.afterRetire_linger (r : StationRecord) (i : EntryIx) (release : Option Nat) (linger : Nat) :
    (r.afterRetire i release false linger).linger = r.linger := by
  unfold StationRecord.afterRetire
  cases release with
  | none => rfl
  | some token => dsimp only; split <;> simp

theorem StationRecord.afterRetire_release_closed {r : StationRecord} (h : r.state = .absent ∨ r.state = .offline)
    (i : EntryIx) (release : Option Nat) (active : Bool) (linger : Nat) :
    (r.afterRetire i release active linger).release = r.release := by
  unfold StationRecord.afterRetire
  cases release with
  | none => rfl
  | some token =>
    dsimp only
    rw [if_pos (or_assoc.1 (Or.inl h))]

theorem StationRecord.afterRetire_release_open {r : StationRecord} (h : ¬ (r.state = .absent ∨ r.state = .offline))
    (i : EntryIx) (release : Option Nat) (active : Bool) (linger : Nat) :
    (r.afterRetire i release active linger).release = appendTokens r.release release.toList := by
  unfold StationRecord.afterRetire
  cases release with
  | none => rfl
  | some token =>
    by_cases listed : ({ kind := .deferred, token := token } : ReleaseItem) ∈ r.release
    · simp [appendTokens, listed]
    · simp [appendTokens, listed, h]

theorem appendTokens_append (release : List ReleaseItem) (xs ys : List Nat) :
    appendTokens release (xs ++ ys) = appendTokens (appendTokens release xs) ys := List.foldl_append

/-- The tokens of one station's entries, when one more of the cascade has retired. -/
theorem State.tokens_append (s : State) (done : List EntryIx) (a : Station) (i : EntryIx) :
    ((done ++ [i]).filter (s.isOf (done ++ [i]) a)).filterMap (fun k => (s.entry k).token)
      = (done.filter (s.isOf done a)).filterMap (fun k => (s.entry k).token)
        ++ if (s.entry i).station = some a then (s.entry i).token.toList else [] := by
  have old : done.filter (s.isOf (done ++ [i]) a) = done.filter (s.isOf done a) :=
    List.filter_congr fun k hk => by simp [State.isOf, hk]
  rw [List.filter_append, List.filterMap_append, old]
  congr 1
  by_cases own : (s.entry i).station = some a
  · cases token : (s.entry i).token <;> simp [State.isOf, own, token]
  · simp [State.isOf, own]

theorem State.isOf_append_own (own : (s.entry i).station = some a) (xs : List EntryIx) :
    xs.filter (fun k => !s.isOf (done ++ [i]) a k)
      = (xs.filter fun k => !s.isOf done a k).filter (· != i) := by
  rw [List.filter_filter]
  refine List.filter_congr fun k _ => ?_
  by_cases same : k = i
  · subst same; simp [State.isOf, own]
  · simp [State.isOf, same]

theorem State.isOf_append_other (own : (s.entry i).station ≠ some a) : s.isOf (done ++ [i]) a = s.isOf done a := by
  funext k
  by_cases same : k = i
  · subst same; simp [State.isOf, own]
  · simp [State.isOf, same]

theorem State.leavesUncertain_append :
    s.LeavesUncertain status (done ++ [i]) a
      ↔ s.LeavesUncertain status done a ∨ ((s.entry i).station = some a ∧ s.Suspects i a status) := by
  simp only [State.LeavesUncertain, List.mem_append, List.mem_singleton, or_and_right, exists_or, exists_eq_left]

/-- A cascade entry that leaves its station uncertain retires while that is still ONLINE. -/
theorem State.SweptRecord.suspects_iff (h : s.SweptRecord t l status done a) (entry : t.entry i = s.entry i)
    (line : (s.entry i).line = l) :
    t.Suspects i a status ↔ s.Suspects i a status ∧ ¬ s.LeavesUncertain status done a := by
  unfold State.Suspects
  rw [entry, line]
  by_cases uncertain : s.LeavesUncertain status done a
  · rw [h.suspect uncertain]
    exact ⟨fun k => (by cases k.2.2), fun k => absurd uncertain k.2⟩
  · rw [h.same uncertain]
    exact ⟨fun k => ⟨k, uncertain⟩, fun k => k.1⟩

theorem State.SweptRecord.closed_iff (h : s.SweptRecord t l status done a)
    (online : s.LeavesUncertain status done a → (s.station l a).state = .online) :
    t.Closed l a ↔ s.Closed l a := by
  unfold State.Closed
  by_cases uncertain : s.LeavesUncertain status done a
  · rw [h.suspect uncertain, online uncertain]
    exact Iff.rfl.or (by decide)
  · rw [h.same uncertain]

theorem State.Swept.uncertain_online (h : s.Swept t l status done) (k : s.LeavesUncertain status done a) :
    (s.station l a).state = .online := by
  obtain ⟨i, member, -, suspects⟩ := k
  rw [← (h.reached i member).2.1]
  exact suspects.2.2

/-! ### One more entry of the cascade -/

theorem State.Swept.entry_of_fresh (h : s.Swept t l status done) (fresh : i ∉ done) (reached : s.Reached l i) :
    t.entry i = s.entry i := h.others i fresh reached.states.2.2

/-- The record of the station of one more entry that has retired. -/
theorem State.SweptRecord.unlink (h : s.SweptRecord t l status done a)
    (online : s.LeavesUncertain status done a → (s.station l a).state = .online)
    (own : (s.entry i).station = some a) {x : StationState} {active : Bool} {linger : Nat}
    (now : v.station l a =
      { (t.station l a).afterRetire i (if a = broadcastStation then none else (s.entry i).token) active linger with
        state := x })
    (uncertain : s.LeavesUncertain status (done ++ [i]) a → x = .suspect)
    (calm : ¬ s.LeavesUncertain status (done ++ [i]) a → x = (s.station l a).state)
    (active_eq : active = (s.line l).state.isActive) :
    s.SweptRecord v l status (done ++ [i]) a := by
  have closed := h.closed_iff online
  refine ⟨?_, fun shut => ?_, fun opened => ?_, fun k => by rw [now]; exact uncertain k,
    fun k => by rw [now]; exact calm k, fun inactive => ?_⟩
  · rw [now, StationRecord.afterRetire_eq, h.record, State.isOf_append_own own, State.isOf_append_own own]
  · rw [now, ← h.closed shut]
    dsimp only
    rcases closed.2 shut with broadcast | state
    · rw [if_pos broadcast]
      rfl
    · exact StationRecord.afterRetire_release_closed state _ _ _ _
  · obtain ⟨real, state⟩ := not_or.1 fun k => opened (closed.1 k)
    rw [now, State.tokens_append, if_pos own, appendTokens_append, ← h.opened opened]
    dsimp only
    rw [if_neg real]
    exact StationRecord.afterRetire_release_open state _ _ _ _
  · rw [now, active_eq, inactive]
    exact (StationRecord.afterRetire_linger _ _ _ _).trans (h.linger inactive)

/-- The record of another station when one more entry has retired. -/
theorem State.SweptRecord.other (h : s.SweptRecord t l status done a) (own : (s.entry i).station ≠ some a)
    (now : v.station l a = t.station l a) : s.SweptRecord v l status (done ++ [i]) a := by
  have uncertain : s.LeavesUncertain status (done ++ [i]) a ↔ s.LeavesUncertain status done a := by
    rw [State.leavesUncertain_append]
    exact ⟨fun k => k.elim id fun e => absurd e.1 own, Or.inl⟩
  obtain ⟨record, closed, opened, suspect, same, linger⟩ := h
  refine ⟨?_, ?_, ?_, ?_, ?_, ?_⟩
  · rw [now, State.isOf_append_other own]
    exact record
  · rw [now]
    exact closed
  · rw [now, State.tokens_append, if_neg own, List.append_nil]
    exact opened
  · rw [now, uncertain]
    exact suspect
  · rw [now, uncertain]
    exact same
  · rw [now]
    exact linger

/-- The record of a station when one more entry of its line has retired. -/
theorem State.Swept.record_append (h : s.Swept t l status done) (ok : s.FencesOk) (fresh : i ∉ done)
    (reached : s.Reached l i) {abort : Option PlaceIx}
    (r : t.Retires v i status (s.entry i).token abort) (a : Station) :
    s.SweptRecord v l status (done ++ [i]) a := by
  have entry := h.entry_of_fresh fresh reached
  have line : (t.entry i).line = l := by rw [entry]; exact reached.2.1
  have before := h.records ok a
  obtain ⟨elsewhere, certain, suspect, -⟩ := r.record fun j waits => by
    have old := (h.waitsFor_iff fresh).1 waits
    rw [h.station_entry old.1]
    exact (ok j old.1).2
  have suspects := before.suspects_iff entry reached.2.1
  by_cases own : (s.entry i).station = some a
  · have mine : (t.entry i).station = some a := by rw [entry]; exact own
    have shape : t.unlinked i a (s.entry i).token =
        (t.station l a).afterRetire i (if a = broadcastStation then none else (s.entry i).token)
          (s.line l).state.isActive (t.line l).params.releaseLinger := by
      unfold State.unlinked
      rw [line, ← h.frame.line]
    by_cases bad : t.Suspects i a status
    · have now := (suspect a mine bad).1
      rw [line, shape] at now
      exact before.unlink h.uncertain_online own now (fun _ => rfl) (fun calm =>
        absurd (State.leavesUncertain_append.2 (Or.inr ⟨own, (suspects.1 bad).1⟩)) calm) rfl
    · have now := certain a mine bad
      rw [line, shape] at now
      have state := StationRecord.afterRetire_state (t.station l a) i
        (if a = broadcastStation then none else (s.entry i).token) (s.line l).state.isActive
        (t.line l).params.releaseLinger
      refine before.unlink h.uncertain_online own now (fun k => ?_) (fun calm => ?_) rfl
      · rcases State.leavesUncertain_append.1 k with k | k
        · exact state.trans (before.suspect k)
        · by_contra other
          exact bad (suspects.2 ⟨k.2, fun old => other (state.trans (before.suspect old))⟩)
      · exact state.trans (before.same fun k => calm (State.leavesUncertain_append.2 (Or.inl k)))
  · exact before.other own (elsewhere l a fun e => own (by rw [← entry]; exact e.2))

theorem State.indicateSuspects_append (s : State) (l : Line) (suspects : List Station) (a : Station) :
    s.indicateSuspects l (suspects ++ [a]) = (s.indicateSuspects l suspects).indicate l
      (.stationState (addressOf a) .online .suspect .retireUncertain ((s.station l a).statusWord.getD 0)) :=
  List.foldl_append

theorem State.indicateSuspects_frame (s : State) (l : Line) (suspects : List Station) :
    (s.indicateSuspects l suspects).device = s.device ∧ (s.indicateSuspects l suspects).time = s.time
      ∧ (s.indicateSuspects l suspects).indRing = s.indRing := by
  induction suspects using List.reverseRecOn with
  | nil => exact ⟨rfl, rfl, rfl⟩
  | append_singleton rest a ih => rw [State.indicateSuspects_append]; simpa using ih

theorem State.SweptRecord.statusWord (h : s.SweptRecord t l status done a) :
    (t.station l a).statusWord = (s.station l a).statusWord := by rw [h.record]

/-- The indications when one more entry of the cascade has retired. -/
theorem State.Swept.indications_append (h : s.Swept t l status done) (ok : s.FencesOk) (fresh : i ∉ done)
    (reached : s.Reached l i) {release : Option Nat} {abort : Option PlaceIx}
    (r : t.Retires v i status release abort) :
    ∃ suspects : List Station, suspects.Nodup
      ∧ (∀ a, a ∈ suspects ↔ s.LeavesUncertain status (done ++ [i]) a)
      ∧ v.ind = (s.indicateSuspects l suspects).ind := by
  have entry := h.entry_of_fresh fresh reached
  have line : (t.entry i).line = l := by rw [entry]; exact reached.2.1
  have suspects := fun a => (h.records ok a).suspects_iff entry reached.2.1
  obtain ⟨-, -, suspect, silent⟩ := r.record fun j waits => by
    have old := (h.waitsFor_iff fresh).1 waits
    rw [h.station_entry old.1]
    exact (ok j old.1).2
  obtain ⟨before, once, mem, ind⟩ := h.indications ok
  by_cases bad : ∃ a, (t.entry i).station = some a ∧ t.Suspects i a status
  · obtain ⟨a, own, bad⟩ := bad
    have given := (suspect a own bad).2
    rw [line, (h.records ok a).statusWord] at given
    have mine : (s.entry i).station = some a := by rw [← entry]; exact own
    obtain ⟨now, calm⟩ := (suspects a).1 bad
    have new : a ∉ before := fun k => calm ((mem a).1 k)
    refine ⟨before ++ [a], ?_, fun b => ?_, ?_⟩
    · exact List.nodup_append.2 ⟨once, List.nodup_singleton _, fun b hb c hc e => new (by
        rw [List.mem_singleton.1 hc] at e
        exact e ▸ hb)⟩
    · rw [List.mem_append, List.mem_singleton, mem, State.leavesUncertain_append]
      refine or_congr Iff.rfl ⟨fun e => e ▸ ⟨mine, now⟩, fun k => ?_⟩
      exact Option.some.inj (k.1.symm.trans mine)
    · rw [given, State.indicateSuspects_append]
      obtain ⟨device, time, ring⟩ := s.indicateSuspects_frame l before
      exact State.indicate_ind_congr ind (h.frame.host.time.trans time.symm)
        (h.frame.host.device.trans device.symm) (h.frame.host.indRing.trans ring.symm) _ _
  · refine ⟨before, once, fun b => ?_, (silent fun a own k => bad ⟨a, own, k⟩).trans ind⟩
    rw [mem, State.leavesUncertain_append]
    refine ⟨Or.inl, fun k => k.elim id fun k => ?_⟩
    by_contra calm
    exact bad ⟨b, by rw [entry]; exact k.1, (suspects b).2 ⟨k.2, calm⟩⟩

theorem State.abortPlace_of_noAbort (h : s.NoAbortOn i) : s.abortPlace i = none := by
  refine List.find?_eq_none.2 fun p _ waits => ?_
  cases place : s.admission.places.get p with
  | none => simp [place] at waits
  | some c => exact h p c place (by simpa [place] using waits)

/-- The retire queue and the places when one more entry of the cascade has retired. -/
theorem State.Swept.queue_append (h : s.Swept t l status done) (fresh : i ∉ done) {release : Option Nat}
    (r : t.Retires v i status release (t.abortPlace i)) :
    ∃ more, v.retire.queue = s.retire.queue ++ more
      ∧ ((done ++ [i]).map fun k => ({ item := .entry k, stamp := s.time.now } : QueuedItem)).Sublist more
      ∧ ((∀ k ∈ done ++ [i], s.NoFenceOn k) → (∀ k ∈ done ++ [i], s.NoAbortOn k) →
        more = (done ++ [i]).map (fun k => { item := .entry k, stamp := s.time.now })
          ∧ v.admission.places = s.admission.places) := by
  obtain ⟨more, queue, sub, exactly⟩ := h.queue
  obtain ⟨finished, -, mem, queue'⟩ := r.queue
  refine ⟨more ++ _, by rw [queue', queue, List.append_assoc], ?_, fun noFence noAbort => ?_⟩
  · rw [List.map_append, h.frame.host.time]
    exact sub.append (List.Sublist.cons_cons _ (List.nil_sublist _))
  · obtain ⟨same, places⟩ := exactly (fun k hk => noFence k (List.mem_append_left _ hk))
      fun k hk => noAbort k (List.mem_append_left _ hk)
    have member : i ∈ done ++ [i] := List.mem_append_right _ (List.mem_singleton.2 rfl)
    have noPlace : t.abortPlace i = none := State.abortPlace_of_noAbort fun p c e =>
      noAbort i member p c (places ▸ e)
    have nothing : finished = [] := List.eq_nil_iff_forall_not_mem.2 fun j hj => by
      obtain ⟨-, waits, -⟩ := (mem j).1 hj
      have old := (h.waitsFor_iff fresh).1 waits
      exact noFence i member j old.1 old.2
    refine ⟨?_, r.places.trans (by rw [noPlace]; exact places)⟩
    rw [noPlace, nothing, same, List.map_append, h.frame.host.time]
    rfl

/-- One more entry of the cascade retires. -/
theorem State.Swept.append (h : s.Swept t l status done) (notOk : status ≠ .ok) (fresh : i ∉ done)
    (reached : s.Reached l i) :
    s.Swept (t.retireEntry i status (t.entry i).token) l status (done ++ [i]) := by
  have entry := h.entry_of_fresh fresh reached
  obtain ⟨free, retiring, wait⟩ := reached.states
  have r : t.Retires (t.retireEntry i status (t.entry i).token) i status (t.entry i).token (t.abortPlace i) :=
    State.retireFor_retires (by rw [entry]; exact free) (by rw [entry]; exact retiring) _ _ _
  rw [entry] at r ⊢
  generalize t.retireEntry i status (s.entry i).token = v at *
  have apart : ∀ j, (s.entry j).state = .fenceWait → j ≠ i := fun j hj same => wait (same ▸ hj)
  have member : ∀ {j}, j ∈ done ++ [i] ↔ j ∈ done ∨ j = i := fun {j} => by simp
  have idle : ∀ j, (s.entry j).state = .fenceWait → i ∉ (s.entry j).waitsFor → v.entry j = t.entry j :=
    fun j hj out => r.others j (apart j hj) fun k => out ((h.waitsFor_iff fresh).1 k).2
  have counts : ∀ j, (s.entry j).state = .fenceWait → i ∈ (s.entry j).waitsFor →
      v.entry j = (t.entry j).counting i status := fun j hj inside =>
    r.fences j (apart j hj) ((h.waitsFor_iff fresh).2 ⟨hj, inside⟩)
  refine ⟨h.frame.trans r.frame, fun k hk => ?_, fun k hk => ?_, fun j out hj => ?_, fun j hj going => ?_,
    fun j hj some finished => ?_, h.queue_append fresh r, fun ok a => h.record_append ok fresh reached r a,
    fun ok m a other => ?_, fun ok => h.indications_append ok fresh reached r⟩
  · rcases member.1 hk with hk | same
    · exact h.reached k hk
    · exact same ▸ reached
  · rcases member.1 hk with hk | same
    · have gone : ¬ t.WaitsFor k i := fun e => (h.reached k hk).states.2.2 ((h.waitsFor_iff fresh).1 e).1
      exact (r.others k (fun same => fresh (same ▸ hk)) gone).trans (h.retired k hk)
    · rw [same, r.entry, entry]
  · rw [member, not_or] at out
    exact (r.others j out.2 fun e => hj ((h.waitsFor_iff fresh).1 e).1).trans (h.others j out.1 hj)
  · by_cases inside : i ∈ (s.entry j).waitsFor
    · have left : (s.entry j).left (done ++ [i]) ≠ [] := going.resolve_right (List.ne_nil_of_mem inside)
      rw [counts j hj inside, h.fence_counts notOk hj fresh inside, if_neg left]
    · rw [Entry.left_append_of_not_mem inside] at going ⊢
      rw [Entry.counted_append, if_neg inside]
      exact (idle j hj inside).trans (h.waiting j hj going)
  · by_cases inside : i ∈ (s.entry j).waitsFor
    · rw [counts j hj inside, h.fence_counts notOk hj fresh inside, if_pos finished]
    · rw [Entry.left_append_of_not_mem inside] at finished
      rw [Entry.counted_append, if_neg inside]
      exact (idle j hj inside).trans (h.finished j hj some finished)
  · obtain ⟨elsewhere, -⟩ := r.record fun j waits => by
      have old := (h.waitsFor_iff fresh).1 waits
      rw [h.station_entry old.1]
      exact (ok j old.1).2
    refine (elsewhere m a fun e => other ?_).trans (h.elsewhere ok m a other)
    rw [e.1, entry]
    exact reached.2.1

/-! ### The whole cascade -/

theorem State.Swept.nil (s : State) (l : Line) (status : Status) : s.Swept s l status [] := by
  have none : ∀ a, ¬ s.LeavesUncertain status [] a := fun a ⟨_, h, _⟩ => absurd h List.not_mem_nil
  have left : ∀ e : Entry, e.left [] = e.waitsFor := fun e => List.filter_eq_self.2 fun _ _ => by simp
  refine ⟨State.RetireFrame.refl s, fun _ h => absurd h List.not_mem_nil, fun _ h => absurd h List.not_mem_nil,
    fun _ _ _ => rfl, fun j _ _ => by rw [left]; rfl, fun j _ some e => absurd (left _ ▸ e) some,
    ⟨[], (List.append_nil _).symm, List.Sublist.refl _, fun _ _ => ⟨rfl, rfl⟩⟩, fun _ a => ?_, fun _ _ _ _ => rfl,
    fun _ => ⟨[], List.nodup_nil, fun a => ⟨fun h => absurd h List.not_mem_nil, fun h => absurd h (none a)⟩, rfl⟩⟩
  have all : ∀ xs : List EntryIx, (xs.filter fun i => !s.isOf [] a i) = xs := fun xs =>
    List.filter_eq_self.2 fun _ _ => by simp [State.isOf]
  exact ⟨by rw [all, all], fun _ => rfl, fun _ => rfl, fun h => absurd h (none a), fun _ => rfl,
    fun _ => rfl⟩

theorem State.Swept.foldl (h : s.Swept t l status done) (notOk : status ≠ .ok) (is : List EntryIx)
    (reached : ∀ i ∈ is, s.Reached l i) (once : (done ++ is).Nodup) :
    s.Swept (t.retireAll status true is) l status (done ++ is) := by
  induction is generalizing t done with
  | nil => rwa [List.append_nil]
  | cons i is ih =>
    have split : done ++ i :: is = (done ++ [i]) ++ is := List.append_cons _ _ _
    have fresh : i ∉ done := fun old => (List.nodup_append.1 once).2.2 i old i List.mem_cons_self rfl
    rw [split] at once ⊢
    exact ih (h.append notOk fresh (reached i List.mem_cons_self))
      (fun k hk => reached k (List.mem_cons_of_mem _ hk)) once

theorem State.mem_sweptEntries : i ∈ s.sweptEntries l ↔ s.Reached l i := by
  simp [State.sweptEntries, mem_sortByKey, Entry.isSwept, State.Reached, and_assoc, or_assoc]

theorem State.sweptEntries_nodup (s : State) (l : Line) : (s.sweptEntries l).Nodup :=
  (sortByKey_perm _ _).nodup_iff.2 ((List.nodup_finRange 64).filter _)

/-- A line cascade retires the entries it reaches, in order of admission number (R100). -/
theorem State.lineCascade_swept (s : State) (l : Line) {status : Status} (notOk : status ≠ .ok) :
    s.Swept (s.lineCascade l status) l status (s.sweptEntries l) :=
  (State.Swept.nil s l status).foldl notOk _ (fun _ h => State.mem_sweptEntries.1 h) (s.sweptEntries_nodup l)

end

end Sys2Proof.Machine

/-! A line comes to rest: the cascade, its STOP or DRAIN, the indication of its state, and what the part begins of
itself (R36, R37, R38, R100). -/

namespace Sys2Proof.Machine

/-- The record of a station of a line at rest: its linger timer stopped and its flush cleared (R36, R73). -/
def StationRecord.atRest (r : StationRecord) : StationRecord := { r with linger := .stopped, flushDue := none }

/-- The two states agree on what a cascade of line `l` reads. -/
structure State.SameCascade (s u : State) (l : Line) : Prop where
  entries : u.entries = s.entries
  places : u.admission.places = s.admission.places
  queue : u.retire.queue = s.retire.queue
  time : u.time = s.time
  record : ∀ a, (u.station l a).atRest = (s.station l a).atRest

section
variable {s t u v : State} {l : Line} {status : Status} {order : List EntryIx}

theorem State.SameCascade.entry (h : s.SameCascade u l) (i : EntryIx) : u.entry i = s.entry i :=
  congrArg (Table.get · i) h.entries

theorem State.SameCascade.state (h : s.SameCascade u l) (a : Station) :
    (u.station l a).state = (s.station l a).state := by
  have record := congrArg StationRecord.state (h.record a)
  exact record

theorem State.SameCascade.release (h : s.SameCascade u l) (a : Station) :
    (u.station l a).release = (s.station l a).release := by
  have record := congrArg StationRecord.release (h.record a)
  exact record

theorem State.SameCascade.leavesUncertain (h : s.SameCascade u l) (reached : ∀ i ∈ order, u.Reached l i)
    (a : Station) : u.LeavesUncertain status order a ↔ s.LeavesUncertain status order a := by
  unfold State.LeavesUncertain State.Suspects
  refine exists_congr fun i => and_congr_right fun member => ?_
  have line := (reached i member).2.1
  rw [h.entry] at line
  rw [h.entry, line, h.state]

theorem State.SameCascade.statusWord (h : s.SameCascade u l) (a : Station) :
    (u.station l a).statusWord = (s.station l a).statusWord := by
  have record := congrArg StationRecord.statusWord (h.record a)
  exact record

/-- What came of a cascade that ran in `u`, told from `s`. -/
structure State.CascadeCame (s u t v : State) (l : Line) (status : Status) (tail : List QueuedItem) : Prop where
  same : s.SameCascade u l
  swept : u.Swept t l status (u.sweptEntries l)
  entries : v.entries = t.entries
  queue : v.retire.queue = t.retire.queue ++ tail
  places : v.admission.places = t.admission.places
  record : s.FencesOk → ∀ a, v.station l a = (t.station l a).atRest

theorem State.CascadeCame.sweeps {tail : List QueuedItem} (h : s.CascadeCame u t v l status tail) :
    s.Sweeps v l status (u.sweptEntries l) tail := by
  obtain ⟨same, swept, entries, queue, places, record⟩ := h
  have entry : ∀ i, v.entry i = t.entry i := fun i => congrArg (Table.get · i) entries
  have reached : ∀ i, u.Reached l i ↔ s.Reached l i := fun i => by simp only [State.Reached, same.entry]
  have sorted := sortByKey_pairwise (fun i => (u.entry i).admission.toNat)
    ((List.finRange 64).filter fun i => (u.entry i).isSwept l)
  have noFence : ∀ i, s.NoFenceOn i → u.NoFenceOn i := fun i k j => by rw [same.entry]; exact k j
  have noAbort : ∀ i, s.NoAbortOn i → u.NoAbortOn i := fun i k p c => by rw [same.places]; exact k p c
  refine ⟨u.sweptEntries_nodup l, fun i => State.mem_sweptEntries.trans (reached i), ?_, fun i hi => ?_,
    fun j out wait => ?_, fun j wait => ⟨fun going => ?_, fun some finished => ?_⟩, ?_, fun ok a => ?_⟩
  · simp only [same.entry] at sorted
    simpa only [State.sweptEntries, same.entry] using sorted
  · rw [entry, swept.retired i hi, same.entry]
  · rw [entry, swept.others j out (by rw [same.entry]; exact wait), same.entry]
  · have now := swept.waiting j (by rw [same.entry]; exact wait) (by rw [same.entry]; exact going)
    rw [same.entry] at now
    exact (entry j).trans now
  · have now := swept.finished j (by rw [same.entry]; exact wait) (by rw [same.entry]; exact some)
      (by rw [same.entry]; exact finished)
    rw [same.entry] at now
    exact (entry j).trans now
  · obtain ⟨more, now, sub, exactly⟩ := swept.queue
    rw [same.time] at sub exactly
    refine ⟨more ++ tail, by rw [queue, now, same.queue, List.append_assoc], sub.append (List.Sublist.refl _),
      fun fences aborts => ?_⟩
    obtain ⟨items, kept⟩ := exactly (fun i hi => noFence i (fences i hi)) fun i hi => noAbort i (aborts i hi)
    exact ⟨by rw [items], places.trans (kept.trans same.places)⟩
  · have record := record ok
    have r := swept.records (fun j wait => by rw [same.entry] at wait ⊢; exact ok j wait) a
    have uncertain := same.leavesUncertain (status := status) (fun i hi => State.mem_sweptEntries.1 hi) a
    have state : (v.station l a).state = (t.station l a).state := by rw [record]; rfl
    have mine : u.isOf (u.sweptEntries l) a = s.isOf (u.sweptEntries l) a := by
      funext i
      simp only [State.isOf, same.entry]
    have closed : u.Closed l a ↔ s.Closed l a := by simp only [State.Closed, same.state]
    have release : (t.station l a).release = if a = broadcastStation ∨ (s.station l a).state = .absent
        ∨ (s.station l a).state = .offline then (s.station l a).release
        else appendTokens (s.station l a).release
          (((u.sweptEntries l).filter (s.isOf (u.sweptEntries l) a)).filterMap fun i => (s.entry i).token) := by
      rw [← same.release]
      split
      · next shut => exact r.closed (closed.2 shut)
      · next opened =>
        rw [r.opened fun shut => opened (closed.1 shut), mine]
        simp only [same.entry]
    refine ⟨?_, fun bad => state.trans (r.suspect (uncertain.2 bad)), fun calm => ?_⟩
    · have shape := congrArg (fun r : StationRecord =>
        { r with
          state := (t.station l a).state, release := (t.station l a).release
          fifo := r.fifo.filter fun i => !s.isOf (u.sweptEntries l) a i
          deferred := r.deferred.filter fun i => !s.isOf (u.sweptEntries l) a i }) (same.record a)
      have now := congrArg StationRecord.atRest r.record
      rw [mine] at now
      rw [state, record]
      refine now.trans (shape.trans ?_)
      dsimp only
      rw [release]
      rfl
    · exact state.trans ((r.same fun bad => calm (uncertain.1 bad)).trans (same.state a))

/-! ### The line at rest -/

/-- The control place when its STOP or DRAIN has completed with `done` (R38). -/
def ControlPlace.done (c : ControlPlace) (done : Status) : ControlPlace :=
  match c with
  | .pending op tag ring => .completed op tag ring done
  | c => c

/-- What a pending STOP or DRAIN of line `l` gives the retire queue (R38). -/
def State.controlItems (s : State) (l : Line) : List QueuedItem :=
  match (s.line l).control with
  | .pending _ _ _ => [{ item := .lineControl l, stamp := s.time.now }]
  | _ => []

theorem State.completeControl_eq (s : State) (l : Line) (done : Status) :
    s.completeControl l done
      = { s.setLine l { s.line l with control := (s.line l).control.done done } with
        retire := { s.retire with queue := s.retire.queue ++ s.controlItems l } } := by
  unfold State.completeControl State.controlItems
  have same : s.setLine l (s.line l) = s := by
    show ({ s with lines := _ } : State) = s
    rw [State.line, Table.set_get_self]
  cases control : (s.line l).control with
  | pending op tag ring => rfl
  | empty => simp only [ControlPlace.done, List.append_nil, ← control, same]
  | completed op tag ring status => simp only [ControlPlace.done, List.append_nil, ← control, same]

/-- What coming to rest leaves as it was: the Payload Store, the host's side, the Admission Unit but for its places,
and the posting; the retire queue only grows. -/
structure State.QuietFrame (s t : State) : Prop where
  store : t.store = s.store
  host : s.SameHost t
  unit : ∀ r, t.ringUnit r = s.ringUnit r
  credit : t.admission.credit = s.admission.credit
  counter : t.admission.counter = s.admission.counter
  asked : t.admission.asked = s.admission.asked
  stage : t.admission.stage = s.admission.stage
  posting : t.retire.posting = s.retire.posting
  queue : s.retire.queue <+: t.retire.queue
  copies : ∀ j, (t.entry j).copyLength = (s.entry j).copyLength

theorem State.RetireFrame.quiet (h : s.RetireFrame t) : s.QuietFrame t :=
  ⟨h.store, h.host, h.unit, h.credit, h.counter, h.asked, h.stage, h.posting, h.queue, h.copies⟩

theorem State.QuietFrame.trans (h : s.QuietFrame t) (k : t.QuietFrame u) : s.QuietFrame u :=
  ⟨k.store.trans h.store, h.host.trans k.host, fun r => (k.unit r).trans (h.unit r),
    k.credit.trans h.credit, k.counter.trans h.counter, k.asked.trans h.asked, k.stage.trans h.stage,
    k.posting.trans h.posting, h.queue.trans k.queue, fun j => (k.copies j).trans (h.copies j)⟩

/-- A change of lines and stations, and items that join the retire queue. -/
theorem State.quietFrame_lines (s : State) (lines : Table LineEngine 4) (stations : Table (Table StationRecord 31) 4)
    (items : List QueuedItem) :
    s.QuietFrame { s with
      lines := lines, stations := stations, retire := { s.retire with queue := s.retire.queue ++ items } } :=
  ⟨rfl, ⟨rfl, rfl, rfl, rfl, rfl, rfl, rfl, rfl, rfl⟩, fun _ => rfl, rfl, rfl, rfl, rfl, rfl, List.prefix_append _ _,
    fun _ => rfl⟩

/-- Line `l` has come to rest in `y`, but for the indication of it: the cascade ran from `u` to `t`. -/
structure State.Rested (s u t y : State) (l : Line) (state : LineState) (cause : FaultCause)
    (swept done : Status) : Prop where
  line : y.line l = { (s.line l).atRest state cause with control := (s.line l).control.done done }
  others : ∀ m, m ≠ l → y.line m = s.line m
  cascade : s.CascadeCame u t y l swept (s.controlItems l)
  started : u.ind = s.ind
  host : s.SameHost u
  elsewhere : ∀ m a, m ≠ l → u.station m a = s.station m a ∧ y.station m a = t.station m a
  ind : y.ind = t.ind
  frame : s.QuietFrame y

theorem State.restLine_station (s : State) (l : Line) (state : LineState) (cause : FaultCause) (m : Line)
    (a : Station) :
    (s.restLine l state cause).station m a = if l = m then (s.station l a).atRest else s.station m a := by
  unfold State.restLine
  rw [State.station_mapStations]
  by_cases same : l = m
  · subst same
    rw [if_pos rfl, if_pos rfl]
    rfl
  · rw [if_neg same, if_neg same]
    rfl

theorem State.restLine_line (s : State) (l : Line) (state : LineState) (cause : FaultCause) (m : Line) :
    (s.restLine l state cause).line m = if l = m then (s.line l).atRest state cause else s.line m := by
  unfold State.restLine
  rw [State.mapStations_line, State.line_modLine]

/-- A line with no exchange in flight comes to rest STOPPED (R36). -/
theorem State.stop_rested (s : State) (l : Line) :
    s.Rested s (s.lineCascade l .lineStopped)
      (((s.lineCascade l .lineStopped).completeControl l .ok).restLine l .stopped .none)
      l .stopped .none .lineStopped .ok := by
  have swept := s.lineCascade_swept l (status := .lineStopped) (by decide)
  generalize s.lineCascade l .lineStopped = t at *
  have line : ∀ m, t.line m = s.line m := swept.frame.line
  have items : t.controlItems l = s.controlItems l := by
    rw [State.controlItems, line, swept.frame.host.time, State.controlItems]
  have engine : ∀ m, (t.completeControl l .ok).line m
      = if l = m then { t.line l with control := (t.line l).control.done .ok } else t.line m := fun m => by
    rw [State.completeControl_eq]
    exact State.line_setLine _ _ _ _
  have record : ∀ m a, (t.completeControl l .ok).station m a = t.station m a := fun m a => by
    rw [State.completeControl_eq]
    rfl
  refine ⟨?_, fun m other => ?_, ⟨⟨rfl, rfl, rfl, rfl, fun _ => rfl⟩, swept, ?_, ?_, ?_, fun _ a => ?_⟩, rfl,
    State.SameHost.refl s, fun m a other => ⟨rfl, ?_⟩, ?_, swept.frame.quiet.trans ?_⟩
  · rw [State.restLine_line, if_pos rfl, engine, if_pos rfl, line]
    rfl
  · rw [State.restLine_line, if_neg other.symm, engine, if_neg other.symm, line]
  · rw [State.completeControl_eq]
    rfl
  · rw [State.completeControl_eq, ← items]
    rfl
  · rw [State.completeControl_eq]
    rfl
  · rw [State.restLine_station, if_pos rfl, record]
  · rw [State.restLine_station, if_neg other.symm, record]
  · rw [State.completeControl_eq]
    rfl
  · rw [State.completeControl_eq]
    exact t.quietFrame_lines _ _ _

/-- A line faults: it comes to rest before its entries retire (R37). -/
theorem State.fault_rested (s : State) (l : Line) (cause : FaultCause) :
    s.Rested (s.restLine l .faulted cause) ((s.restLine l .faulted cause).lineCascade l .lineFault)
      (((s.restLine l .faulted cause).lineCascade l .lineFault).completeControl l .lineFault)
      l .faulted cause .lineFault .lineFault := by
  have swept := (s.restLine l .faulted cause).lineCascade_swept l (status := .lineFault) (by decide)
  have restLine := s.restLine_line l .faulted cause
  have restStation := s.restLine_station l .faulted cause
  have quiet : s.QuietFrame (s.restLine l .faulted cause) := by
    have frame := s.quietFrame_lines (s.restLine l .faulted cause).lines (s.restLine l .faulted cause).stations []
    rw [List.append_nil] at frame
    exact frame
  have inactive : ((s.restLine l .faulted cause).line l).state.isActive = false := by
    rw [restLine, if_pos rfl]
    rfl
  have same : s.SameCascade (s.restLine l .faulted cause) l := ⟨rfl, rfl, rfl, rfl, fun a => by
    rw [restStation, if_pos rfl]
    rfl⟩
  have ind : (s.restLine l .faulted cause).ind = s.ind := rfl
  have entries : (s.restLine l .faulted cause).entries = s.entries := rfl
  have items : (s.restLine l .faulted cause).controlItems l = s.controlItems l := by
    rw [State.controlItems, restLine, if_pos rfl]
    rfl
  generalize s.restLine l .faulted cause = u at *
  generalize u.lineCascade l .lineFault = t at *
  have line : ∀ m, t.line m = u.line m := swept.frame.line
  have items' : t.controlItems l = s.controlItems l := by
    rw [← items, State.controlItems, line, swept.frame.host.time, State.controlItems]
  have engine : ∀ m, (t.completeControl l .lineFault).line m
      = if l = m then { t.line l with control := (t.line l).control.done .lineFault } else t.line m := fun m => by
    rw [State.completeControl_eq]
    exact State.line_setLine _ _ _ _
  have record : ∀ m a, (t.completeControl l .lineFault).station m a = t.station m a := fun m a => by
    rw [State.completeControl_eq]
    rfl
  refine ⟨?_, fun m other => ?_, ⟨same, swept, ?_, ?_, ?_, fun ok a => ?_⟩, ind, quiet.host,
    fun m a other => ⟨?_, record m a⟩, ?_, quiet.trans (swept.frame.quiet.trans ?_)⟩
  · rw [engine, if_pos rfl, line, restLine, if_pos rfl]
    rfl
  · rw [engine, if_neg other.symm, line, restLine, if_neg other.symm]
  · rw [State.completeControl_eq]
    rfl
  · rw [State.completeControl_eq, ← items']
  · rw [State.completeControl_eq]
    rfl
  · have ok' : u.FencesOk := fun j => by
      rw [same.entry]
      exact ok j
    have swept := swept.records ok' a
    have stopped : (t.station l a).linger = .stopped := by
      rw [swept.linger inactive, restStation, if_pos rfl]
      rfl
    have clear : (t.station l a).flushDue = none := by
      rw [swept.record, restStation, if_pos rfl]
      rfl
    rw [record, StationRecord.atRest, ← stopped, ← clear]
  · rw [restStation, if_neg other.symm]
  · rw [State.completeControl_eq]
    rfl
  · rw [State.completeControl_eq]
    exact t.quietFrame_lines _ _ _

/-! ### Between two wakes -/

/-- What the Indication Unit may begin it begins before it takes the first of several records. -/
theorem State.foldl_indicate_begun {l : Line} (bodies : List IndicationBody) (b : IndicationBody) {p q : State}
    (ind : p.ind = q.beginIndication.ind) (time : p.time = q.time) (device : p.device = q.device)
    (ring : p.indRing = q.indRing) :
    ((bodies.foldl (fun u x => u.indicate l x) p).indicate l b).ind
      = ((bodies.foldl (fun u x => u.indicate l x) q).indicate l b).ind := by
  cases bodies with
  | nil => exact State.indicate_ind_begun ind time device ring l b
  | cons x rest =>
    have first : (p.indicate l x).ind = (q.indicate l x).ind := State.indicate_ind_begun ind time device ring l x
    have same : ∀ (rest : List IndicationBody) (p q : State), p.ind = q.ind → p.time = q.time →
        p.device = q.device → p.indRing = q.indRing →
        ((rest.foldl (fun u x => u.indicate l x) p).indicate l b).ind
          = ((rest.foldl (fun u x => u.indicate l x) q).indicate l b).ind := fun rest => by
      induction rest with
      | nil => exact fun p q ind time device ring => State.indicate_ind_congr ind time device ring l b
      | cons y rest ih =>
        exact fun p q ind time device ring => ih _ _ (State.indicate_ind_congr ind time device ring l y)
          (by simpa using time) (by simpa using device) (by simpa using ring)
    exact same rest _ _ first (by simpa using time) (by simpa using device) (by simpa using ring)

theorem State.indicateSuspects_eq_foldl (s : State) (l : Line) (suspects : List Station) :
    s.indicateSuspects l suspects
      = (suspects.map fun a => IndicationBody.stationState (addressOf a) .online .suspect .retireUncertain
          ((s.station l a).statusWord.getD 0)).foldl (fun u x => u.indicate l x) s := by
  rw [State.indicateSuspects, List.foldl_map]

/-- The line at rest, between two wakes. -/
theorem State.Rested.wake {y : State} {state : LineState} {cause : FaultCause} {swept done : Status}
    (h : s.Rested u t y l state cause swept done) (running : s.device.state = .running) :
    s.wake.RestsAs (y.indicateLine l).wake l state cause swept done := by
  obtain ⟨line, others, came, started, hostU, elsewhere, ind, frame⟩ := h
  have given : y.indicateLine l = y.indicate l (.lineState state cause) := by
    unfold State.indicateLine
    rw [line]
    rfl
  rw [given]
  have woken : s.wake.CascadeCame u t (y.indicate l (.lineState state cause)).wake l swept (s.controlItems l) := by
    obtain ⟨⟨entries, places, queue, time, record⟩, ran, entries', queue', places', record'⟩ := came
    exact ⟨⟨by simpa using entries, by simpa using places, by simpa using queue, by simpa using time, by simpa using record⟩,
      ran, by simpa using entries', by simpa using queue', by simpa using places', fun ok => by
        simpa using record' (by simpa [State.FencesOk] using ok)⟩
  have control : (s.wake.line l).control = (s.line l).control := by rw [State.wake_line]
  refine ⟨?_, ⟨u.sweptEntries l, ?_, fun ok => ?_⟩, fun m other => ?_, fun ok m a other => ?_, fun r => ?_, ?_, ?_, ?_, ?_, ?_,
    ?_⟩
  · rw [State.wake_line, State.indicate_line, line, State.wake_line]
    cases (s.line l).control <;> rfl
  · have sweeps := woken.sweeps
    rw [control]
    unfold State.controlItems at sweeps
    rw [State.wake_time]
    cases held : (s.line l).control <;> rw [held] at sweeps <;> exact sweeps
  · have ok' : s.FencesOk := by simpa [State.FencesOk] using ok
    have okU : u.FencesOk := fun j => by rw [came.same.entry]; exact ok' j
    obtain ⟨suspects, once, mem, now⟩ := came.swept.indications okU
    refine ⟨suspects, once, fun a => ?_, ?_⟩
    · rw [mem]
      exact woken.same.leavesUncertain (fun i hi => State.mem_sweptEntries.1 hi) a
    · have bodies : suspects.map (fun a => IndicationBody.stationState (addressOf a) .online .suspect
          .retireUncertain ((u.station l a).statusWord.getD 0))
          = suspects.map fun a => .stationState (addressOf a) .online .suspect .retireUncertain
            ((s.wake.station l a).statusWord.getD 0) :=
        List.map_congr_left fun a _ => by rw [woken.same.statusWord]
      obtain ⟨device, time, ring⟩ := u.indicateSuspects_frame l suspects
      obtain ⟨device', time', ring'⟩ := s.wake.indicateSuspects_frame l suspects
      have own := State.indicate_ind_congr (s := u.indicateSuspects l suspects) (t := y) (ind.trans now)
        ((frame.host.time.trans hostU.time.symm).trans time.symm)
        ((frame.host.device.trans hostU.device.symm).trans device.symm)
        ((frame.host.indRing.trans hostU.indRing.symm).trans ring.symm) l (.lineState state cause)
      rw [State.indicateSuspects_eq_foldl, bodies] at own
      have begun : s.wake.ind = u.beginIndication.ind := by
        rw [State.wake_ind]
        exact (State.beginIndication_congr started hostU.device hostU.indRing).symm
      have woke := State.foldl_indicate_begun (l := l)
        (suspects.map fun a => .stationState (addressOf a) .online .suspect .retireUncertain
          ((s.wake.station l a).statusWord.getD 0)) (.lineState state cause) begun
        (by simpa using hostU.time.symm) (by simpa using hostU.device.symm) (by simpa using hostU.indRing.symm)
      rw [← State.indicateSuspects_eq_foldl] at woke
      show State.ind _ = State.ind _
      rw [State.wake_ind]
      refine State.beginIndication_congr (own.trans woke.symm) ?_ ?_
      · rw [State.indicate_device, State.indicate_device]
        exact frame.host.device.trans ((State.wake_device s).symm.trans device'.symm)
      · rw [State.indicate_indRing, State.indicate_indRing]
        exact frame.host.indRing.trans ((State.wake_indRing s).symm.trans ring'.symm)
  · rw [State.wake_line, State.indicate_line, State.wake_line, others m other]
  · have ok' : s.FencesOk := by simpa [State.FencesOk] using ok
    have okU : u.FencesOk := fun j => by rw [came.same.entry]; exact ok' j
    rw [State.wake_station, State.indicate_station, State.wake_station, (elsewhere m a other).2,
      came.swept.elsewhere okU m a other, (elsewhere m a other).1]
  · rw [State.wake_ringUnit, State.indicate_ringUnit, State.wake_ringUnit, frame.unit]
  · rw [State.wake_credit, State.indicate_admission, State.wake_credit, frame.credit]
  · rw [State.wake_counter, State.indicate_admission, State.wake_counter, frame.counter]
  · rw [State.wake_asked, State.indicate_admission, State.wake_asked, frame.asked]
  · rw [State.wake_store, State.indicate_store, State.wake_store, frame.store]
  · obtain ⟨pending, resetInput, device, time, cplRing, indRing, notify, busWrites, freeSeq⟩ := frame.host
    constructor <;> simpa
  · exact State.wakes_begin running (by simpa using frame.host.device) (by simpa using frame.host.cplRing)
      (fun r => by simpa using frame.unit r) (by simpa using frame.stage) (by simpa using frame.credit)
      (by simpa using frame.posting) (by simpa using frame.queue) fun j => by simpa using frame.copies j

end

end Sys2Proof.Machine

/-! What a line does when an event has changed its work, between two wakes (R35, R36, R37, R51), and the events whose
effect is on a line or an entry alone: the guard, the periods and the phase timers. -/

namespace Sys2Proof.Machine

section
variable {s u v : State} {l : Line}

theorem State.workCount_eq_zero_iff : u.workCount l = 0 ↔ u.NoWork l := by
  simp [State.workCount, State.NoWork, List.filter_eq_nil_iff]

theorem State.wake_noWork_iff : u.wake.NoWork l ↔ u.NoWork l := by simp [State.NoWork]

/-- The line comes to rest, between two wakes (R36). -/
theorem State.stopLine_wake (running : u.device.state = .running) (l : Line) :
    u.wake.RestsAs (u.stopLine l).wake l .stopped .none .lineStopped .ok :=
  (u.stop_rested l).wake running

/-- What follows the end of the exchange in flight when a line faults (R37). -/
def State.faultRest (s : State) (l : Line) (cause : FaultCause) : State :=
  (((s.restLine l .faulted cause).lineCascade l .lineFault).completeControl l .lineFault).indicateLine l

theorem State.faultLine_eq (s : State) (l : Line) (cause : FaultCause) :
    s.faultLine l cause = (s.cutExchange l).faultRest l cause := rfl

theorem State.faultRest_wake (running : u.device.state = .running) (l : Line) (cause : FaultCause) :
    u.wake.RestsAs (u.faultRest l cause).wake l .faulted cause .lineFault .lineFault :=
  (u.fault_rested l cause).wake running

/-- What a line does when an event has changed its work, between two wakes (R35, R36, R51). -/
theorem State.settles_wake (running : u.device.state = .running) (l : Line) :
    u.wake.Settles (u.settleLine l).wake l := by
  have work : u.workCount l = 0 ↔ u.wake.NoWork l := State.workCount_eq_zero_iff.trans State.wake_noWork_iff.symm
  generalize result : (u.settleLine l).wake = t
  have line : u.wake.line l = u.line l := State.wake_line u l
  refine ⟨fun idle rests => ?_, fun takes idle => ?_, fun goes => ?_⟩
  · rw [line] at idle rests
    have stops : u.settleLine l = u.stopLine l := by
      unfold State.settleLine
      rcases rests with state | ⟨state, none⟩
      · simp [state, idle]
      · simp [state, idle, work.2 none]
    rw [← result, stops]
    exact State.stopLine_wake running l
  · rw [line] at takes idle
    have evaluates : u.settleLine l = u.evaluate l := by
      unfold State.settleLine
      rcases takes with state | ⟨state, some⟩
      · simp [state]
      · have notInFlight : (u.line l).inFlight = false := by simp [LineEngine.inFlight, idle]
        simp [state, notInFlight, mt work.1 some]
    rw [← result, evaluates]
    exact State.evaluates_wake running idle
  · rw [line] at goes
    have same : u.settleLine l = u := by
      unfold State.settleLine
      rcases goes with ⟨state | ⟨state, some⟩, busy⟩ | ⟨state | state, flying⟩ | state | state
      · simp [state, State.evaluate_busy busy]
      · simp [state, mt work.1 some, State.evaluate_busy busy]
      · simp [state, flying]
      · simp [state, flying]
      · simp [state]
      · simp [state]
    rw [← result, same]

/-! ### Events whose effect is on a line or an entry alone -/

/-- A command whose effect `v` on the work a line answers. -/
theorem State.then_of_exec {c : Instr} {did : State → Prop} (run : exec c s = .next (v.settleLine l).wake)
    (running : v.device.state = .running) (effect : did v.wake) : s.Then c l did :=
  ⟨v.wake, (v.settleLine l).wake, run, effect, State.settles_wake running l⟩

theorem State.setLine_changesWorkOnly (s : State) (l : Line) (ln : LineEngine) :
    s.ChangesWorkOnly (s.setLine l ln) :=
  ⟨⟨rfl, rfl, rfl, rfl, rfl, rfl, rfl, rfl, rfl⟩, rfl, rfl, rfl⟩

/-- An effect on line `l` alone, and the wake after it. -/
theorem State.setLine_onlyLine_wake (running : s.device.state = .running) (l : Line) (ln : LineEngine) :
    s.OnlyLine (s.setLine l ln).wake l ln :=
  ⟨by rw [State.wake_line, State.line_setLine_self], fun m other => by
      rw [State.wake_line, State.line_setLine, if_neg other.symm],
    fun m a => State.wake_station _ m a, fun i => State.wake_entry _ i,
    (s.setLine_changesWorkOnly l ln).sameRest_wake running rfl⟩

/-- An effect on entry `i` alone, and the wake after it. -/
theorem State.setEntry_onlyEntry_wake (running : s.device.state = .running) (i : EntryIx) (e : Entry) :
    s.OnlyEntry (s.setEntry i e).wake i e :=
  ⟨by rw [State.wake_entry, State.entry_setEntry_self], fun j other => by
      rw [State.wake_entry, State.entry_setEntry, if_neg other.symm],
    fun m => State.wake_line _ m, fun m a => State.wake_station _ m a,
    (s.modEntry_changesWorkOnly i fun _ => e).sameRest_wake running rfl⟩

end

/-- Settles O50: the expiry ends the exchange in GUARD, and the line settles. -/
theorem guardExpires : Obligations.GuardExpires := by
  intro s l running guard expired
  refine State.then_of_exec (v := s.setLine l
    { s.line l with phase := .idle, current := none, guardTimer := .stopped, guardLate := false }) ?_ running
    (State.setLine_onlyLine_wake running l _)
  have run : exec (.guardExpiry l) s = .next (s.onExpiry (s.line l).guardTimer (s.guardExpired l).wake) := rfl
  rw [run, State.onExpiry_of_expired running expired, State.guardExpired, if_pos guard]
  rfl

theorem realStations_any_iff {p : Station → Bool} :
    realStations.any p = true ↔ ∃ a, a ≠ broadcastStation ∧ p a = true := by
  simp [realStations, List.any_eq_true, and_comm]

/-- Settles O51: each period is an effect on the line or on one station, and the line settles. -/
theorem lineTimers : Obligations.LineTimers := by
  intro s l running ln
  refine ⟨fun expired period => ?_, fun expired due hdue => ?_, fun a expired => ?_⟩
  · refine State.then_of_exec (v := s.setLine l
      { ln with beaconDue := true, beaconTimer := .running (1000 * ln.params.beaconPeriod) }) ?_ running
      (State.setLine_onlyLine_wake running l _)
    have run : exec (.beaconPeriodExpiry l) s
        = .next (s.onExpiry (s.line l).beaconTimer (s.beaconExpired l).wake) := rfl
    have timer : periodTimer ln.params.beaconPeriod = .running (1000 * ln.params.beaconPeriod) := by
      rw [periodTimer, if_neg period, ms, Timer.start, if_neg (by omega)]
    rw [run, State.onExpiry_of_expired running expired, ← timer]
    rfl
  · refine State.then_of_exec (v := s.setLine l
      { ln with reprobeDue := due, probeTimer := Timer.start (1000 * ln.params.probeInterval) }) ?_ running
      (State.setLine_onlyLine_wake running l _)
    have run : exec (.probeIntervalExpiry l) s
        = .next (s.onExpiry (s.line l).probeTimer (s.probeExpired l).wake) := rfl
    have asks : (ln.reprobeDue || (ln.state == .running && s.anyOffline l)) = due := by
      rw [Bool.eq_iff_iff, hdue, Bool.or_eq_true, Bool.and_eq_true, State.anyOffline, realStations_any_iff]
      simp only [beq_iff_eq]
    rw [run, State.onExpiry_of_expired running expired, ← asks]
    rfl
  · let v := s.modStation l a fun r => { r with linger := .stopped, flushDue := some s.time.increment }
    have changed : ∀ m c, v.station m c = if l = m ∧ a = c then
        { s.station l a with linger := .stopped, flushDue := some s.time.increment } else s.station m c :=
      fun m c => State.station_modStation s l m a c _
    refine State.then_of_exec (v := v) ?_ running ⟨?_, fun c other => ?_, ⟨fun m _ => State.wake_line _ m,
      fun m c other => ?_⟩, State.wake_line _ l, fun i => State.wake_entry _ i,
      (s.modStation_changesWorkOnly l a _).sameRest_wake running rfl⟩
    · have run : exec (.releaseLingerExpiry l a) s
          = .next (s.onExpiry (s.station l a).linger (s.lingerExpired l a).wake) := rfl
      rw [run, State.onExpiry_of_expired running expired]
      rfl
    · rw [State.wake_station, changed, if_pos ⟨rfl, rfl⟩]
    · rw [State.wake_station, changed, if_neg fun e => other e.2.symm]
    · rw [State.wake_station, changed, if_neg fun e => other e.1.symm]

/-- Settles O56: each expiry is an effect on the entry, and its line settles. -/
theorem phaseTimers : Obligations.PhaseTimers := by
  intro s i running expired e
  refine ⟨fun waits noToken => ?_, fun waits token => ?_, fun deferred => ?_⟩
  · refine State.then_of_exec (v := s.setEntry i { e with phaseTimer := .stopped, state := .queued }) ?_ running
      (State.setEntry_onlyEntry_wake running i _)
    have run : exec (.retryHoldoffExpiry i) s = .next (s.onExpiry (s.entry i).phaseTimer
      (if (s.entry i).state = .retryWait ∧ (s.entry i).token = none then (s.retryHoldoffExpired i).wake else s)) := rfl
    rw [run, State.onExpiry_of_expired running expired, if_pos ⟨waits, noToken⟩]
    rfl
  · refine State.then_of_exec (v := s.setEntry i
      { e with phaseTimer := .stopped, state := .deferred, dueTime := some s.time.increment }) ?_ running
      (State.setEntry_onlyEntry_wake running i _)
    have run : exec (.collectHoldoffExpiry i) s = .next (s.onExpiry (s.entry i).phaseTimer
      (if (s.entry i).state = .retryWait ∧ (s.entry i).token ≠ none then (s.becomeDue i).wake else s)) := rfl
    rw [run, State.onExpiry_of_expired running expired, if_pos ⟨waits, token⟩]
    rfl
  · have same : { e with phaseTimer := .stopped, dueTime := some s.time.increment }
        = { e with phaseTimer := .stopped, state := .deferred, dueTime := some s.time.increment } := by
      rw [← deferred]
    rw [same]
    refine State.then_of_exec (v := s.setEntry i
      { e with phaseTimer := .stopped, state := .deferred, dueTime := some s.time.increment }) ?_ running
      (State.setEntry_onlyEntry_wake running i _)
    have run : exec (.collectIntervalExpiry i) s = .next (s.onExpiry (s.entry i).phaseTimer
      (if (s.entry i).state = .deferred then (s.becomeDue i).wake else s)) := rfl
    rw [run, State.onExpiry_of_expired running expired, if_pos deferred]
    rfl

end Sys2Proof.Machine

/-! The frame on the line: the check value, the characters of a frame, and the receive checks on it (R3, R5, R6, R7,
R9, R15, R16). -/

namespace Sys2Proof.Machine

/-! ### The check value (R7) -/

theorem crcBit_eq (r : Half) (b : Bool) :
    crcBit r b = (r <<< 1) ^^^ (if r.getLsbD 15 = b then 0 else 0x1021) := by
  unfold crcBit
  by_cases same : r.getLsbD 15 = b
  · rw [if_neg (by rw [same]; simp), if_pos same]
    exact BitVec.xor_zero.symm
  · rw [if_pos (bne_iff_ne.2 same), if_neg same]

theorem crc_snoc (bytes : List Byte) (b : Byte) : crc (bytes ++ [b]) = crcByte (crc bytes) b := List.foldl_append

/-! ### The characters of a frame (R3, R5) -/

theorem ctrlByte_fields : ∀ kind < 16, ∀ seq flag event fromStation : Bool,
    let ctrl := ctrlByte kind seq flag event fromStation
    ctrl.toNat % 16 = kind ∧ ctrl.getLsbD 4 = seq ∧ ctrl.getLsbD 5 = flag ∧ ctrl.getLsbD 6 = event
      ∧ ctrl.getLsbD 7 = fromStation := by decide

section
variable {addr token release : Nat} {ctrl : Byte} {payload : List Byte}

/-- The header and payload of a frame, which its check value covers. -/
def coveredChars (addr : Nat) (ctrl : Byte) (token release : Nat) (payload : List Byte) : List Byte :=
  [byteOf addr, ctrl, byteOf payload.length, byteOf token, byteOf release] ++ payload

theorem frameChars_eq : frameChars addr ctrl token release payload
    = syncChar :: (coveredChars addr ctrl token release payload
      ++ le16 (crc (coveredChars addr ctrl token release payload))) := rfl

theorem length_coveredChars : (coveredChars addr ctrl token release payload).length = 5 + payload.length := by
  simp only [coveredChars, List.length_append, List.length_cons, List.length_nil]

theorem length_frameChars : (frameChars addr ctrl token release payload).length = 8 + payload.length := by
  rw [frameChars_eq, List.length_cons, List.length_append, length_coveredChars]
  show 5 + payload.length + 2 + 1 = _
  omega

theorem byteAt_frameChars :
    let frame := frameChars addr ctrl token release payload
    byteAt frame 1 = byteOf addr ∧ byteAt frame 2 = ctrl ∧ byteAt frame 3 = byteOf payload.length
      ∧ byteAt frame 4 = byteOf token := ⟨rfl, rfl, rfl, rfl⟩

theorem rxLength_frameChars (h : payload.length ≤ 248) :
    rxLength (frameChars addr ctrl token release payload) = payload.length := by
  rw [rxLength, (byteAt_frameChars).2.2.1, byteOf_toNat]
  omega

theorem payload_frameChars : ((frameChars addr ctrl token release payload).drop 6).take payload.length = payload := by
  have front : (frameChars addr ctrl token release payload).drop 6
      = payload ++ le16 (crc (coveredChars addr ctrl token release payload)) := rfl
  rw [front, List.take_left']
  rfl

/-! ### The receive checks (R16) -/

theorem crcOk_frameChars (h : payload.length ≤ 248) : crcOk (frameChars addr ctrl token release payload) = true := by
  unfold crcOk
  rw [rxLength_frameChars h]
  have covered : ((frameChars addr ctrl token release payload).drop 1).take (5 + payload.length)
      = coveredChars addr ctrl token release payload := by
    rw [frameChars_eq, List.drop_succ_cons, List.drop_zero, List.take_left' length_coveredChars]
  have check : (frameChars addr ctrl token release payload).drop (1 + (5 + payload.length))
      = le16 (crc (coveredChars addr ctrl token release payload)) := by
    rw [frameChars_eq, Nat.add_comm 1, List.drop_succ_cons, List.drop_left' length_coveredChars]
  dsimp only
  rw [covered, check]
  exact beq_self_eq_true _

theorem frameValid_frameChars {kind : Nat} {seq attention event : Bool} (low : 8 ≤ kind) (high : kind ≤ 14)
    (h : payload.length ≤ 248) :
    frameValid (frameChars addr (ctrlByte kind seq attention event true) token release payload) = true := by
  obtain ⟨kinds, -, -, -, direction⟩ := ctrlByte_fields kind (by omega) seq attention event true
  unfold frameValid rxKind
  rw [crcOk_frameChars h, (byteAt_frameChars).2.1, kinds, direction]
  simp [low, high]

/-- The fields handed over are the ones the frame was built from (R15). -/
theorem parseFrame_frameChars {kind : Nat} {seq attention event : Bool} (low : 8 ≤ kind) (high : kind ≤ 14)
    (h : payload.length ≤ 248) (tokens : token < 256) :
    parseFrame (frameChars addr (ctrlByte kind seq attention event true) token release payload)
      = { addr := byteOf addr, kind := kind, seq := seq, attention := attention
          length := payload.length, token := token, payload := payload } := by
  obtain ⟨kinds, seqs, attentions, -, -⟩ := ctrlByte_fields kind (by omega) seq attention event true
  obtain ⟨address, ctrl, -, tokenByte⟩ := byteAt_frameChars (addr := addr) (token := token) (release := release)
    (payload := payload) (ctrl := ctrlByte kind seq attention event true)
  unfold parseFrame rxKind
  rw [rxLength_frameChars h, payload_frameChars, address, ctrl, tokenByte, kinds, seqs, attentions, byteOf_toNat,
    Nat.mod_eq_of_lt tokens]

end

/-! ### Character by character (R14 to R16) -/

theorem classify_assemble {ln : LineEngine} {b : Byte} (assemble : ln.receiver = .assemble)
    (mark : ln.atSpace = false) :
    ln.classify { data := b, framingError := false } = classifyAssemble (ln.rxBuffer ++ [b]) := by
  simp [LineEngine.classify, assemble, mark]

theorem classifyAssemble_short {buffer : List Byte} (h : buffer.length < 6) : classifyAssemble buffer = .stored :=
  if_pos h

theorem classifyAssemble_long {buffer : List Byte} (h : 6 ≤ buffer.length) (len : 248 < rxLength buffer) :
    classifyAssemble buffer = .badDiscard := by
  rw [classifyAssemble, if_neg (by omega), if_pos len]

theorem classifyAssemble_going {buffer : List Byte} (h : 6 ≤ buffer.length) (len : rxLength buffer ≤ 248)
    (goes : buffer.length ≠ 8 + rxLength buffer) : classifyAssemble buffer = .stored := by
  rw [classifyAssemble, if_neg (by omega), if_neg (by omega), if_neg goes]

theorem classifyAssemble_complete {buffer : List Byte} (len : rxLength buffer ≤ 248)
    (ends : buffer.length = 8 + rxLength buffer) :
    classifyAssemble buffer = if frameValid buffer then .valid else .badComplete := by
  rw [classifyAssemble, if_neg (by omega), if_neg (by omega), if_pos ends]

theorem drop_take_two {bytes : List Byte} {n : Nat} (h : bytes.length = n + 2) :
    (bytes.drop n).take 2 = [byteAt bytes n, byteAt bytes (n + 1)] := by
  have short : (bytes.drop n).length = 2 := by rw [List.length_drop]; omega
  obtain ⟨x, y, e⟩ := List.length_eq_two.1 short
  have at_ : ∀ i, byteAt bytes (n + i) = byteAt (bytes.drop n) i := fun i => by
    simp [byteAt, List.getD_eq_getElem?_getD, List.getElem?_drop]
  rw [← Nat.add_zero n, at_, Nat.add_zero, at_, e]
  rfl

theorem byteAt_take_of_lt {bytes : List Byte} {i k : Nat} (h : i < k) : byteAt (bytes.take k) i = byteAt bytes i := by
  simp [byteAt, List.getD_eq_getElem?_getD, h]

theorem take_append_byteAt {bytes : List Byte} {k : Nat} (h : k < bytes.length) :
    bytes.take k ++ [byteAt bytes k] = bytes.take (k + 1) := by
  rw [List.take_add_one, byteAt, List.getD_eq_getElem?_getD, List.getElem?_eq_getElem h]
  rfl

/-- Settles O40: each check on the characters `frameChars` gives. -/
theorem frameRoundTrip : Obligations.FrameRoundTrip := by
  refine ⟨⟨rfl, fun bytes b => ?_⟩, fun addr token release ctrl payload => rfl,
    fun kind seq flag event fromStation h => ctrlByte_fields kind h seq flag event fromStation,
    fun addr token seq flag payload x hx => ?_, fun ln last assemble mark => ?_,
    fun addr kind token release seq attention event payload _ tokens low high len => ?_⟩
  · simp only [← crcBit_eq]
    exact crc_snoc bytes b
  · have code : x.1.code = x.2 := by
      simp only [List.mem_cons, List.not_mem_nil, or_false] at hx
      rcases hx with e | e | e | e | e | e <;> rw [e] <;> rfl
    rw [← code]
    exact ⟨rfl, fun item => rfl⟩
  · intro buffer n six len ends covered value
    have check := drop_take_two (bytes := buffer) (n := 6 + n) (by omega)
    rw [classify_assemble assemble mark, classifyAssemble_complete len ends]
    have valid : frameValid buffer = true ↔ le16 value = [byteAt buffer (6 + n), byteAt buffer (7 + n)]
        ∧ (byteAt buffer 2).getLsbD 7 = true ∧ 8 ≤ (byteAt buffer 2).toNat % 16
        ∧ (byteAt buffer 2).toNat % 16 ≤ 14 := by
      have reads : (buffer.drop (1 + (5 + n))).take 2 = [byteAt buffer (6 + n), byteAt buffer (7 + n)] := by
        rw [show 1 + (5 + n) = 6 + n by omega, check, show 6 + n + 1 = 7 + n by omega]
      rw [← reads]
      simp only [frameValid, crcOk, rxKind, Bool.and_eq_true, beq_iff_eq, and_assoc]
      exact Iff.rfl.and (Iff.rfl.and (decide_eq_true_iff.and decide_eq_true_iff))
    have chars : le16 value = [byteAt buffer (6 + n), byteAt buffer (7 + n)]
        ↔ byteAt buffer (6 + n) = value.extractLsb' 0 8 ∧ byteAt buffer (7 + n) = value.extractLsb' 8 8 := by
      simp only [le16, List.cons.injEq, and_true]
      exact and_congr eq_comm eq_comm
    rw [chars, and_assoc] at valid
    rw [← valid]
    split
    · next h => simp [h]
    · next h => simp [h]
  · have length := length_frameChars (addr := addr) (ctrl := ctrlByte kind seq attention event true) (token := token)
      (release := release) (payload := payload)
    refine ⟨length, parseFrame_frameChars low high len tokens, fun ln k first below assemble mark front => ?_⟩
    rw [classify_assemble assemble mark, front, take_append_byteAt below]
    generalize hf : frameChars addr (ctrlByte kind seq attention event true) token release payload = frame at *
    have own : rxLength frame = payload.length := by rw [← hf]; exact rxLength_frameChars len
    have size : (frame.take (k + 1)).length = k + 1 := by rw [List.length_take]; omega
    by_cases last : k + 1 = frame.length
    · have all : frame.take (k + 1) = frame := List.take_of_length_le (by omega)
      have valid : frameValid frame = true := by rw [← hf]; exact frameValid_frameChars low high len
      rw [if_pos last, all, classifyAssemble_complete (by omega) (by omega), if_pos valid]
    · rw [if_neg last]
      by_cases short : k + 1 < 6
      · exact classifyAssemble_short (by omega)
      · have same : rxLength (frame.take (k + 1)) = rxLength frame := by
          rw [rxLength, rxLength, byteAt_take_of_lt (by omega)]
        exact classifyAssemble_going (by omega) (by omega) (by omega)

end Sys2Proof.Machine

/-! The receiver's own events, and the sequences that reach no exchange (R14 to R16, R44, R47, R49 to R51, R154). -/

namespace Sys2Proof.Machine

section
variable {s u v : State} {l : Line}

/-! ### What a character arrival does at the receiver (R14 to R16) -/

theorem classify_sync {ln : LineEngine} (hunt : ln.receiver = .hunt) (mark : ln.atSpace = false) :
    ln.classify goodSync = .sync := by
  simp [LineEngine.classify, hunt, mark, goodSync]

theorem classify_hunt_bad {ln : LineEngine} {c : LineChar} (hunt : ln.receiver = .hunt) (mark : ln.atSpace = false)
    (bad : c.data ≠ 0xB4 ∨ c.framingError = true) : ln.classify c = .badDiscard := by
  have notSync : ¬ (c.data = syncChar ∧ c.framingError = false) := fun h => by
    rcases bad with data | framing
    · exact data h.1
    · rw [h.2] at framing; cases framing
  simp only [LineEngine.classify, hunt, mark, Bool.false_eq_true, if_false, if_neg notSync]

theorem classify_discard {ln : LineEngine} (c : LineChar) (discard : ln.receiver = .discard)
    (mark : ln.atSpace = false) : ln.classify c = .dropped := by
  simp [LineEngine.classify, discard, mark]

theorem classify_assemble_framing {ln : LineEngine} {c : LineChar} (assemble : ln.receiver = .assemble)
    (mark : ln.atSpace = false) (bad : c.framingError = true) : ln.classify c = .badDiscard := by
  simp [LineEngine.classify, assemble, mark, bad]

theorem classify_assemble_good {ln : LineEngine} {c : LineChar} (assemble : ln.receiver = .assemble)
    (mark : ln.atSpace = false) (good : c.framingError = false) :
    ln.classify c = classifyAssemble (ln.rxBuffer ++ [c.data]) := by
  simp [LineEngine.classify, assemble, mark, good]

theorem byteAt_append_of_lt {bytes more : List Byte} {i : Nat} (h : i < bytes.length) :
    byteAt (bytes ++ more) i = byteAt bytes i := List.getD_append _ _ _ _ h

/-! ### The arrivals, as effects on the line -/

theorem exec_syncArrival (running : s.device.state = .running) (h : (s.line l).classify goodSync = .sync) :
    exec (.syncArrival l) s = .next (s.syncSeen l) := by
  show Host.Outcome.next (s.onArrival l goodSync .sync (s.syncSeen l)) = _
  rw [State.onArrival, State.whenRunning_of_eq running, if_pos h]

theorem exec_characterArrival_stored {c : LineChar} (running : s.device.state = .running)
    (h : (s.line l).classify c = .stored) :
    exec (.characterArrival l c) s = .next (s.modLine l fun ln => ln.store c) := by
  simp only [exec, execCharacterArrival, State.whenRunning_of_eq running, h]

theorem exec_characterArrival_dropped {c : LineChar} (running : s.device.state = .running)
    (h : (s.line l).classify c = .dropped) :
    exec (.characterArrival l c) s = .next (s.modLine l fun ln => ln.noteFraming c) := by
  simp only [exec, execCharacterArrival, State.whenRunning_of_eq running, h]

theorem exec_badFrame_discard {c : LineChar} (running : s.device.state = .running)
    (h : (s.line l).classify c = .badDiscard) :
    exec (.badFrame l c) s = .next (s.badCharacter l c).wake := by
  simp only [exec, execBadFrame, State.onArrival, State.whenRunning_of_eq running, h, if_true]

theorem exec_badFrame_complete {c : LineChar} (running : s.device.state = .running)
    (h : (s.line l).classify c = .badComplete) : exec (.badFrame l c) s = .next (s.badLast l c).wake := by
  simp only [exec, execBadFrame, State.onArrival, State.whenRunning_of_eq running, h, if_true]

theorem exec_sequenceBreak (running : s.device.state = .running) (h : (s.line l).receiver = .assemble) :
    exec (.sequenceBreak l) s = .next (s.rxFail l).wake := by
  show Host.Outcome.next (s.whenRunning _) = _
  rw [State.whenRunning_of_eq running, if_pos h]

theorem exec_validStationFrame {last : Byte} (running : s.device.state = .running)
    (h : (s.line l).classify { data := last, framingError := false } = .valid) :
    exec (.validStationFrame l last) s = .next (s.rxValid l last).wake := by
  show Host.Outcome.next (s.onArrival l _ .valid _) = _
  rw [State.onArrival, State.whenRunning_of_eq running, if_pos h]

/-! ### A line that is IDLE has its arbiter evaluated (R51) -/

/-- A change `v` of the line's receiver, and what an IDLE line makes of it. -/
theorem State.thenIfIdle_of_exec {c : Instr} {did : State → Prop}
    (run : exec c s = .next (v.wakeIdle l).wake) (running : v.device.state = .running) (effect : did v.wake) :
    s.ThenIfIdle c l did := by
  refine ⟨v.wake, (v.wakeIdle l).wake, run, effect, fun idle => ?_, fun busy => ?_⟩
  · rw [State.wake_line] at idle
    rw [State.wakeIdle, if_pos idle]
    exact State.settles_wake running l
  · rw [State.wake_line] at busy
    rw [State.wakeIdle, if_neg busy]

/-- A command that changes line `l` alone. -/
theorem State.onlyLine_of_exec {c : Instr} {ln : LineEngine} (run : exec c s = .next (s.setLine l ln).wake)
    (running : s.device.state = .running) : ∃ t, exec c s = .next t ∧ s.OnlyLine t l ln :=
  ⟨_, run, State.setLine_onlyLine_wake running l ln⟩

theorem State.modLine_modLine (s : State) (l : Line) (f g : LineEngine → LineEngine) :
    (s.modLine l f).modLine l g = s.modLine l fun ln => g (f ln) := by
  unfold State.modLine
  rw [State.line_setLine_self]
  exact congrArg (fun t => ({ s with lines := t } : State)) (Table.set_set _ _ _ _)

theorem saturate16_eq {n : Nat} (h : n ≤ 65535) : saturate16 n = min 65535 (n + 1) := by
  unfold saturate16
  split <;> omega

/-- A bad sequence outside RECEIVE counts one error (R47, R50). -/
theorem State.handBad_of_stray (h : (s.line l).phase ≠ .receive) : s.handBad l = s.countError l := if_neg h

theorem LineEngine.store_phase (ln : LineEngine) (c : LineChar) : (ln.store c).phase = ln.phase := by
  unfold LineEngine.store
  split <;> rfl

theorem State.rxFail_of_stray (h : (s.line l).phase ≠ .receive) :
    s.rxFail l = s.modLine l fun ln => { ln.leaveHunt .discard with errors := saturate16 ln.errors } := by
  have phase : ((s.modLine l fun ln => ln.leaveHunt .discard).line l).phase ≠ .receive := by
    rw [State.line_modLine_self]
    exact h
  rw [State.rxFail, State.handBad_of_stray phase, State.countError, State.modLine_modLine]
  rfl

theorem State.badCharacter_of_stray (h : (s.line l).phase ≠ .receive) (c : LineChar) :
    s.badCharacter l c = s.modLine l fun ln =>
      { ((ln.store c).noteFraming c).leaveHunt .discard with errors := saturate16 (ln.store c).errors } := by
  have phase : ((s.modLine l fun ln => (ln.store c).noteFraming c).line l).phase ≠ .receive := by
    rw [State.line_modLine_self]
    exact fun e => h ((LineEngine.store_phase _ c).symm.trans e)
  rw [State.badCharacter, State.rxFail_of_stray phase, State.modLine_modLine]
  rfl

theorem State.badLast_of_stray (h : (s.line l).phase ≠ .receive) (c : LineChar) :
    s.badLast l c = (s.modLine l fun ln =>
      { (ln.store c).enterHunt with errors := saturate16 (ln.store c).errors }).wakeIdle l := by
  have phase : (((s.modLine l fun ln => ln.store c).modLine l fun ln => ln.enterHunt).line l).phase ≠ .receive := by
    rw [State.line_modLine_self, State.line_modLine_self]
    exact fun e => h ((LineEngine.store_phase _ c).symm.trans e)
  rw [State.badLast, State.rxBadComplete, State.handBad_of_stray phase, State.countError, State.modLine_modLine,
    State.modLine_modLine]
  rfl

end

/-- Settles O41: each event of the receiver, from what `classify` makes of it. -/
theorem receiverTakes : Obligations.ReceiverTakes := by
  intro s l running ln
  refine ⟨fun hunt mark => ?_, fun b assemble mark goes => ?_, fun c discard mark => ?_, fun discard mark => ?_, ?_⟩
  · rw [exec_syncArrival running (classify_sync hunt mark)]
    refine congrArg (fun x => Host.Outcome.next (s.setLine l x)) ?_
    simp only [LineEngine.leaveHunt, show (s.line l).receiver = .hunt from hunt, if_true]
    rfl
  · have stored : ln.classify { data := b, framingError := false } = .stored := by
      rw [classify_assemble assemble mark]
      have size : (ln.rxBuffer ++ [b]).length = ln.rxBuffer.length + 1 := by simp
      rcases goes with short | ⟨six, len, going⟩
      · exact classifyAssemble_short (by omega)
      · have same : rxLength (ln.rxBuffer ++ [b]) = (byteAt ln.rxBuffer 3).toNat := by
          rw [rxLength, byteAt_append_of_lt (by omega)]
        exact classifyAssemble_going (by omega) (by omega) (by omega)
    rw [exec_characterArrival_stored running stored]
    refine congrArg (fun x => Host.Outcome.next (s.setLine l x)) (if_pos assemble)
  · rw [exec_characterArrival_dropped running (classify_discard c discard mark)]
    refine congrArg (fun x => Host.Outcome.next (s.setLine l x)) ?_
    simp only [LineEngine.noteFraming, show (s.line l).atSpace = false from mark, Bool.false_or]
    rfl
  · refine State.thenIfIdle_of_exec (v := s.setLine l { ln with receiver := .hunt, jabberTimer := .stopped }) ?_
      running (State.setLine_onlyLine_wake running l _)
    show Host.Outcome.next (s.whenRunning _) = _
    rw [State.whenRunning_of_eq running, if_pos ⟨discard, mark⟩]
    rfl
  · show Host.Outcome.next (s.whenRunning _) = _
    rw [State.whenRunning_of_eq running]
    rfl

/-- Settles O42: each way a sequence fails its checks outside RECEIVE, as a change of the line alone. -/
theorem badStrays : Obligations.BadStrays := by
  intro s l c running stray mark errors ln counted
  have count := saturate16_eq errors
  have away : ∀ x, ln.receiver = x → x ≠ .hunt → ln.receiver ≠ .hunt := fun x e h k => h (e.symm.trans k)
  refine ⟨fun hunt bad => ?_, fun assemble bad => ?_, fun assemble good len ends invalid => ?_, fun assemble => ?_⟩
  · refine State.onlyLine_of_exec ?_ running
    rw [exec_badFrame_discard running (classify_hunt_bad hunt mark bad), State.badCharacter_of_stray stray]
    refine congrArg (fun x => Host.Outcome.next (s.setLine l x).wake) ?_
    have kept : ln.store c = ln := if_neg fun e => by rw [hunt] at e; cases e
    show ({ (LineEngine.noteFraming (ln.store c) c).leaveHunt .discard with
      errors := saturate16 (ln.store c).errors } : LineEngine) = _
    rw [kept, count]
    simp only [LineEngine.noteFraming, LineEngine.leaveHunt, hunt, if_true, show ln.atSpace = false from mark,
      Bool.false_or]
    rfl
  · have kept : ln.store c = { ln with rxBuffer := ln.rxBuffer ++ [c.data] } := if_pos assemble
    have class_ : ln.classify c = .badDiscard := by
      cases framing : c.framingError with
      | true => exact classify_assemble_framing assemble mark framing
      | false =>
        obtain ⟨five, long⟩ := bad.resolve_left (by rw [framing]; exact Bool.false_ne_true)
        rw [classify_assemble_good assemble mark framing]
        exact classifyAssemble_long (by rw [List.length_append, List.length_singleton]; omega) long
    refine State.onlyLine_of_exec ?_ running
    rw [exec_badFrame_discard running class_, State.badCharacter_of_stray stray]
    refine congrArg (fun x => Host.Outcome.next (s.setLine l x).wake) ?_
    show ({ (LineEngine.noteFraming (ln.store c) c).leaveHunt .discard with
      errors := saturate16 (ln.store c).errors } : LineEngine) = _
    rw [kept]
    simp only [LineEngine.noteFraming, LineEngine.leaveHunt, assemble, reduceCtorEq, if_false,
      show ln.atSpace = false from mark, Bool.false_or]
    rw [count]
  · have kept : ln.store c = { ln with rxBuffer := ln.rxBuffer ++ [c.data] } := if_pos assemble
    have class_ : ln.classify c = .badComplete := by
      rw [classify_assemble_good assemble mark good, classifyAssemble_complete len (by
        rw [List.length_append, List.length_singleton]; exact ends), invalid]
      rfl
    refine State.thenIfIdle_of_exec (v := s.setLine l
      { counted with receiver := .hunt, jabberTimer := .stopped, rxBuffer := ln.rxBuffer ++ [c.data] }) ?_ running
      (State.setLine_onlyLine_wake running l _)
    rw [exec_badFrame_complete running class_, State.badLast_of_stray stray]
    refine congrArg (fun x => Host.Outcome.next ((s.setLine l x).wakeIdle l).wake) ?_
    show ({ (ln.store c).enterHunt with errors := saturate16 (ln.store c).errors } : LineEngine) = _
    rw [kept]
    show ({ (LineEngine.enterHunt _) with errors := saturate16 (s.line l).errors } : LineEngine) = _
    rw [count]
    rfl
  · refine State.onlyLine_of_exec ?_ running
    rw [exec_sequenceBreak running assemble, State.rxFail_of_stray stray]
    refine congrArg (fun x => Host.Outcome.next (s.setLine l x).wake) ?_
    show ({ ln.leaveHunt .discard with errors := saturate16 (s.line l).errors } : LineEngine) = _
    rw [count, LineEngine.leaveHunt, if_neg (away _ assemble (by decide))]

/-! ### A valid station frame (R15, R45, R47) -/

section
variable {s : State} {l : Line} {last : Byte} {addr kind token : Nat} {seq attention : Bool} {payload : List Byte}

/-- The line engine when a frame has completed: the character is stored, the receiver is in HUNT (R15, R49). -/
def LineEngine.received (ln : LineEngine) (last : Byte) : LineEngine :=
  { ln with receiver := .hunt, jabberTimer := .stopped, rxBuffer := ln.rxBuffer ++ [last] }

/-- The fields of a frame as it is handed over (R15). -/
def stationFrame (addr kind : Nat) (seq attention : Bool) (token : Nat) (payload : List Byte) : StationFrame :=
  { addr := byteOf addr, kind := kind, seq := seq, attention := attention
    length := payload.length, token := token, payload := payload }

/-- A frame that completes is valid, and its fields are handed over (R15, R16). -/
theorem State.FrameEnds.handed (h : s.FrameEnds l last addr kind seq attention token payload) :
    exec (.validStationFrame l last) s = .next ((s.setLine l ((s.line l).received last)).handValid l
      (stationFrame addr kind seq attention token payload)).wake := by
  obtain ⟨running, assemble, mark, ⟨release, event, frame⟩, length, ⟨low, high⟩, -, tokens⟩ := h
  have valid : (s.line l).classify { data := last, framingError := false } = .valid := by
    rw [classify_assemble assemble mark, frame, classifyAssemble_complete, frameValid_frameChars low high length]
    · rfl
    · rw [rxLength_frameChars length]
      exact length
    · rw [rxLength_frameChars length, length_frameChars]
  rw [exec_validStationFrame running valid, State.rxValid]
  have buffer : ((s.setLine l ((s.line l).received last)).line l).rxBuffer
      = frameChars addr (ctrlByte kind seq attention event true) token release payload := by
    rw [State.line_setLine_self]
    exact frame
  show Host.Outcome.next ((s.setLine l ((s.line l).received last)).handValid l
    (parseFrame ((s.setLine l ((s.line l).received last)).line l).rxBuffer)).wake = _
  rw [buffer, parseFrame_frameChars low high length tokens]
  rfl

/-- A valid stray changes the Indication Unit alone (R47, R154). -/
theorem State.stray_of_enabled {f : StationFrame} {late : Bool} (h : s.cfg.strays = true) :
    s.stray l f late = s.indicate l (.stray f.addr f.kind f.length late (f.payload.take 48)) := if_pos h

theorem State.stray_of_disabled {f : StationFrame} {late : Bool} (h : s.cfg.strays = false) :
    s.stray l f late = s := if_neg (by rw [h]; exact Bool.false_ne_true)

theorem State.handValid_of_stray {f : StationFrame} (h : (s.line l).phase ≠ .receive) :
    s.handValid l f = (s.stray l f (s.line l).rxLate).wakeIdle l := by
  unfold State.handValid
  split
  · next e _ => exact absurd e h
  · rfl

/-- What a stray leaves as it was: all but the Indication Unit. -/
theorem State.stray_frame (s : State) (l : Line) (f : StationFrame) (late : Bool) :
    let u := s.stray l f late
    s.SameHost u ∧ u.admission = s.admission ∧ u.retire = s.retire ∧ u.lines = s.lines
      ∧ u.stations = s.stations ∧ u.entries = s.entries ∧ u.store = s.store := by
  unfold State.stray
  split
  · exact ⟨by constructor <;> simp, by simp, by simp, by simp, by simp, by simp, by simp⟩
  · exact ⟨State.SameHost.refl s, rfl, rfl, rfl, rfl, rfl, rfl⟩

end

/-- Settles O43: the frame reaches the Indication Unit alone. -/
theorem validStrays : Obligations.ValidStrays := by
  intro s l last addr kind seq attention token payload ends stray
  let w := s.setLine l ((s.line l).received last)
  have engine : w.line l = (s.line l).received last := State.line_setLine_self _ _ _
  have away : (w.line l).phase ≠ .receive := by rw [engine]; exact stray
  have run := ends.handed
  rw [State.handValid_of_stray away] at run
  generalize fields : stationFrame addr kind seq attention token payload = f at run
  obtain ⟨host, admission, retire, lines, stations, entries, store⟩ := w.stray_frame l f (w.line l).rxLate
  have late : (w.line l).rxLate = (s.line l).rxLate := by rw [engine]; rfl
  have enabled : s.cfg.strays = true → (w.stray l f (w.line l).rxLate).ind
      = (s.indicate l (.stray (byteOf addr) kind payload.length (s.line l).rxLate (payload.take 48))).ind :=
    fun on => by
      rw [State.stray_of_enabled (s := w) on, late, ← fields]
      exact State.indicate_ind_congr (s := s) (t := w) rfl rfl rfl rfl _ _
  have disabled : s.cfg.strays = false → (w.stray l f (w.line l).rxLate).ind = s.ind := fun off => by
    rw [State.stray_of_disabled (s := w) off]
    rfl
  have same : s.SameHost w := (s.setLine_changesWorkOnly l _).host
  generalize w.stray l f (w.line l).rxLate = v at *
  have hostAll : s.SameHost v := same.trans host
  have running : v.device.state = .running := by rw [hostAll.device]; exact ends.running
  have line : ∀ m, v.line m = w.line m := fun m => congrArg (Table.get · m) lines
  have station : ∀ m a, v.station m a = s.station m a := fun m a => by
    rw [State.station, stations]
    rfl
  refine State.thenIfIdle_of_exec run running ⟨?_, fun on => ?_, fun off => ?_, ⟨fun m other => ?_, fun m a _ => ?_⟩,
    fun a => ?_, fun i => ?_, ?_, ?_, hostAll.trans (State.wake_sameHost v),
    (State.SameAdmission.of_eq (s := s) admission).trans (State.wake_sameAdmission v), State.begins_wake (by rw [admission]; rfl)
      (by rw [retire]; rfl) running⟩
  · rw [State.wake_line, line, engine]
    rfl
  · exact State.oneIndication_wake (enabled on) hostAll
  · exact State.noIndication_wake (disabled off) hostAll
  · rw [State.wake_line, line]
    exact (State.line_setLine _ _ _ _).trans (if_neg other.symm)
  · rw [State.wake_station, station]
  · rw [State.wake_station, station]
  · rw [State.wake_entry]
    exact congrArg (Table.get · i) entries
  · rw [State.wake_store, store]
    rfl
  · rw [State.wake_queue, retire]
    rfl

end Sys2Proof.Machine

/-! What the ending of an exchange leaves at its line, its station and the entry that owned it, between the command and
the wake (R63, R82 to R97, R107 to R112). -/

namespace Sys2Proof.Machine

/-- The state `x` differs from `s` in line `l`, station `a` of it, entry `i`, and at most in the Payload Store and
the Indication Unit. -/
structure State.Stands (s x : State) (l : Line) (a : Station) (ln : LineEngine) (r : StationRecord) (i : EntryIx)
    (e : Entry) : Prop where
  line : x.line l = ln
  station : x.station l a = r
  entry : x.entry i = e
  lines : ∀ m, m ≠ l → x.line m = s.line m
  stations : ∀ m c, m ≠ l ∨ c ≠ a → x.station m c = s.station m c
  entries : ∀ j, j ≠ i → x.entry j = s.entry j
  host : s.SameHost x
  admission : x.admission = s.admission
  retire : x.retire = s.retire

section
variable {s x v : State} {l : Line} {a : Station} {ln : LineEngine} {r : StationRecord} {i : EntryIx} {e : Entry}
  {status : Status} {release : Option Nat} {abort : Option (PlaceIx × Immediate)}

theorem State.Stands.refl (s : State) (l : Line) (a : Station) (i : EntryIx) :
    s.Stands s l a (s.line l) (s.station l a) i (s.entry i) :=
  ⟨rfl, rfl, rfl, fun _ _ => rfl, fun _ _ _ => rfl, fun _ _ => rfl, State.SameHost.refl s, rfl, rfl⟩

theorem State.Stands.modLine (h : s.Stands x l a ln r i e) (f : LineEngine → LineEngine) :
    s.Stands (x.modLine l f) l a (f ln) r i e :=
  ⟨(State.line_modLine_self _ _ _).trans (congrArg f h.line), h.station, h.entry,
    fun m other => (State.line_modLine _ _ _ _).trans ((if_neg other.symm).trans (h.lines m other)), h.stations,
    h.entries, h.host.trans (x.modLine_changesWorkOnly l f).host, h.admission, h.retire⟩

theorem State.Stands.modStation (h : s.Stands x l a ln r i e) (f : StationRecord → StationRecord) :
    s.Stands (x.modStation l a f) l a ln (f r) i e := by
  refine ⟨h.line, ?_, h.entry, h.lines, fun m c other => ?_, h.entries,
    h.host.trans (x.modStation_changesWorkOnly l a f).host, h.admission, h.retire⟩
  · rw [State.station_modStation, if_pos ⟨rfl, rfl⟩, h.station]
  · rw [State.station_modStation, if_neg fun same => other.elim (fun k => k same.1.symm) fun k => k same.2.symm]
    exact h.stations m c other

theorem State.Stands.setEntry (h : s.Stands x l a ln r i e) (e' : Entry) :
    s.Stands (x.setEntry i e') l a ln r i e' :=
  ⟨h.line, h.station, State.entry_setEntry_self _ _ _, h.lines, h.stations,
    fun j other => (State.entry_setEntry _ _ _ _).trans ((if_neg other.symm).trans (h.entries j other)),
    h.host.trans (x.modEntry_changesWorkOnly i fun _ => e').host, h.admission, h.retire⟩

theorem State.Stands.modEntry (h : s.Stands x l a ln r i e) (f : Entry → Entry) :
    s.Stands (x.modEntry i f) l a ln r i (f e) := by
  have set := h.setEntry (f (x.entry i))
  rw [h.entry] at set
  have same : x.modEntry i f = x.setEntry i (f e) := by rw [State.modEntry, h.entry]
  rw [same]
  exact set

theorem State.Stands.setStore (h : s.Stands x l a ln r i e) (store : PayloadStore) :
    s.Stands { x with store := store } l a ln r i e :=
  ⟨h.line, h.station, h.entry, h.lines, h.stations, h.entries,
    h.host.trans ⟨rfl, rfl, rfl, rfl, rfl, rfl, rfl, rfl, rfl⟩, h.admission, h.retire⟩

theorem State.Stands.indicate (h : s.Stands x l a ln r i e) (body : IndicationBody) :
    s.Stands (x.indicate l body) l a ln r i e := by
  obtain ⟨line, station, entry, lines, stations, entries, host, admission, retire⟩ := h
  refine ⟨by simpa, by simpa, by simpa, by simpa, by simpa, by simpa, host.trans ?_, by simpa, by simpa⟩
  constructor <;> simp

/-! ### The entry goes on -/

/-- What stands after an exchange, when the part has begun what it may begin. -/
theorem State.Stands.ends (h : s.Stands x l a ln r i e) (running : s.device.state = .running) :
    s.ExchangeEnds x.wake l a ln r i e := by
  refine ⟨by rw [State.wake_line, h.line], by rw [State.wake_station, h.station], by rw [State.wake_entry, h.entry],
    fun m other => by rw [State.wake_line, h.lines m other],
    fun m c other => by rw [State.wake_station, h.stations m c other],
    fun j other => by rw [State.wake_entry, h.entries j other], h.host.trans (State.wake_sameHost x),
    fun q => ?_, ?_, ?_, ?_, State.begins_wake (by rw [h.admission]) (by rw [h.retire]) (by rw [h.host.device, running])⟩
  · rw [State.wake_ringUnit, State.ringUnit, h.admission, State.ringUnit]
  · rw [State.wake_credit, h.admission]
  · rw [State.wake_counter, h.admission]
  · rw [State.wake_asked, h.admission]

theorem State.Stands.goesOn (h : s.Stands x l a ln r i e) (running : s.device.state = .running)
    (store : x.store = s.store) (ind : x.ind = s.ind) : s.GoesOn x.wake l a ln r i e :=
  ⟨h.ends running, by rw [State.wake_places, h.admission], by rw [State.wake_queue, h.retire],
    by rw [State.wake_store, store], State.noIndication_wake ind h.host⟩

/-! ### The entry retires -/

theorem State.abortPlace_of_waits {p : PlaceIx} {c : Immediate} (h : s.AbortWaits i p c) :
    s.abortPlace i = some p := by
  obtain ⟨place, target, only⟩ := h
  cases found : s.abortPlace i with
  | none =>
    have none := List.find?_eq_none.1 found p (List.mem_finRange p)
    simp [place, target] at none
  | some q =>
    have holds := List.find?_some found
    cases at_ : s.admission.places.get q with
    | none => simp [at_] at holds
    | some d => rw [only q d at_ (by simpa [at_] using holds)]

theorem State.placesFixed_congr (h : x.admission = s.admission) (p : Option PlaceIx) (status : Status) :
    x.placesFixed p status = s.placesFixed p status := by
  unfold State.placesFixed
  cases p with
  | none => rw [State.finishAbort, State.finishAbort, h]
  | some p =>
    simp only [State.finishAbort, h]
    cases s.admission.places.get p with
    | none => rw [h]
    | some c => exact congrArg (fun u : Admission => u.places.set p _) h

theorem State.abortItems_congr (h : x.admission = s.admission) (time : x.time = s.time) (p : Option PlaceIx) :
    x.abortItems p = s.abortItems p := by
  cases p with
  | none => rfl
  | some p => simp only [State.abortItems, h, time]

/-- The place of the ABORT that waits for the entry, and what the retirement does to it (R96). -/
theorem State.AbortOn.places (h : s.AbortOn i abort) (status : Status) :
    s.placesFixed (s.abortPlace i) status = s.placesAfter abort status
      ∧ { item := .entry i, stamp := s.time.now } :: s.abortItems (s.abortPlace i) = s.itemsOf i abort := by
  cases abort with
  | none =>
    rw [State.abortPlace_of_noAbort h]
    exact ⟨rfl, rfl⟩
  | some x =>
    obtain ⟨p, c⟩ := x
    have waits : s.AbortWaits i p c := h
    rw [State.abortPlace_of_waits waits]
    simp only [State.placesFixed, State.finishAbort, waits.1, State.abortItems, reduceCtorEq, if_false]
    exact ⟨rfl, rfl⟩

/-- The owner of an ended exchange has retired, with nothing but an ABORT waiting on it. -/
structure State.StandsLeft (s v : State) (l : Line) (a : Station) (ln : LineEngine) (i : EntryIx) (e : Entry)
    (status : Status) (abort : Option (PlaceIx × Immediate)) (store : PayloadStore) : Prop where
  line : v.line l = ln
  entry : v.entry i = e.retired status
  lines : ∀ m, m ≠ l → v.line m = s.line m
  stations : ∀ m c, m ≠ l ∨ c ≠ a → v.station m c = s.station m c
  entries : ∀ j, j ≠ i → v.entry j = s.entry j
  host : s.SameHost v
  unit : ∀ q, v.ringUnit q = s.ringUnit q
  credit : v.admission.credit = s.admission.credit
  counter : v.admission.counter = s.admission.counter
  asked : v.admission.asked = s.admission.asked
  stage : v.admission.stage = s.admission.stage
  posting : v.retire.posting = s.retire.posting
  places : v.admission.places = s.placesAfter abort status
  queue : v.retire.queue = s.retire.queue ++ s.itemsOf i abort
  store : v.store = store

/-- The owner of an ended exchange retires at its station 1 to 30, whose record was `r`. -/
structure State.StandsRetired (s v : State) (l : Line) (a : Station) (ln : LineEngine) (r : StationRecord)
    (i : EntryIx) (e : Entry) (status : Status) (release : Option Nat) (abort : Option (PlaceIx × Immediate))
    (store : PayloadStore) : Prop extends s.StandsLeft v l a ln i e status abort store where
  certain : (e.finalFlags status).mayHaveExecuted = false ∨ r.state ≠ .online →
    v.station l a = r.afterRetire i release true ln.params.releaseLinger ∧ v.ind = s.ind
  suspect : (e.finalFlags status).mayHaveExecuted = true → r.state = .online →
    v.station l a = { r.afterRetire i release true ln.params.releaseLinger with state := .suspect }
      ∧ v.ind = (s.indicate l
        (.stationState (addressOf a) .online .suspect .retireUncertain (r.statusWord.getD 0))).ind

/-- The owner retires, and what becomes of the record of its station (R89). -/
theorem State.Stands.left (h : s.Stands x l a ln r i e) (line : e.line = l) (station : e.station = some a)
    (free : e.state ≠ .free) (retiring : e.state ≠ .retiring) (noFence : s.NoFenceOn i)
    (waits : e.state ≠ .fenceWait) (on : s.AbortOn i abort) (status : Status) (release : Option Nat) :
    s.StandsLeft (x.retireEntry i status release) l a ln i e status abort x.store
      ∧ (¬ x.Suspects i a status →
        (x.retireEntry i status release).station l a = x.unlinked i a release
          ∧ (x.retireEntry i status release).ind = x.ind)
      ∧ (x.Suspects i a status →
        (x.retireEntry i status release).station l a = { x.unlinked i a release with state := .suspect }
          ∧ (x.retireEntry i status release).ind = (x.indicate l
            (.stationState (addressOf a) .online .suspect .retireUncertain (r.statusWord.getD 0))).ind) := by
  have here : (x.entry i).line = l := by rw [h.entry]; exact line
  have own : (x.entry i).station = some a := by rw [h.entry]; exact station
  have retires : x.Retires (x.retireEntry i status release) i status release (x.abortPlace i) :=
    State.retireFor_retires (by rw [h.entry]; exact free) (by rw [h.entry]; exact retiring) _ _ _
  generalize x.retireEntry i status release = v at *
  have alone : ∀ j, ¬ x.WaitsFor j i := fun j k => by
    by_cases same : j = i
    · rw [same] at k
      exact waits (h.entry ▸ k.1)
    · unfold State.WaitsFor at k
      rw [h.entries j same] at k
      exact noFence j k.1 k.2
  have frame := retires.frame
  have abortPlace : x.abortPlace i = s.abortPlace i := by unfold State.abortPlace; rw [h.admission]
  obtain ⟨fixed, items⟩ := on.places status
  obtain ⟨elsewhere, certain, suspect, silent⟩ := retires.record fun j k => absurd k (alone j)
  refine ⟨⟨(frame.line l).trans h.line, by rw [retires.entry, h.entry], fun m other => (frame.line m).trans (h.lines m other),
    fun m c other => ?_, fun j other => (retires.others j other (alone j)).trans (h.entries j other),
    h.host.trans frame.host, fun q => ?_, ?_, ?_, ?_, ?_, ?_, ?_, ?_, frame.store⟩, fun calm => ?_, fun uncertain => ?_⟩
  · refine (elsewhere m c fun same => ?_).trans (h.stations m c other)
    rw [here, own] at same
    exact other.elim (fun k => k same.1) fun k => k (Option.some.inj same.2).symm
  · rw [frame.unit, State.ringUnit, h.admission, State.ringUnit]
  · rw [frame.credit, h.admission]
  · rw [frame.counter, h.admission]
  · rw [frame.asked, h.admission]
  · rw [frame.stage, h.admission]
  · rw [frame.posting, h.retire]
  · rw [retires.places, ← fixed, abortPlace, State.placesFixed_congr h.admission]
  · obtain ⟨done, -, mem, queue⟩ := retires.queue
    have nothing : done = [] := List.eq_nil_iff_forall_not_mem.2 fun j hj => alone j ((mem j).1 hj).2.1
    rw [queue, nothing, ← items, abortPlace, State.abortItems_congr h.admission h.host.time, h.retire, h.host.time]
    exact congrArg (fun more => s.retire.queue ++ _ :: more) (List.append_nil _)
  · have only : ∀ c, (x.entry i).station = some c → ¬ x.Suspects i c status := fun c k => by
      rw [own] at k
      cases k
      exact calm
    have now := certain a own calm
    rw [here] at now
    exact ⟨now, silent only⟩
  · obtain ⟨now, given⟩ := suspect a own uncertain
    rw [here] at now
    rw [here, h.station] at given
    exact ⟨now, given⟩

theorem State.Stands.retired (h : s.Stands x l a ln r i e) (active : ln.state.isActive = true)
    (ind : x.ind = s.ind) (real : a ≠ broadcastStation) (line : e.line = l) (station : e.station = some a)
    (free : e.state ≠ .free) (retiring : e.state ≠ .retiring) (noFence : s.NoFenceOn i)
    (waits : e.state ≠ .fenceWait) (on : s.AbortOn i abort) (status : Status) (release : Option Nat) :
    s.StandsRetired (x.retireEntry i status release) l a ln r i e status release abort x.store := by
  have here : (x.entry i).line = l := by rw [h.entry]; exact line
  obtain ⟨left, certain, suspect⟩ := h.left line station free retiring noFence waits on status release
  have unlinked : x.unlinked i a release = r.afterRetire i release true ln.params.releaseLinger := by
    unfold State.unlinked
    dsimp only
    rw [here, h.station, h.line, if_neg real, active]
  have suspects : x.Suspects i a status ↔ (e.finalFlags status).mayHaveExecuted = true ∧ r.state = .online := by
    unfold State.Suspects
    rw [here, h.entry, h.station]
    exact ⟨fun k => ⟨k.1, k.2.2⟩, fun k => ⟨k.1, real, k.2⟩⟩
  refine ⟨left, fun calm => ?_, fun may online => ?_⟩
  · obtain ⟨now, silent⟩ := certain fun k => by
      obtain ⟨may, online⟩ := suspects.1 k
      rcases calm with c | c
      · rw [c] at may; cases may
      · exact c online
    exact ⟨now.trans unlinked, silent.trans ind⟩
  · obtain ⟨now, given⟩ := suspect (suspects.2 ⟨may, online⟩)
    rw [unlinked] at now
    exact ⟨now, given.trans (State.indicate_ind_congr ind h.host.time h.host.device h.host.indRing _ _)⟩

/-- The owner of a broadcast retires OK: the record of address 31 keeps its state and its release list (R74, R92). -/
theorem State.Stands.left_broadcast (h : s.Stands x l broadcastStation ln r i e) (ind : x.ind = s.ind) (line : e.line = l)
    (station : e.station = some broadcastStation) (exchange : e.state = .exchange) (noFence : s.NoFenceOn i)
    (on : s.AbortOn i abort) (status : Status) :
    s.StandsLeft (x.retireEntry i status none) l broadcastStation ln i e status abort x.store
      ∧ (x.retireEntry i status none).station l broadcastStation = r.afterRetire i none true 0
      ∧ (x.retireEntry i status none).ind = s.ind := by
  have here : (x.entry i).line = l := by rw [h.entry]; exact line
  obtain ⟨left, certain, -⟩ := h.left line station (by rw [exchange]; decide) (by rw [exchange]; decide) noFence
    (by rw [exchange]; decide) on status none
  obtain ⟨record, silent⟩ := certain fun k => k.2.1 rfl
  refine ⟨left, record.trans ?_, silent.trans ind⟩
  unfold State.unlinked
  dsimp only
  rw [here, h.station]
  rfl

/-- A change of the line's phase and timers after the retirement (R46, R47). -/
theorem State.StandsLeft.modLine {store : PayloadStore} (h : s.StandsLeft v l a ln i e status abort store)
    (f : LineEngine → LineEngine) : s.StandsLeft (v.modLine l f) l a (f ln) i e status abort store := by
  obtain ⟨line, entry, lines, stations, entries, host, unit, credit, counter, asked, stage, posting, places, queue,
    store⟩ := h
  exact ⟨(State.line_modLine_self _ _ _).trans (congrArg f line), entry,
    fun m other => (State.line_modLine _ _ _ _).trans ((if_neg other.symm).trans (lines m other)), stations, entries,
    host.trans (v.modLine_changesWorkOnly l f).host, unit, credit, counter, asked, stage, posting, places, queue, store⟩

theorem State.StandsRetired.modLine {store : PayloadStore}
    (h : s.StandsRetired v l a ln r i e status release abort store) {f : LineEngine → LineEngine}
    (params : (f ln).params = ln.params) :
    s.StandsRetired (v.modLine l f) l a (f ln) r i e status release abort store := by
  obtain ⟨left, certain, suspect⟩ := h
  refine ⟨left.modLine f, ?_, ?_⟩
  · rw [params]
    exact certain
  · rw [params]
    exact suspect

theorem State.StandsLeft.ends {store : PayloadStore} {r' : StationRecord}
    (h : s.StandsLeft v l a ln i e status abort store) (running : s.device.state = .running)
    (record : v.station l a = r') : s.ExchangeEnds v.wake l a ln r' i (e.retired status) := by
  refine ⟨by rw [State.wake_line, h.line], by rw [State.wake_station, record], by rw [State.wake_entry, h.entry],
    fun m other => by rw [State.wake_line, h.lines m other],
    fun m c other => by rw [State.wake_station, h.stations m c other],
    fun j other => by rw [State.wake_entry, h.entries j other], h.host.trans (State.wake_sameHost v),
    fun q => by rw [State.wake_ringUnit, h.unit], by rw [State.wake_credit, h.credit],
    by rw [State.wake_counter, h.counter], by rw [State.wake_asked, h.asked],
    State.begins_wake h.stage h.posting (by rw [h.host.device, running])⟩

/-- The owner has retired, when the part has begun what it may begin. -/
theorem State.StandsRetired.retiresAfter {store : PayloadStore}
    (h : s.StandsRetired v l a ln r i e status release abort store) (running : s.device.state = .running) :
    s.RetiresAfter v.wake l a ln r i e status release abort ∧ v.wake.store = store := by
  refine ⟨⟨fun calm => ?_, fun may online => ?_, by rw [State.wake_places, h.places],
    by rw [State.wake_queue, h.queue]⟩, by rw [State.wake_store, h.store]⟩
  · obtain ⟨record, ind⟩ := h.certain calm
    exact ⟨h.ends running record, State.noIndication_wake ind h.host⟩
  · obtain ⟨record, ind⟩ := h.suspect may online
    exact ⟨h.ends running record, State.oneIndication_wake ind h.host⟩

end

end Sys2Proof.Machine

/-! The ending of an exchange at the line, at the station's record and at the entry that owns it, as equations
(R18, R19, R45 to R47, R63 to R66, R69, R72). -/

namespace Sys2Proof.Machine

section
variable {s x : State} {l : Line} {ex : Exchange} {ending : Ending} {i : EntryIx}

/-! ### At the line (R46, R47) -/

/-- An exchange that ends without an eighth echo fault is delivered, GUARD begins, and the line settles. -/
theorem State.endExchange_eq (current : (s.line l).current = some ex)
    (few : (((s.deliver l ex ending).modLine l fun ln => ln.enterGuard ending).line l).echoFaults < 8) :
    s.endExchange l ending
      = ((s.deliver l ex ending).modLine l fun ln => ln.enterGuard ending).settleLine l := by
  unfold State.endExchange
  rw [current]
  exact if_neg (Nat.not_le.2 few)

theorem LineEngine.enterGuard_echoFaults (ln : LineEngine) (h : ∀ full, ending ≠ .echoFault full) :
    (ln.enterGuard ending).echoFaults = 0 := by
  cases ending with
  | echoFault full => exact absurd rfl (h full)
  | _ => rfl

theorem State.endExchange_of_noEcho (current : (s.line l).current = some ex)
    (h : ∀ full, ending ≠ .echoFault full) :
    s.endExchange l ending
      = ((s.deliver l ex ending).modLine l fun ln => ln.enterGuard ending).settleLine l := by
  refine State.endExchange_eq current ?_
  rw [State.line_modLine_self, LineEngine.enterGuard_echoFaults _ h]
  decide

theorem State.deliver_of_station (real : ex.station ≠ broadcastStation) (owner : ex.owner ≠ .beacon) :
    s.deliver l ex ending = s.stationEnding l ex ending := by
  unfold State.deliver
  cases h : ex.owner with
  | beacon => exact absurd h owner
  | entry i => exact if_neg real
  | station => exact if_neg real

/-! ### At the station's record (R63, R64, R72) -/

theorem State.modStation_modStation (s : State) (l : Line) (a : Station) (f g : StationRecord → StationRecord) :
    (s.modStation l a f).modStation l a g = s.modStation l a fun r => g (f r) := by
  unfold State.modStation
  rw [State.station_setStation_self]
  exact State.setStation_setStation _ _ _ _ _

theorem StationRecord.answered_eq (r : StationRecord) (carried : Option ReleaseItem) (answer : Answer)
    (attention : Bool) (threshold : Nat) :
    (r.takeRelease carried (.answer answer attention)).takeFailures threshold (.answer answer attention)
      = r.answered carried := by
  cases carried with
  | none => rfl
  | some item =>
    show StationRecord.takeFailures (r.withRelease (r.release.filter (· != item))) _ _ = _
    unfold StationRecord.withRelease StationRecord.answered
    cases left : r.release.filter (· != item) with
    | nil => simp [left, StationRecord.takeFailures, Ending.isAnswer]
    | cons first rest => simp [left, StationRecord.takeFailures, Ending.isAnswer]

/-- The record takes an ANSWER: the carried item leaves, the failures are 0, then the content, then the owner. -/
theorem State.stationEnding_answer (answer : Answer) (attention : Bool) :
    s.stationEnding l ex (.answer answer attention)
      = ((s.modStation l ex.station fun r => r.answered ex.carried).takeContent l ex.station ex answer
          attention).ownerTakes ex (.answer answer attention) := by
  have record : (s.modStation l ex.station fun r => r.takeRelease ex.carried (.answer answer attention)).modStation l
      ex.station (fun r => r.takeFailures (s.line l).params.failureThreshold (.answer answer attention))
      = s.modStation l ex.station fun r => r.answered ex.carried := by
    rw [State.modStation_modStation]
    simp only [StationRecord.answered_eq]
  unfold State.stationEnding
  dsimp only
  rw [if_neg]
  · rw [record]
    rfl
  · rintro ⟨now, old⟩
    refine old ?_
    rw [State.station_modStation, if_pos ⟨rfl, rfl⟩] at now
    exact now

/-- The record takes an ending that is no ANSWER: a failure is counted, then the owner takes the ending, then the
OFFLINE cascade where the count has reached the threshold (R63, R64, R66). -/
theorem State.stationEnding_other (h : ending.isAnswer = false) :
    let counted := s.modStation l ex.station fun r => r.takeFailures (s.line l).params.failureThreshold ending
    s.stationEnding l ex ending
      = if (counted.station l ex.station).state = .offline ∧ (s.station l ex.station).state ≠ .offline then
          (counted.ownerTakes ex ending).offlineCascade l ex.station ex.owner (s.station l ex.station).state
        else counted.ownerTakes ex ending := by
  have kept : ∀ r : StationRecord, r.takeRelease ex.carried ending = r := fun r => by
    unfold StationRecord.takeRelease
    cases ex.carried with
    | none => rfl
    | some item => exact if_neg (by rw [h]; exact Bool.false_ne_true)
  have same : (s.modStation l ex.station fun r => r.takeRelease ex.carried ending) = s := by
    unfold State.modStation
    dsimp only
    rw [kept]
    show ({ s with stations := _ } : State) = s
    rw [State.station, Table.set_get_self, Table.set_get_self]
  have content : ∀ u : State, u.takeAnswer l ex ending = u := fun u => by
    cases ending with
    | answer a attention => cases h
    | _ => rfl
  intro counted
  unfold State.stationEnding
  dsimp only
  rw [same, content]

theorem StationRecord.takeFailures_below {r : StationRecord} {threshold : Nat} (failure : ending.isFailure = true)
    (absent : r.state ≠ .absent) (offline : r.state ≠ .offline) (below : r.failures + 1 < threshold) :
    r.takeFailures threshold ending = { r with failures := r.failures + 1 } := by
  have notAnswer : ending.isAnswer = false := by cases ending <;> first | rfl | cases failure
  unfold StationRecord.takeFailures
  rw [if_neg (by rw [notAnswer]; exact Bool.false_ne_true), if_pos (by simp [failure, absent, offline]),
    if_neg (by omega)]

theorem State.ownerTakes_entry (owner : ex.owner = .entry i) :
    s.ownerTakes ex ending = s.entryEnding i ex.kind ending := by
  unfold State.ownerTakes
  rw [owner]

theorem State.ownerTakes_station (owner : ex.owner = .station) : s.ownerTakes ex ending = s := by
  unfold State.ownerTakes
  rw [owner]

/-! ### At the entry (R83 to R88, R107 to R112) -/

theorem State.entryEnding_poll {e : Entry} (own : s.entry i = e) (exchange : e.state = .exchange)
    {kind : MasterKind} (poll : kind ≠ .collect) (noReply : ending.replyPayload = none) :
    s.entryEnding i kind ending
      = (s.setEntry i (e.afterPoll ending)).takeFate i ((e.afterPoll ending).pollFate ending) := by
  have kept : s.keepReply i ending = s := by
    unfold State.keepReply
    rw [noReply]
  rw [State.entryEnding, if_pos (by rw [own]; exact exchange), if_neg poll, kept, State.pollEnding, own]

theorem State.entryEnding_collect {e : Entry} (own : s.entry i = e) (exchange : e.state = .exchange)
    (noReply : ending.replyPayload = none) :
    s.entryEnding i .collect ending
      = (s.setEntry i (e.afterCollect ending)).takeFate i
          ((e.afterCollect ending).collectFate (s.line e.line).params.collectLimit ending) := by
  have kept : s.keepReply i ending = s := by
    unfold State.keepReply
    rw [noReply]
  have line : (e.afterCollect ending).line = e.line := by
    unfold Entry.afterCollect
    split <;> rfl
  rw [State.entryEnding, if_pos (by rw [own]; exact exchange), if_pos rfl, kept, State.collectEnding, own, line]

/-- The Payload Store with the reply in the entry's reservation, as far as the reply limit (R121). -/
def State.replied (s : State) (i : EntryIx) (payload : List Byte) : PayloadStore :=
  { s.store with
    bytes := s.store.bytes.writeChain (s.entry i).replyReservation (payload.take (s.entry i).replyLimit) }

/-- A REPLY retires the entry OK, with its bytes kept (R83, R107, R121). -/
theorem State.entryEnding_reply {e : Entry} (own : s.entry i = e) (exchange : e.state = .exchange)
    (kind : MasterKind) (payload : List Byte) (attention : Bool) :
    s.entryEnding i kind (.answer (.reply payload) attention)
      = (({ s with store := s.replied i payload }).setEntry i
          { e with replyTrueLength := some payload.length, lastEnding := .none }).retireEntry i .ok
            (if kind = MasterKind.collect then e.token else none) := by
  subst own
  rw [State.entryEnding, if_pos exchange]
  by_cases collect : kind = MasterKind.collect
  · rw [if_pos collect, if_pos collect]
    rfl
  · rw [if_neg collect, if_neg collect]
    rfl

end

/-! ### What a station frame is to the exchange (R18, R19, R45) -/

section
variable {s : State} {l : Line} {ex : Exchange} {addr kind token : Nat} {seq attention : Bool}
  {payload : List Byte}

theorem byteOf_addressOf_toNat (a : Station) : (byteOf (addressOf a)).toNat = a.val + 1 := by
  have below := a.isLt
  rw [byteOf_toNat, addressOf]
  omega

theorem isToken_iff {t : Nat} : isToken t = true ↔ 1 ≤ t ∧ t ≤ 15 := by simp [isToken]

theorem State.tokenTest_iff {t : Nat} : s.tokenTest l ex t = true ↔ s.TokenPasses l ex t := by
  unfold State.tokenTest State.TokenPasses
  simp only [Bool.and_eq_true, List.all_eq_true, bne_iff_ne, Bool.or_eq_true, Bool.not_eq_true', beq_iff_eq]
  refine Iff.rfl.and ?_
  by_cases listed : ({ kind := .deferred, token := t } : ReleaseItem) ∈ (s.station l ex.station).release
  · simp [listed]
  · simp [listed]

theorem State.classifyAnswer_setLine (ln : LineEngine) (f : StationFrame) :
    (s.setLine l ln).classifyAnswer l ex f = s.classifyAnswer l ex f := rfl

theorem State.classifyAnswer_of_acceptable {f : StationFrame} {a : Answer} (h : acceptable ex f = some a)
    (notDefer : ∀ t, a ≠ .defer t) : s.classifyAnswer l ex f = .answer a f.attention := by
  unfold State.classifyAnswer
  rw [h]
  cases a with
  | defer t => exact absurd rfl (notDefer t)
  | _ => rfl

theorem acceptable_of_station (f : StationFrame) (h : f.addr.toNat = ex.station.val + 1) :
    (ex.kind = .poll → acceptable ex f = answerToPoll ex f)
    ∧ (ex.kind = .collect → acceptable ex f = answerToCollect ex f)
    ∧ (ex.kind = .probe ∨ ex.kind = .sync → acceptable ex f = answerToProbe f)
    ∧ (ex.kind = .eventFetch → acceptable ex f = answerToFetch f) := by
  unfold acceptable
  rw [if_pos h]
  refine ⟨fun k => by rw [k], fun k => by rw [k], fun k => ?_, fun k => by rw [k]⟩
  rcases k with k | k <;> rw [k]

end

end Sys2Proof.Machine

/-! The answers that an entry takes: a POLL's and a COLLECT's (R65, R69, R83 to R86, R103, R104, R107 to R109). -/

namespace Sys2Proof.Machine

section
variable {s v x : State} {l : Line} {ex : Exchange} {i : EntryIx} {last : Byte} {addr kind token : Nat}
  {seq attention : Bool} {payload : List Byte} {answer : Answer} {r : StationRecord} {e : Entry}

/-! ### What every answer does at the line -/

/-- The frame's fields as an answer, for the exchange in RECEIVE. -/
def stationAnswer (ex : Exchange) (kind : Nat) (seq attention : Bool) (token : Nat) (payload : List Byte) :
    StationFrame := stationFrame (addressOf ex.station) kind seq attention token payload

/-- An answer ends the exchange: it is delivered, and GUARD begins (R45 to R47). -/
theorem State.FrameEnds.exec_answer
    (h : s.FrameEnds l last (addressOf ex.station) kind seq attention token payload) (receiving : s.Receiving l ex)
    (classified : s.classifyAnswer l ex (stationAnswer ex kind seq attention token payload)
      = .answer answer attention) :
    exec (.validStationFrame l last) s = .next ((((s.setLine l ((s.line l).received last)).deliver l ex
      (.answer answer attention)).modLine l fun ln => ln.enterGuard (.answer answer attention)).settleLine l).wake := by
  obtain ⟨-, phase, current, -⟩ := receiving
  have engine : (s.setLine l ((s.line l).received last)).line l = (s.line l).received last :=
    State.line_setLine_self _ _ _
  have inReceive : ((s.setLine l ((s.line l).received last)).line l).phase = .receive := by rw [engine]; exact phase
  have same : ((s.setLine l ((s.line l).received last)).line l).current = some ex := by rw [engine]; exact current
  have run := h.handed
  unfold State.handValid at run
  rw [inReceive, same] at run
  dsimp only at run
  rw [State.classifyAnswer_setLine] at run
  rw [show stationFrame (addressOf ex.station) kind seq attention token payload
    = stationAnswer ex kind seq attention token payload from rfl, classified, if_neg (by simp),
    State.endExchange_of_noEcho same (by simp)] at run
  exact run

/-- An active line's transmitter is on. -/
theorem State.Active.isActive (h : s.Active l) : (s.line l).state.isActive = true := by
  rcases h with h | h | h <;> rw [h] <;> rfl

/-- What the record of a station takes from the answer to a POLL or a COLLECT before the owner (R65, R69). -/
def StationRecord.heard (r : StationRecord) (attention : Bool) : StationRecord :=
  { r with attention := r.attention || attention }

/-- The command `c` ends the exchange `ex` that entry `i` owns with `ending`: the line engine is `ln` and the
station's record `r` when the owner takes the ending, before GUARD begins. -/
def State.Delivers (s : State) (c : Instr) (l : Line) (ex : Exchange) (i : EntryIx) (ln : LineEngine)
    (r : StationRecord) (ending : Ending) : Prop :=
  ∃ x, s.Stands x l ex.station ln r i (s.entry i) ∧ x.store = s.store ∧ x.ind = s.ind
    ∧ exec c s
      = .next (((x.entryEnding i ex.kind ending).modLine l fun ln => ln.enterGuard ending).settleLine l).wake

theorem State.Then.mono {c : Instr} {did did' : State → Prop} (h : s.Then c l did) (k : ∀ t, did t → did' t) :
    s.Then c l did' := by
  obtain ⟨u, t, run, effect, settles⟩ := h
  exact ⟨u, t, run, k u effect, settles⟩

/-- The owner goes on after the ending. -/
theorem State.Delivers.goesOn {c : Instr} {ln : LineEngine} {r r' : StationRecord} {e : Entry} {ending : Ending}
    (h : s.Delivers c l ex i ln r ending) (running : s.device.state = .running)
    (takes : ∀ x : State, s.Stands x l ex.station ln r i (s.entry i) →
      s.Stands (x.entryEnding i ex.kind ending) l ex.station ln r' i e
        ∧ (x.entryEnding i ex.kind ending).store = x.store ∧ (x.entryEnding i ex.kind ending).ind = x.ind) :
    s.Then c l fun t => s.GoesOn t l ex.station (ln.enterGuard ending) r' i e := by
  obtain ⟨x, stands, store, ind, run⟩ := h
  obtain ⟨stands', store', ind'⟩ := takes x stands
  have guarded := stands'.modLine fun ln => ln.enterGuard ending
  exact State.then_of_exec run (by rw [guarded.host.device, running])
    (guarded.goesOn running (store'.trans store) (ind'.trans ind))

/-- The owner, as `e`, retires after the ending. -/
theorem State.Delivers.retires {c : Instr} {ln : LineEngine} {r : StationRecord} {e : Entry} {ending : Ending}
    {status : Status} {release : Option Nat} {abort : Option (PlaceIx × Immediate)} {store : PayloadStore}
    (h : s.Delivers c l ex i ln r ending) (running : s.device.state = .running)
    (active : ln.state.isActive = true) (real : ex.station ≠ broadcastStation) (exchange : e.state = .exchange)
    (line : e.line = l) (station : e.station = some ex.station) (on : s.AbortOn i abort) (noFence : s.NoFenceOn i)
    (takes : ∀ x : State, x.entry i = s.entry i → x.store = s.store → (x.line l).params = ln.params →
      x.entryEnding i ex.kind ending
        = (({ x with store := store }).setEntry i e).retireEntry i status release) :
    s.Then c l fun t =>
      s.RetiresAfter t l ex.station (ln.enterGuard ending) r i e status release abort ∧ t.store = store := by
  obtain ⟨x, stands, store', ind, run⟩ := h
  rw [takes x stands.entry store' (by rw [stands.line])] at run
  have retired := ((stands.setStore store).setEntry e).retired active ind real line station
    (by rw [exchange]; decide) (by rw [exchange]; decide) noFence (by rw [exchange]; decide) on status release
  have guarded := retired.modLine (f := fun ln => ln.enterGuard ending) rfl
  exact State.then_of_exec run (by rw [guarded.host.device, running]) (guarded.retiresAfter running)

/-- An answer to an exchange that an entry owns. -/
theorem State.FrameEnds.delivers
    (h : s.FrameEnds l last (addressOf ex.station) kind seq attention token payload) (receiving : s.Receiving l ex)
    (owner : ex.owner = .entry i)
    (classified : s.classifyAnswer l ex (stationAnswer ex kind seq attention token payload)
      = .answer answer attention)
    {f : StationRecord → StationRecord}
    (content : ∀ u : State, u.takeContent l ex.station ex answer attention = u.modStation l ex.station f) :
    s.Delivers (.validStationFrame l last) l ex i ((s.line l).received last)
      (f ((s.station l ex.station).answered ex.carried)) (.answer answer attention) := by
  have base := (((State.Stands.refl s l ex.station i).modLine fun ln => ln.received last).modStation
    fun r => r.answered ex.carried).modStation f
  refine ⟨_, base, rfl, rfl, (h.exec_answer receiving classified).trans ?_⟩
  rw [State.deliver_of_station receiving.station (by rw [owner]; exact fun h => by cases h), State.stationEnding_answer,
    content, State.ownerTakes_entry owner]
  rfl

/-! ### The fates that the flags decide (R94, R96, R97) -/

/-- The flags set while the exchange went on decide the retirement with `status`. -/
def Entry.DecidedBy (e : Entry) (status : Status) : Prop :=
  (e.abortPending = true ∧ status = .aborted)
    ∨ (e.abortPending = false ∧ e.deadlinePassed = true ∧ status = .deadline)

theorem ite_retire {e : Entry} {status : Status} (h : e.DecidedBy status) (release : Option Nat) (other : Fate) :
    (if e.abortPending = true then Fate.retire .aborted release
      else if e.deadlinePassed = true then Fate.retire .deadline release else other) = .retire status release := by
  rcases h with ⟨abort, same⟩ | ⟨abort, deadline, same⟩
  · rw [if_pos abort, same]
  · rw [if_neg (by rw [abort]; exact Bool.false_ne_true), if_pos deadline, same]

theorem ite_undecided {e : Entry} (abort : e.abortPending = false) (deadline : e.deadlinePassed = false)
    (release : Option Nat) (other : Fate) :
    (if e.abortPending = true then Fate.retire .aborted release
      else if e.deadlinePassed = true then Fate.retire .deadline release else other) = other := by
  rw [if_neg (by rw [abort]; exact Bool.false_ne_true), if_neg (by rw [deadline]; exact Bool.false_ne_true)]

theorem Entry.mayHaveExecuted_of_reply {e : Entry} {status : Status} {n : Nat} (h : e.replyTrueLength = some n) :
    (e.finalFlags status).mayHaveExecuted = false := by
  simp [Entry.finalFlags, h]

/-- A REPLY that the exchange's owner takes retires it OK, its bytes kept (R83, R107, R121). -/
theorem State.takes_reply {ln : LineEngine} {r : StationRecord} {c : Instr}
    (h : s.Delivers c l ex i ln r (.answer (.reply payload) attention)) (running : s.device.state = .running)
    (active : ln.state.isActive = true) (real : ex.station ≠ broadcastStation)
    (exchange : (s.entry i).state = .exchange) (line : (s.entry i).line = l)
    (station : (s.entry i).station = some ex.station) {abort : Option (PlaceIx × Immediate)} (on : s.AbortOn i abort)
    (noFence : s.NoFenceOn i) :
    s.Then c l fun t =>
      s.RetiresAfter t l ex.station (ln.enterGuard (.answer (.reply payload) attention)) r i
        { s.entry i with replyTrueLength := some payload.length, lastEnding := .none } .ok
        (if ex.kind = MasterKind.collect then (s.entry i).token else none) abort
      ∧ t.store = s.replied i payload := by
  refine h.retires running active real exchange line station on noFence fun x own store _ => ?_
  have kept : x.replied i payload = s.replied i payload := by
    rw [State.replied, store, own, State.replied]
  rw [State.entryEnding_reply own exchange, kept]

end

/-- Settles O44: the owner retires OK with the reply, which leaves nothing uncertain. -/
theorem replyTaken : Obligations.ReplyTaken := by
  intro s l ex i last attention payload abort ends receiving owner poll exchange line station on noFence r kept
  have accepted : acceptable ex (stationAnswer ex 8 ex.seq attention 0 payload) = some (.reply payload) := by
    rw [(acceptable_of_station _ (byteOf_addressOf_toNat _)).1 poll]
    simp [answerToPoll, stationAnswer, stationFrame]
  have classified : s.classifyAnswer l ex (stationAnswer ex 8 ex.seq attention 0 payload)
      = .answer (.reply payload) attention :=
    State.classifyAnswer_of_acceptable accepted fun t e => by cases e
  have content : ∀ u : State, u.takeContent l ex.station ex (.reply payload) attention
      = u.modStation l ex.station fun r => { r.seeAttention attention with seqBit := !r.seqBit } := fun u => by
    unfold State.takeContent
    rw [poll]
    rfl
  have noToken : (if ex.kind = MasterKind.collect then (s.entry i).token else none) = none :=
    if_neg (by rw [poll]; decide)
  refine (State.takes_reply (ends.delivers receiving owner classified content) ends.running receiving.active.isActive
    receiving.station exchange line station on noFence).mono fun t ⟨retires, store⟩ => ?_
  obtain ⟨ended, indication⟩ := retires.certain (Or.inl (Entry.mayHaveExecuted_of_reply rfl))
  rw [noToken] at ended
  exact ⟨ended, store, retires.places, retires.queue, indication⟩

end Sys2Proof.Machine

/-! The fates of an entry, and the answers of a station that defers (R84 to R88, R103, R104, R107 to R112). -/

namespace Sys2Proof.Machine

section
variable {s x : State} {l : Line} {ex : Exchange} {a : Station} {i : EntryIx} {ln : LineEngine}
  {r r' : StationRecord} {e e' : Entry} {c : Instr} {ending : Ending} {status : Status} {release : Option Nat}
  {abort : Option (PlaceIx × Immediate)} {fate : Fate}

/-! ### An entry that goes on -/

/-- What stands after the entry has taken its fate, with nothing given and nothing stored. -/
def State.StandsOn (s x y : State) (l : Line) (a : Station) (ln : LineEngine) (r : StationRecord) (i : EntryIx)
    (e : Entry) : Prop := s.Stands y l a ln r i e ∧ y.store = x.store ∧ y.ind = x.ind

theorem State.Stands.requeue (h : s.Stands x l a ln r i e) :
    s.StandsOn x (x.takeFate i .requeue) l a ln r i { e with state := .queued } :=
  ⟨h.modEntry fun e => { e with state := .queued }, rfl, rfl⟩

theorem State.Stands.retryWait (h : s.Stands x l a ln r i e) (line : e.line = l) (attempts : Nat) :
    s.StandsOn x (x.takeFate i (.retryWait attempts)) l a ln r i
      { e with
        state := .retryWait, phaseTimer := Timer.start (holdoffLength ln.params.retryHoldoffBase attempts) } := by
  have stands := h.modEntry fun e =>
    { e with
      state := .retryWait
      phaseTimer := Timer.start (holdoffLength (x.line e.line).params.retryHoldoffBase attempts) }
  subst line
  rw [h.line] at stands
  exact ⟨stands, rfl, rfl⟩

theorem State.Stands.waitCollect (h : s.Stands x l a ln r i e) (line : e.line = l) :
    s.StandsOn x (x.takeFate i .waitCollect) l a ln r i
      { e with
        state := .deferred, dueTime := none
        phaseTimer := Timer.start (1000 * ln.params.collectInterval) } := by
  have stands := h.modEntry fun e =>
    { e with
      state := .deferred, dueTime := none
      phaseTimer := Timer.start (ms (x.line e.line).params.collectInterval) }
  subst line
  rw [h.line] at stands
  exact ⟨stands, rfl, rfl⟩

theorem State.Stands.dueCollect (h : s.Stands x l a ln r i e) :
    s.StandsOn x (x.takeFate i .dueCollect) l a ln r i
      { e with state := .deferred, phaseTimer := .stopped, dueTime := some s.time.increment } := by
  have stands := h.modEntry fun e =>
    { e with state := .deferred, phaseTimer := .stopped, dueTime := some s.time.increment }
  have same : x.takeFate i .dueCollect = x.modEntry i fun e =>
      { e with state := .deferred, phaseTimer := .stopped, dueTime := some s.time.increment } := by
    rw [← h.host.time]
    rfl
  rw [same]
  exact ⟨stands, rfl, rfl⟩

theorem State.Stands.deferUnder (h : s.Stands x l a ln r i e) (line : e.line = l) (station : e.station = some a)
    (real : a ≠ broadcastStation) (token : Nat) :
    s.StandsOn x (x.takeFate i (.deferUnder token)) l a ln (r.deferWork i) i
      { e with
        state := .deferred, token := some token, collectAttemptsUsed := 0, collectsUsed := 0, dueTime := none
        phaseTimer := Timer.start (1000 * ln.params.collectInterval) } := by
  have moved : x.moveToDeferred i = x.modStation l a fun r => r.deferWork i := by
    unfold State.moveToDeferred
    rw [h.entry, station, line]
    exact if_neg real
  have stands := (h.modStation fun r => r.deferWork i).setEntry
    { e with
      state := .deferred, token := some token, collectAttemptsUsed := 0, collectsUsed := 0, dueTime := none
      phaseTimer := Timer.start (1000 * ln.params.collectInterval) }
  have same : x.takeFate i (.deferUnder token) = (x.modStation l a fun r => r.deferWork i).setEntry i
      { e with
        state := .deferred, token := some token, collectAttemptsUsed := 0, collectsUsed := 0, dueTime := none
        phaseTimer := Timer.start (1000 * ln.params.collectInterval) } := by
    show x.deferEntry i token = _
    unfold State.deferEntry
    dsimp only
    subst line
    rw [moved, h.entry, h.line]
    rfl
  rw [same]
  exact ⟨stands, rfl, rfl⟩

/-! ### The owner of an exchange that ended without a REPLY -/

theorem State.Delivers.poll_goesOn (h : s.Delivers c l ex i ln r ending) (running : s.device.state = .running)
    (exchange : (s.entry i).state = .exchange) (poll : ex.kind ≠ .collect) (noReply : ending.replyPayload = none)
    (fate_eq : ((s.entry i).afterPoll ending).pollFate ending = fate)
    (takes : ∀ y : State, s.Stands y l ex.station ln r i ((s.entry i).afterPoll ending) →
      s.StandsOn y (y.takeFate i fate) l ex.station ln r' i e') :
    s.Then c l fun t => s.GoesOn t l ex.station (ln.enterGuard ending) r' i e' := by
  refine h.goesOn running fun x stands => ?_
  rw [State.entryEnding_poll stands.entry exchange poll noReply, fate_eq]
  exact takes _ (stands.setEntry _)

theorem State.Delivers.collect_goesOn (h : s.Delivers c l ex i ln r ending) (running : s.device.state = .running)
    (exchange : (s.entry i).state = .exchange) (line : (s.entry i).line = l) (collect : ex.kind = .collect)
    (noReply : ending.replyPayload = none)
    (fate_eq : ((s.entry i).afterCollect ending).collectFate ln.params.collectLimit ending = fate)
    (takes : ∀ y : State, s.Stands y l ex.station ln r i ((s.entry i).afterCollect ending) →
      s.StandsOn y (y.takeFate i fate) l ex.station ln r' i e') :
    s.Then c l fun t => s.GoesOn t l ex.station (ln.enterGuard ending) r' i e' := by
  refine h.goesOn running fun x stands => ?_
  rw [collect, State.entryEnding_collect stands.entry exchange noReply, line, stands.line, fate_eq]
  exact takes _ (stands.setEntry _)

/-- What the retirement of an exchange's owner takes for granted. -/
structure State.Owned (s : State) (l : Line) (ex : Exchange) (i : EntryIx) : Prop where
  running : s.device.state = .running
  exchange : (s.entry i).state = .exchange
  line : (s.entry i).line = l
  station : (s.entry i).station = some ex.station
  real : ex.station ≠ broadcastStation
  noFence : s.NoFenceOn i

theorem Entry.afterPoll_frame (e : Entry) (ending : Ending) :
    (e.afterPoll ending).state = e.state ∧ (e.afterPoll ending).line = e.line
      ∧ (e.afterPoll ending).station = e.station := by
  unfold Entry.afterPoll
  split <;> exact ⟨rfl, rfl, rfl⟩

theorem Entry.afterCollect_frame (e : Entry) (ending : Ending) :
    (e.afterCollect ending).state = e.state ∧ (e.afterCollect ending).line = e.line
      ∧ (e.afterCollect ending).station = e.station := by
  unfold Entry.afterCollect
  split <;> exact ⟨rfl, rfl, rfl⟩

theorem State.Delivers.poll_retires (h : s.Delivers c l ex i ln r ending) (owned : s.Owned l ex i)
    (active : ln.state.isActive = true) (poll : ex.kind ≠ .collect) (noReply : ending.replyPayload = none)
    (fate_eq : ((s.entry i).afterPoll ending).pollFate ending = .retire status release) (on : s.AbortOn i abort) :
    s.Then c l fun t =>
      s.RetiresAfter t l ex.station (ln.enterGuard ending) r i ((s.entry i).afterPoll ending) status release abort
        ∧ t.store = s.store := by
  obtain ⟨running, exchange, line, station, real, noFence⟩ := owned
  obtain ⟨state, line', station'⟩ := (s.entry i).afterPoll_frame ending
  refine h.retires running active real (state.trans exchange) (line'.trans line) (station'.trans station) on noFence
    fun x own store _ => ?_
  rw [State.entryEnding_poll own exchange poll noReply, fate_eq, ← store]
  rfl

theorem State.Delivers.collect_retires (h : s.Delivers c l ex i ln r ending) (owned : s.Owned l ex i)
    (active : ln.state.isActive = true) (collect : ex.kind = .collect) (noReply : ending.replyPayload = none)
    (fate_eq : ((s.entry i).afterCollect ending).collectFate ln.params.collectLimit ending = .retire status release)
    (on : s.AbortOn i abort) :
    s.Then c l fun t =>
      s.RetiresAfter t l ex.station (ln.enterGuard ending) r i ((s.entry i).afterCollect ending) status release abort
        ∧ t.store = s.store := by
  obtain ⟨running, exchange, line, station, real, noFence⟩ := owned
  obtain ⟨state, line', station'⟩ := (s.entry i).afterCollect_frame ending
  refine h.retires running active real (state.trans exchange) (line'.trans line) (station'.trans station) on noFence
    fun x own store params => ?_
  rw [collect, State.entryEnding_collect own exchange noReply, line, params, fate_eq, ← store]
  rfl

theorem State.takeContent_collect (collect : ex.kind = .collect) (answer : Answer) (attention : Bool) (u : State) :
    u.takeContent l ex.station ex answer attention
      = u.modStation l ex.station fun r => r.seeAttention attention := by
  unfold State.takeContent
  rw [collect]
  rfl

end

/-- Settles O45: what each answer makes of the owner, with the flags deciding first. -/
theorem deferTaken : Obligations.DeferTaken := by
  intro s l ex i last kind seq attention token payload ends receiving owner exchange line station noFence e r heard ln
    interval goesOn retires
  have owned : s.Owned l ex i := ⟨ends.running, exchange, line, station, receiving.station, noFence⟩
  have active : ((s.line l).received last).state.isActive = true := receiving.active.isActive
  have answer := acceptable_of_station (ex := ex) (stationAnswer ex kind seq attention token payload)
    (byteOf_addressOf_toNat _)
  refine ⟨fun poll isDefer flag low high passes => ?_, fun collect tokens => ⟨fun isReply same abort on => ?_,
    fun isPending same => ?_, fun isRefuse lostPayload => ?_⟩⟩
  · intro deferred taken
    have classified : s.classifyAnswer l ex (stationAnswer ex kind seq attention token payload)
        = .answer (.defer token) attention := by
      have accepted : acceptable ex (stationAnswer ex kind seq attention token payload) = some (.defer token) := by
        rw [answer.1 poll]
        simp [answerToPoll, stationAnswer, stationFrame, isDefer, flag, isToken, low, high]
      unfold State.classifyAnswer
      rw [accepted]
      exact if_pos (State.tokenTest_iff.2 passes)
    have content : ∀ u : State, u.takeContent l ex.station ex (.defer token) attention
        = u.modStation l ex.station fun r => { r.seeAttention attention with seqBit := !r.seqBit } := fun u => by
      unfold State.takeContent
      rw [poll]
      rfl
    have delivers := ends.delivers receiving owner classified content
    refine ⟨fun noAbort noDeadline => ?_, fun status abort decided => ?_⟩
    · exact delivers.poll_goesOn ends.running exchange (by rw [poll]; decide) rfl
        (ite_undecided (e := deferred) noAbort noDeadline (some token) (.deferUnder token))
        fun y stands => stands.deferUnder line station receiving.station token
    · exact delivers.poll_retires owned active (by rw [poll]; decide) rfl
        (ite_retire (e := deferred) decided.2 (some token) (.deferUnder token)) decided.1
  · have accepted : acceptable ex (stationAnswer ex kind seq attention token payload) = some (.reply payload) := by
      rw [answer.2.1 collect]
      simp [answerToCollect, stationAnswer, stationFrame, isReply, same]
    have delivers := ends.delivers receiving owner
      (State.classifyAnswer_of_acceptable accepted fun t e => by cases e) (State.takeContent_collect collect _ _)
    have reply := State.takes_reply delivers ends.running active receiving.station exchange line station on noFence
    rw [if_pos collect] at reply
    exact reply
  · intro counted
    have accepted : acceptable ex (stationAnswer ex kind seq attention token payload) = some .pending := by
      rw [answer.2.1 collect]
      simp [answerToCollect, stationAnswer, stationFrame, isPending, same]
    have delivers := ends.delivers receiving owner
      (State.classifyAnswer_of_acceptable accepted fun t e => by cases e) (State.takeContent_collect collect _ _)
    refine ⟨fun noAbort noDeadline more => ?_, fun undecided limit => ?_, fun status abort decided => ?_⟩
    · exact delivers.collect_goesOn ends.running exchange line collect rfl
        ((ite_undecided (e := counted) noAbort noDeadline e.token _).trans (if_neg (Nat.ne_of_lt more)))
        fun y stands => stands.waitCollect line
    · obtain ⟨noAbort, noDeadline, on⟩ := undecided
      exact delivers.collect_retires owned active collect rfl
        ((ite_undecided (e := counted) noAbort noDeadline e.token _).trans (if_pos limit)) on
    · exact delivers.collect_retires owned active collect rfl (ite_retire (e := counted) decided.2 e.token _) decided.1
  · intro lost
    have accepted : acceptable ex (stationAnswer ex kind seq attention token payload)
        = some (.refuse .unknownToken) := by
      rw [answer.2.1 collect]
      simp [answerToCollect, stationAnswer, stationFrame, isRefuse, lostPayload, byteAt]
    have delivers := ends.delivers receiving owner
      (State.classifyAnswer_of_acceptable accepted fun t e => by cases e) (State.takeContent_collect collect _ _)
    refine ⟨fun undecided => ?_, fun status abort decided => ?_⟩
    · obtain ⟨noAbort, noDeadline, on⟩ := undecided
      exact delivers.collect_retires owned active collect rfl
        (ite_undecided (e := lost) noAbort noDeadline none _) on
    · exact delivers.collect_retires owned active collect rfl (ite_retire (e := lost) decided.2 none _) decided.1

end Sys2Proof.Machine

/-! The answers that the station's record takes for itself: STATUS, EVENT and NO_EVENT (R56, R62 to R64, R68 to R71). -/

namespace Sys2Proof.Machine

section
variable {s x : State} {l : Line} {ex : Exchange} {a : Station} {i : EntryIx} {ln : LineEngine}
  {r : StationRecord} {last : Byte} {kind token : Nat} {seq attention : Bool} {payload : List Byte}
  {answer : Answer}

/-- An exchange that no entry owns has ended: the line engine and the station's record are `ln` and `r`, and beside
the Indication Unit nothing else changed. -/
def State.StationTook (s t : State) (l : Line) (a : Station) (ln : LineEngine) (r : StationRecord) : Prop :=
  ((∀ c, c ≠ a → t.station l c = s.station l c) ∧ s.SameOtherLines t l ∧ t.line l = ln
    ∧ (∀ j, t.entry j = s.entry j) ∧ t.store = s.store ∧ t.retire.queue = s.retire.queue ∧ s.SameHost t
    ∧ s.SameAdmission t ∧ s.Begins t) ∧ t.station l a = r

theorem State.Stands.stationTook (h : s.Stands x l a ln r i (s.entry i)) (running : s.device.state = .running)
    (store : x.store = s.store) : s.StationTook x.wake l a ln r := by
  refine ⟨⟨fun c other => ?_, ⟨fun m other => ?_, fun m c other => ?_⟩, ?_, fun j => ?_, ?_, ?_, ?_, ?_, ?_⟩, ?_⟩
  · rw [State.wake_station, h.stations l c (Or.inr other)]
  · rw [State.wake_line, h.lines m other]
  · rw [State.wake_station, h.stations m c (Or.inl other)]
  · rw [State.wake_line, h.line]
  · rw [State.wake_entry]
    by_cases same : j = i
    · rw [same, h.entry]
    · exact h.entries j same
  · rw [State.wake_store, store]
  · rw [State.wake_queue, h.retire]
  · exact h.host.trans (State.wake_sameHost x)
  · exact (State.SameAdmission.of_eq h.admission).trans (State.wake_sameAdmission x)
  · exact State.begins_wake (by rw [h.admission]) (by rw [h.retire]) (by rw [h.host.device, running])
  · rw [State.wake_station, h.station]

/-- The station takes the answer, and the line settles. -/
theorem State.FrameEnds.station_takes
    (h : s.FrameEnds l last (addressOf ex.station) kind seq attention token payload) (receiving : s.Receiving l ex)
    (owner : ex.owner = .station)
    (accepted : acceptable ex (stationAnswer ex kind seq attention token payload) = some answer)
    (notDefer : ∀ t, answer ≠ .defer t) {did : State → Prop}
    (takes : ∀ u : State, s.Stands u l ex.station ((s.line l).received last)
        ((s.station l ex.station).answered ex.carried) 0 (s.entry 0) → u.store = s.store → u.ind = s.ind →
      ∃ r, s.Stands (u.takeContent l ex.station ex answer attention) l ex.station ((s.line l).received last) r 0
          (s.entry 0)
        ∧ (u.takeContent l ex.station ex answer attention).store = s.store
        ∧ ∀ t, s.StationTook t l ex.station ((s.line l).afterAnswer last) r →
          (t.ind = (u.takeContent l ex.station ex answer attention).beginIndication.ind) → did t) :
    s.Then (.validStationFrame l last) l did := by
  have base := ((State.Stands.refl s l ex.station 0).modLine fun ln => ln.received last).modStation
    fun r => r.answered ex.carried
  obtain ⟨r, stands, store, effect⟩ := takes _ base rfl rfl
  have run := h.exec_answer receiving (State.classifyAnswer_of_acceptable accepted notDefer)
  rw [State.deliver_of_station receiving.station (by rw [owner]; exact fun h => by cases h), State.stationEnding_answer,
    State.ownerTakes_station owner] at run
  have guarded := stands.modLine fun ln => ln.enterGuard (.answer answer attention)
  refine State.then_of_exec run ((congrArg (·.state) guarded.host.device).trans h.running) ?_
  refine effect _ (guarded.stationTook h.running store) ?_
  rw [State.wake_ind]
  exact State.beginIndication_congr rfl rfl rfl

theorem State.noIndication_of {t : State} (now : t.ind = x.beginIndication.ind) (ind : x.ind = s.ind)
    (host : s.SameHost x) : s.NoIndication t :=
  now.trans (State.beginIndication_congr ind host.device host.indRing)

theorem State.oneIndication_of {t : State} {body : IndicationBody} (now : t.ind = x.beginIndication.ind)
    (ind : x.ind = (s.indicate l body).ind) (host : s.SameHost x) : s.OneIndication t l body :=
  now.trans (State.beginIndication_congr ind (by simpa using host.device) (by simpa using host.indRing))

/-! ### A SYNC answered by STATUS (R68) -/

theorem StationRecord.synced_eq (r : StationRecord) (seq purge attention : Bool) (word : Half) :
    r.synced seq purge attention word =
      { r with
        seqBit := seq, statusWord := some word
        attention := if purge then attention else r.attention || attention
        release := if purge then [] else r.release
        linger := if purge then .stopped else r.linger
        flushDue := if purge then none else r.flushDue } := by
  cases purge <;> rfl

theorem State.Stands.takeSync_online (h : s.Stands x l a ln r i (s.entry i)) (online : r.state = .online)
    (attention : Bool) (word : Half) :
    x.takeSync l a ex attention word = x.modStation l a fun r => r.synced ex.seq ex.flag attention word := by
  unfold State.takeSync
  rw [h.station, online]
  exact if_neg (by decide)

theorem State.Stands.takeSync_other (h : s.Stands x l a ln r i (s.entry i)) (absent : r.state ≠ .absent)
    (online : r.state ≠ .online) (attention : Bool) (word : Half) :
    x.takeSync l a ex attention word = ((x.modStation l a fun r => r.synced ex.seq ex.flag attention word).modStation l a
      fun r => { r with state := .online }).indicate l (.stationState (addressOf a) r.state .online .sync word) := by
  unfold State.takeSync
  rw [h.station]
  exact if_pos (by cases state : r.state <;> simp_all)

/-! ### An EVENT (R70, R71) -/

theorem State.Stands.takeEvent_owed (h : s.Stands x l a ln r i (s.entry i)) {number : Nat}
    (owed : ({ kind := .event, token := number } : ReleaseItem) ∈ r.release) (payload : List Byte)
    (attention : Bool) :
    x.takeEvent l a number payload attention = x.modStation l a fun r => { r with attention := attention } := by
  unfold State.takeEvent
  rw [h.station]
  exact if_pos owed

theorem State.Stands.takeEvent_new (h : s.Stands x l a ln r i (s.entry i)) (real : a ≠ broadcastStation)
    (active : ln.state.isActive = true) (absent : r.state ≠ .absent) (offline : r.state ≠ .offline) {number : Nat}
    (new : ({ kind := .event, token := number } : ReleaseItem) ∉ r.release) (payload : List Byte) (attention : Bool) :
    s.Stands (x.takeEvent l a number payload attention) l a ln
        { r with
          attention := attention, release := r.release ++ [{ kind := .event, token := number }]
          linger := if r.release = [] then Timer.start (1000 * ln.params.releaseLinger) else r.linger } i (s.entry i)
      ∧ (x.takeEvent l a number payload attention).store = x.store
      ∧ (x.takeEvent l a number payload attention).ind
        = ((x.modStation l a fun r => { r with attention := attention }).indicate l
          (.event (addressOf a) number payload.length (payload.take 48))).ind := by
  let u := (x.modStation l a fun r => { r with attention := attention }).indicate l
    (.event (addressOf a) number payload.length (payload.take 48))
  have stands : s.Stands u l a ln { r with attention := attention } i (s.entry i) :=
    (h.modStation fun r => { r with attention := attention }).indicate _
  have taken : x.takeEvent l a number payload attention = u.modStation l a fun r =>
      r.appendRelease { kind := .event, token := number } ln.state.isActive ln.params.releaseLinger := by
    unfold State.takeEvent
    dsimp only
    rw [h.station, if_neg new, State.appendRelease, if_neg real]
    rw [show State.line ((x.modStation l a fun r => { r with attention := attention }).indicate l
      (.event (addressOf a) number payload.length (payload.take 48))) l = ln from stands.line]
  have appended : ({ r with attention := attention }.appendRelease { kind := .event, token := number }
        ln.state.isActive ln.params.releaseLinger) =
      { r with
        attention := attention, release := r.release ++ [{ kind := .event, token := number }]
        linger := if r.release = [] then Timer.start (1000 * ln.params.releaseLinger) else r.linger } := by
    unfold StationRecord.appendRelease
    rw [active]
    dsimp only
    rw [if_neg (by simp [absent, offline, new])]
    cases list : r.release <;> simp [ms]
  rw [taken]
  have done := stands.modStation fun r =>
    r.appendRelease { kind := .event, token := number } ln.state.isActive ln.params.releaseLinger
  rw [appended] at done
  exact ⟨done, (State.indicate_store _ _ _), rfl⟩

end

/-- Settles O46: what the record takes from each of the four answers. -/
theorem syncAndEventTaken : Obligations.SyncAndEventTaken := by
  intro s l ex last seq attention token payload kind ends receiving owner r frame takes
  have answer := acceptable_of_station (ex := ex) (stationAnswer ex kind seq attention token payload)
    (byteOf_addressOf_toNat _)
  have active : ((s.line l).received last).state.isActive = true := receiving.active.isActive
  refine ⟨fun sync isStatus two present => ?_, fun probe isStatus two => ?_,
    fun fetch isEvent low high present online => ?_, fun fetch noEvent => ?_⟩
  · have accepted : acceptable ex (stationAnswer ex kind seq attention token payload)
        = some (.status (byteAt payload 1 ++ byteAt payload 0)) := by
      rw [answer.2.2.1 (Or.inr sync)]
      simp [answerToProbe, stationAnswer, stationFrame, isStatus, two, halfAt]
    refine ends.station_takes receiving owner accepted (fun t e => by cases e) fun u stands store ind => ?_
    have content : u.takeContent l ex.station ex (.status (byteAt payload 1 ++ byteAt payload 0)) attention
        = u.takeSync l ex.station ex attention (byteAt payload 1 ++ byteAt payload 0) := by
      unfold State.takeContent
      rw [sync]
      rfl
    rw [content]
    have record := stands.modStation fun r =>
      r.synced ex.seq ex.flag attention (byteAt payload 1 ++ byteAt payload 0)
    by_cases online : r.state = .online
    · rw [stands.takeSync_online online]
      refine ⟨_, record, store, fun t took now => ⟨took.1, ?_, fun _ => State.noIndication_of now ind record.host,
        fun other => absurd online other⟩⟩
      rw [took.2, StationRecord.synced_eq, ← online]
    · rw [stands.takeSync_other present online]
      refine ⟨_, (record.modStation fun r => { r with state := .online }).indicate _,
        (State.indicate_store _ _ _).trans store, fun t took now => ⟨took.1, ?_, fun same => absurd same online,
          fun _ => State.oneIndication_of now ?_ ((record.modStation fun r => { r with state := .online }).indicate _).host⟩⟩
      · rw [took.2, StationRecord.synced_eq]
      · refine State.indicate_ind_congr (s := s) ?_ ?_ ?_ ?_ _ _
        · exact ind
        · exact record.host.time
        · exact record.host.device
        · exact record.host.indRing
  · have accepted : acceptable ex (stationAnswer ex kind seq attention token payload)
        = some (.status (byteAt payload 1 ++ byteAt payload 0)) := by
      rw [answer.2.2.1 (Or.inl probe)]
      simp [answerToProbe, stationAnswer, stationFrame, isStatus, two, halfAt]
    refine ends.station_takes receiving owner accepted (fun t e => by cases e) fun u stands store ind => ?_
    have content : u.takeContent l ex.station ex (.status (byteAt payload 1 ++ byteAt payload 0)) attention
        = u.modStation l ex.station fun r =>
          { r.seeAttention attention with statusWord := some (byteAt payload 1 ++ byteAt payload 0) } := by
      unfold State.takeContent
      rw [probe]
      rfl
    rw [content]
    have record := stands.modStation fun r =>
      { r.seeAttention attention with statusWord := some (byteAt payload 1 ++ byteAt payload 0) }
    exact ⟨_, record, store, fun t took now => ⟨took.1, State.noIndication_of now ind record.host, took.2⟩⟩
  · have accepted : acceptable ex (stationAnswer ex kind seq attention token payload) = some (.event token payload) := by
      rw [answer.2.2.2 fetch]
      simp [answerToFetch, stationAnswer, stationFrame, isEvent, isToken, low, high]
    refine ends.station_takes receiving owner accepted (fun t e => by cases e) fun u stands store ind => ?_
    have content : u.takeContent l ex.station ex (.event token payload) attention
        = u.takeEvent l ex.station token payload attention := by
      unfold State.takeContent
      rw [fetch]
      rfl
    rw [content]
    by_cases owed : ({ kind := .event, token := token } : ReleaseItem) ∈ r.release
    · rw [stands.takeEvent_owed owed]
      have record := stands.modStation fun r => { r with attention := attention }
      exact ⟨_, record, store, fun t took now => ⟨took.1,
        fun _ => ⟨took.2, State.noIndication_of now ind record.host⟩, fun new => absurd owed new⟩⟩
    · obtain ⟨record, store', given⟩ := stands.takeEvent_new receiving.station active present online owed payload
        attention
      refine ⟨_, record, store'.trans store, fun t took now => ⟨took.1, fun old => absurd old owed,
        fun _ => ⟨took.2, State.oneIndication_of now (given.trans ?_) record.host⟩⟩⟩
      refine State.indicate_ind_congr (s := s) ?_ ?_ ?_ ?_ _ _
      · exact ind
      · exact stands.host.time
      · exact stands.host.device
      · exact stands.host.indRing
  · have accepted : acceptable ex (stationAnswer ex kind seq attention token payload) = some .noEvent := by
      rw [answer.2.2.2 fetch]
      simp [answerToFetch, stationAnswer, stationFrame, noEvent]
    refine ends.station_takes receiving owner accepted (fun t e => by cases e) fun u stands store ind => ?_
    have content : u.takeContent l ex.station ex .noEvent attention
        = u.modStation l ex.station fun r => { r with attention := false } := by
      unfold State.takeContent
      rw [fetch]
      rfl
    rw [content]
    have record := stands.modStation fun r => { r with attention := false }
    exact ⟨_, record, store, fun t took now => ⟨took.1, State.noIndication_of now ind record.host, took.2⟩⟩

end Sys2Proof.Machine

/-! The failure of an attempt: the ways it comes about, as one equation (R14 to R19, R44 to R47, R50). -/

namespace Sys2Proof.Machine

/-- The endings that are failures of an attempt, with the detail each leaves (R64, R91). -/
def FailsWith (ending : Ending) (detail : Detail) : Prop :=
  (ending = .noAnswer ∧ detail = .noAnswer) ∨ (ending = .badFrame ∧ detail = .badFrame)
    ∨ (ending = .wrongAnswer ∧ detail = .wrongAnswer)

section
variable {ending : Ending} {detail : Detail}

theorem FailsWith.facts (h : FailsWith ending detail) :
    ending.isFailure = true ∧ ending.isAnswer = false ∧ ending.replyPayload = none
      ∧ ∀ full, ending ≠ .echoFault full := by
  rcases h with ⟨e, -⟩ | ⟨e, -⟩ | ⟨e, -⟩ <;> subst e <;> exact ⟨rfl, rfl, rfl, fun _ k => by cases k⟩

theorem FailsWith.afterPoll (h : FailsWith ending detail) (e : Entry) :
    e.afterPoll ending = { e with unansweredAttempt := true, lastEnding := detail } := by
  rcases h with ⟨k, d⟩ | ⟨k, d⟩ | ⟨k, d⟩ <;> subst k <;> subst d <;> rfl

theorem FailsWith.afterCollect (h : FailsWith ending detail) (e : Entry) :
    e.afterCollect ending = { e with lastEnding := detail } := by
  rcases h with ⟨k, d⟩ | ⟨k, d⟩ | ⟨k, d⟩ <;> subst k <;> subst d <;> rfl

theorem FailsWith.pollFate (h : FailsWith ending detail) (e : Entry) :
    e.pollFate ending = if e.abortPending = true then .retire .aborted none
      else if e.deadlinePassed = true then .retire .deadline none else e.failedAttempt .noResponse := by
  rcases h with ⟨k, -⟩ | ⟨k, -⟩ | ⟨k, -⟩ <;> subst k <;> rfl

theorem FailsWith.collectFate (h : FailsWith ending detail) (e : Entry) (limit : Nat) :
    e.collectFate limit ending = if e.abortPending = true then .retire .aborted e.token
      else if e.deadlinePassed = true then .retire .deadline e.token else e.failedCollect := by
  rcases h with ⟨k, -⟩ | ⟨k, -⟩ | ⟨k, -⟩ <;> subst k <;> rfl

end

section
variable {s v : State} {l : Line} {ex : Exchange} {addr kind token : Nat} {seq attention : Bool} {payload : List Byte}

/-! ### A frame that is no acceptable answer (R18, R19, R103) -/

theorem answerToPoll_of_wrong (notReply : ¬ (kind = 8 ∧ seq = ex.seq ∧ token = 0))
    (notDefer : ¬ (kind = 9 ∧ ex.flag = true ∧ 1 ≤ token ∧ token ≤ 15 ∧ s.TokenPasses l ex token))
    (notRefuse : ¬ (kind = 11 ∧ (payload = [1] ∨ payload = [2]))) :
    answerToPoll ex (stationFrame addr kind seq attention token payload) = none
      ∨ (answerToPoll ex (stationFrame addr kind seq attention token payload) = some (.defer token)
        ∧ s.tokenTest l ex token = false) := by
  unfold answerToPoll stationFrame
  dsimp only
  by_cases eight : kind = 8
  · rw [if_pos eight, if_neg fun k => notReply ⟨eight, k.1, k.2⟩]
    exact Or.inl rfl
  · rw [if_neg eight]
    by_cases nine : kind = 9
    · rw [if_pos nine]
      by_cases takes : ex.flag = true ∧ isToken token = true
      · rw [if_pos takes]
        refine Or.inr ⟨rfl, Bool.eq_false_iff.2 fun passes => notDefer ?_⟩
        obtain ⟨low, high⟩ := isToken_iff.1 takes.2
        exact ⟨nine, takes.1, low, high, State.tokenTest_iff.1 passes⟩
      · rw [if_neg takes]
        exact Or.inl rfl
    · rw [if_neg nine]
      by_cases refuse : kind = 11 ∧ payload.length = 1
      · rw [if_pos refuse]
        obtain ⟨b, hb⟩ := List.length_eq_one_iff.1 refuse.2
        subst hb
        have code : byteAt [b] 0 = b := rfl
        rw [code, if_neg fun k => notRefuse ⟨refuse.1, Or.inl (by rw [k])⟩,
          if_neg fun k => notRefuse ⟨refuse.1, Or.inr (by rw [k])⟩]
        exact Or.inl rfl
      · rw [if_neg refuse]
        exact Or.inl rfl

theorem answerToCollect_of_wrong (notReply : ¬ (kind = 8 ∧ token = ex.token))
    (notPending : ¬ (kind = 10 ∧ token = ex.token)) (notRefuse : ¬ (kind = 11 ∧ payload = [3])) :
    answerToCollect ex (stationFrame addr kind seq attention token payload) = none := by
  unfold answerToCollect stationFrame
  dsimp only
  by_cases eight : kind = 8
  · rw [if_pos eight, if_neg fun k => notReply ⟨eight, k⟩]
  · rw [if_neg eight]
    by_cases ten : kind = 10
    · rw [if_pos ten, if_neg fun k => notPending ⟨ten, k⟩]
    · rw [if_neg ten, if_neg]
      rintro ⟨eleven, one, code⟩
      obtain ⟨b, hb⟩ := List.length_eq_one_iff.1 one
      subst hb
      exact notRefuse ⟨eleven, by rw [show b = 3 from code]⟩

theorem answerToProbe_of_wrong (h : ¬ (kind = 12 ∧ payload.length = 2)) :
    answerToProbe (stationFrame addr kind seq attention token payload) = none := if_neg h

theorem answerToFetch_of_wrong (notEvent : ¬ (kind = 13 ∧ 1 ≤ token ∧ token ≤ 15)) (notNone : kind ≠ 14) :
    answerToFetch (stationFrame addr kind seq attention token payload) = none := by
  unfold answerToFetch stationFrame
  dsimp only
  by_cases event : kind = 13
  · rw [if_pos event, if_neg fun k => notEvent ⟨event, isToken_iff.1 k⟩]
  · rw [if_neg event, if_neg notNone]

theorem State.WrongFor.classify (h : s.WrongFor l ex addr kind seq token payload) (address : addr < 256) :
    s.classifyAnswer l ex (stationFrame addr kind seq attention token payload) = .wrongAnswer := by
  unfold State.classifyAnswer
  have number : (stationFrame addr kind seq attention token payload).addr.toNat = addr := by
    show (byteOf addr).toNat = addr
    rw [byteOf_toNat, Nat.mod_eq_of_lt address]
  by_cases from_ : addr = addressOf ex.station
  · obtain ⟨poll, collect, probe, fetch⟩ := acceptable_of_station (ex := ex)
      (stationFrame addr kind seq attention token payload) (number.trans from_)
    rcases h with other | ⟨k, notReply, notDefer, notRefuse⟩ | ⟨k, notReply, notPending, notRefuse⟩ | ⟨k, not⟩
      | ⟨k, notEvent, notNone⟩
    · exact absurd from_ other
    · rw [poll k]
      rcases answerToPoll_of_wrong (addr := addr) (attention := attention) notReply notDefer notRefuse with none
        | ⟨some, fails⟩
      · rw [none]
      · rw [some]
        exact if_neg (by rw [fails]; exact Bool.false_ne_true)
    · rw [collect k, answerToCollect_of_wrong notReply notPending notRefuse]
    · rw [probe k, answerToProbe_of_wrong not]
    · rw [fetch k, answerToFetch_of_wrong notEvent notNone]
  · have none : acceptable ex (stationFrame addr kind seq attention token payload) = none :=
      if_neg fun k => from_ (number.symm.trans k)
    rw [none]

/-! ### The ways an attempt fails -/

/-- A line in GUARD that settles is not evaluated again when its receiver enters HUNT (R51). -/
theorem State.wakeIdle_settleLine_guard (guard : (v.line l).phase = .guard) :
    (v.settleLine l).wakeIdle l = v.settleLine l := by
  have away : (v.line l).phase ≠ .idle := by rw [guard]; decide
  have stopped : ∀ u : State, u = v.stopLine l → u.wakeIdle l = u := fun u e => by
    have state : (u.line l).state = .stopped := by
      rw [e, State.stopLine, State.indicateLine, State.indicate_line, v.stop_rested l |>.line]
      rfl
    unfold State.wakeIdle
    rw [State.settleLine_rest (Or.inl state), ite_self]
  have same : v.wakeIdle l = v := if_neg away
  unfold State.settleLine
  cases state : (v.line l).state with
  | running =>
    dsimp only
    rw [State.evaluate_busy away, same]
  | draining =>
    dsimp only
    split
    · exact same
    · split
      · exact stopped _ rfl
      · rw [State.evaluate_busy away, same]
  | stopping =>
    dsimp only
    split
    · exact same
    · exact stopped _ rfl
  | stopped => exact same
  | faulted => exact same

/-- The command `c` ends the exchange of line `l` with `ending`, the line engine being `ln0` before GUARD begins. -/
def State.EndsWith (s : State) (c : Instr) (l : Line) (ex : Exchange) (ln0 : LineEngine) (ending : Ending) : Prop :=
  exec c s = .next ((((s.setLine l ln0).deliver l ex ending).modLine l fun ln => ln.enterGuard ending).settleLine
    l).wake

theorem State.endExchange_setLine {ln0 : LineEngine} {ending : Ending} (current : ln0.current = some ex)
    (noEcho : ∀ full, ending ≠ .echoFault full) :
    (s.setLine l ln0).endExchange l ending
      = (((s.setLine l ln0).deliver l ex ending).modLine l fun ln => ln.enterGuard ending).settleLine l :=
  State.endExchange_of_noEcho (by rw [State.line_setLine_self]; exact current) noEcho

theorem State.handBad_of_receive (h : (s.line l).phase = .receive) :
    s.handBad l = (s.countError l).endExchange l .badFrame := if_pos h

theorem State.setLine_modLine (s : State) (l : Line) (ln : LineEngine) (f : LineEngine → LineEngine) :
    (s.setLine l ln).modLine l f = s.setLine l (f ln) := by
  unfold State.modLine
  rw [State.line_setLine_self]
  exact congrArg (fun t => ({ s with lines := t } : State)) (Table.set_set _ _ _ _)

/-- A bad sequence in RECEIVE ends the exchange BAD_FRAME (R45, R50). -/
theorem State.handBad_setLine {ln : LineEngine} (phase : ln.phase = .receive) (current : ln.current = some ex) :
    (s.setLine l ln).handBad l
      = (((s.setLine l { ln with errors := saturate16 ln.errors }).deliver l ex .badFrame).modLine l
          fun ln => ln.enterGuard .badFrame).settleLine l := by
  rw [State.handBad_of_receive (by rw [State.line_setLine_self]; exact phase), State.countError, State.setLine_modLine,
    State.endExchange_setLine (ln0 := { ln with errors := saturate16 ln.errors }) current fun _ k => by cases k]

/-- No sync arrived within the response window (R44). -/
theorem State.endsWith_window (running : s.device.state = .running) (current : (s.line l).current = some ex)
    (listen : (s.line l).phase = .listen) (expired : (s.line l).windowTimer = .expired) :
    s.EndsWith (.responseWindowExpiry l) l ex { s.line l with windowTimer := .stopped } .noAnswer := by
  have run : exec (.responseWindowExpiry l) s
      = .next (s.onExpiry (s.line l).windowTimer (s.windowExpired l).wake) := rfl
  have same : s.windowExpired l
      = (s.setLine l { s.line l with windowTimer := .stopped }).endExchange l .noAnswer := if_pos listen
  unfold State.EndsWith
  rw [run, State.onExpiry_of_expired running expired, same, State.endExchange_setLine
    (ln0 := { s.line l with windowTimer := .stopped }) current fun _ k => by cases k]

/-- The sequence in RECEIVE broke (R17, R45). -/
theorem State.endsWith_break (running : s.device.state = .running) (current : (s.line l).current = some ex)
    (receive : (s.line l).phase = .receive) (assemble : (s.line l).receiver = .assemble) :
    s.EndsWith (.sequenceBreak l) l ex { s.line l with receiver := .discard, errors := saturate16 (s.line l).errors }
      .badFrame := by
  have left : (s.line l).leaveHunt .discard = { s.line l with receiver := .discard } := by
    rw [LineEngine.leaveHunt, assemble]
    rfl
  have fails : s.rxFail l = (s.setLine l { s.line l with receiver := .discard }).handBad l :=
    congrArg (fun x => (s.setLine l x).handBad l) left
  unfold State.EndsWith
  rw [exec_sequenceBreak running assemble, fails,
    State.handBad_setLine (ln := { s.line l with receiver := .discard }) receive current]

/-- A character in RECEIVE failed its check before the frame was complete (R15, R16, R45). -/
theorem State.endsWith_badDiscard {char : LineChar} (running : s.device.state = .running)
    (current : (s.line l).current = some ex) (receive : (s.line l).phase = .receive)
    (assemble : (s.line l).receiver = .assemble) (mark : (s.line l).atSpace = false)
    (classified : (s.line l).classify char = .badDiscard) :
    s.EndsWith (.badFrame l char) l ex
      { s.line l with
        receiver := .discard, atSpace := char.framingError, rxBuffer := (s.line l).rxBuffer ++ [char.data]
        errors := saturate16 (s.line l).errors } .badFrame := by
  have stored : (s.line l).store char = { s.line l with rxBuffer := (s.line l).rxBuffer ++ [char.data] } :=
    if_pos assemble
  have left : (((s.line l).store char).noteFraming char).leaveHunt .discard
      = { s.line l with
        receiver := .discard, atSpace := char.framingError, rxBuffer := (s.line l).rxBuffer ++ [char.data] } := by
    rw [stored, LineEngine.noteFraming, LineEngine.leaveHunt, mark, Bool.false_or, assemble]
    rfl
  have fails : s.badCharacter l char = (s.setLine l { s.line l with
      receiver := .discard, atSpace := char.framingError
      rxBuffer := (s.line l).rxBuffer ++ [char.data] }).handBad l := by
    rw [← left, State.badCharacter, State.rxFail, State.modLine_modLine]
    rfl
  unfold State.EndsWith
  rw [exec_badFrame_discard running classified, fails, State.handBad_setLine (ln := { s.line l with
      receiver := .discard, atSpace := char.framingError
      rxBuffer := (s.line l).rxBuffer ++ [char.data] }) receive current]

/-- The complete frame in RECEIVE failed a check (R16, R45). -/
theorem State.endsWith_badComplete {char : LineChar} (running : s.device.state = .running)
    (current : (s.line l).current = some ex) (receive : (s.line l).phase = .receive)
    (assemble : (s.line l).receiver = .assemble) (classified : (s.line l).classify char = .badComplete) :
    s.EndsWith (.badFrame l char) l ex
      { s.line l with
        receiver := .hunt, jabberTimer := .stopped, rxBuffer := (s.line l).rxBuffer ++ [char.data]
        errors := saturate16 (s.line l).errors } .badFrame := by
  have stored : (s.line l).store char = { s.line l with rxBuffer := (s.line l).rxBuffer ++ [char.data] } :=
    if_pos assemble
  have left : ((s.line l).store char).enterHunt
      = { s.line l with
        receiver := .hunt, jabberTimer := .stopped
        rxBuffer := (s.line l).rxBuffer ++ [char.data] } := by rw [stored]; rfl
  have fails : s.badLast l char = ((s.setLine l { s.line l with
      receiver := .hunt, jabberTimer := .stopped
      rxBuffer := (s.line l).rxBuffer ++ [char.data] }).handBad l).wakeIdle l := by
    rw [← left, State.badLast, State.rxBadComplete, State.modLine_modLine]
    rfl
  unfold State.EndsWith
  rw [exec_badFrame_complete running classified, fails, State.handBad_setLine (ln := { s.line l with
      receiver := .hunt, jabberTimer := .stopped
      rxBuffer := (s.line l).rxBuffer ++ [char.data] }) receive current,
    State.wakeIdle_settleLine_guard (by rw [State.line_modLine_self]; rfl)]

/-- A valid frame in RECEIVE was no acceptable answer (R18, R19, R45). -/
theorem State.FrameEnds.endsWith_wrong {last : Byte} {addr kind token : Nat} {seq attention : Bool} {payload : List Byte}
    (h : s.FrameEnds l last addr kind seq attention token payload) (current : (s.line l).current = some ex)
    (receive : (s.line l).phase = .receive) (wrong : s.WrongFor l ex addr kind seq token payload) :
    s.EndsWith (.validStationFrame l last) l ex
      { (s.line l).received last with errors := saturate16 (s.line l).errors } .wrongAnswer := by
  have engine : (s.setLine l ((s.line l).received last)).line l = (s.line l).received last :=
    State.line_setLine_self _ _ _
  have inReceive : ((s.setLine l ((s.line l).received last)).line l).phase = .receive := by
    rw [engine]
    exact receive
  have same : ((s.setLine l ((s.line l).received last)).line l).current = some ex := by rw [engine]; exact current
  have run := h.handed
  unfold State.handValid at run
  rw [inReceive, same] at run
  dsimp only at run
  rw [State.classifyAnswer_setLine, wrong.classify h.address, if_pos rfl, State.countError, State.setLine_modLine] at run
  exact run.trans (congrArg (fun u : State => Host.Outcome.next u.wake) (State.endExchange_setLine
    (ln0 := { (s.line l).received last with errors := saturate16 (s.line l).errors }) current fun _ k => by cases k))

/-- An attempt fails: the exchange ends with one of the three failures. -/
theorem State.AttemptFailsBy.run {c : Instr} {detail : Detail} {ln : LineEngine}
    (h : s.AttemptFailsBy l ex c detail ln) (running : s.device.state = .running)
    (current : (s.line l).current = some ex) (errors : (s.line l).errors ≤ 65535) :
    ∃ ending ln0, FailsWith ending detail ∧ ln0.enterGuard ending = ln ∧ ln0.state = (s.line l).state
      ∧ ln0.params = (s.line l).params ∧ s.EndsWith c l ex ln0 ending := by
  have count := saturate16_eq errors
  rcases h with ⟨command, det, listen, expired, after⟩ | ⟨det, receive, assemble, bad⟩
    | ⟨last, addr, kind, seq, attention, token, payload, ends, receive, wrong, command, det, after⟩
  · subst command
    exact ⟨.noAnswer, { s.line l with windowTimer := .stopped }, Or.inl ⟨rfl, det⟩, after.symm, rfl, rfl,
      State.endsWith_window running current listen expired⟩
  · rcases bad with ⟨command, after⟩ | ⟨char, command, mark, ⟨early, after⟩ | ⟨framing, len, size, invalid, after⟩⟩ <;>
      subst command
    · refine ⟨.badFrame, _, Or.inr (Or.inl ⟨rfl, det⟩), ?_, ?_, ?_,
        State.endsWith_break running current receive assemble⟩
      · rw [after, count]
        rfl
      · rfl
      · rfl
    · refine ⟨.badFrame, _, Or.inr (Or.inl ⟨rfl, det⟩), ?_, ?_, ?_,
        State.endsWith_badDiscard running current receive assemble mark ?_⟩
      · rw [after, count]
        rfl
      · rfl
      · rfl
      · cases framing : char.framingError with
        | true => exact classify_assemble_framing assemble mark framing
        | false =>
          obtain ⟨six, long⟩ := early.resolve_left (by rw [framing]; exact Bool.false_ne_true)
          rw [classify_assemble_good assemble mark framing]
          exact classifyAssemble_long six long
    · refine ⟨.badFrame, _, Or.inr (Or.inl ⟨rfl, det⟩), ?_, ?_, ?_,
        State.endsWith_badComplete running current receive assemble ?_⟩
      · rw [after, count]
        rfl
      · rfl
      · rfl
      · rw [classify_assemble_good assemble mark framing, classifyAssemble_complete len size, invalid]
        rfl
  · subst command
    refine ⟨.wrongAnswer, _, Or.inr (Or.inr ⟨rfl, det⟩), ?_, ?_, ?_, ends.endsWith_wrong current receive wrong⟩
    · rw [after, count]
      rfl
    · rfl
    · rfl

end

end Sys2Proof.Machine

/-! What a failed attempt does below the failure threshold, and what a REFUSE does (R64, R85 to R87, R110). -/

namespace Sys2Proof.Machine

section
variable {s : State} {l : Line} {ex : Exchange} {c : Instr} {i : EntryIx} {detail : Detail} {ln : LineEngine}

/-- A station below the failure threshold counts the failure, and stays as it is otherwise (R64). -/
def State.Counts (s : State) (l : Line) (ex : Exchange) : Prop :=
  (s.station l ex.station).state ≠ .absent ∧ (s.station l ex.station).state ≠ .offline
    ∧ (s.station l ex.station).failures + 1 < (s.line l).params.failureThreshold

/-- The record of a station that has counted one failure more. -/
def StationRecord.failed (r : StationRecord) : StationRecord := { r with failures := r.failures + 1 }

theorem State.stationEnding_below {x : State} {ending : Ending} (fails : FailsWith ending detail)
    (params : (x.line l).params = (s.line l).params) (record : x.station l ex.station = s.station l ex.station)
    (counts : s.Counts l ex) :
    x.stationEnding l ex ending = (x.modStation l ex.station StationRecord.failed).ownerTakes ex ending := by
  obtain ⟨failure, notAnswer, -, -⟩ := fails.facts
  obtain ⟨absent, offline, below⟩ := counts
  have taken := StationRecord.takeFailures_below (threshold := (x.line l).params.failureThreshold) failure absent offline
    (by rw [params]; exact below)
  have counted : (x.modStation l ex.station fun r => r.takeFailures (x.line l).params.failureThreshold ending)
      = x.modStation l ex.station StationRecord.failed := by
    unfold State.modStation
    rw [record]
    exact congrArg (x.setStation l ex.station) taken
  rw [State.stationEnding_other notAnswer, counted]
  refine if_neg fun offlineNow => offline ?_
  rw [State.station_modStation, if_pos ⟨rfl, rfl⟩, record] at offlineNow
  exact offlineNow.1

/-- An attempt that fails below the threshold, of an exchange that an entry owns. -/
theorem State.AttemptFailsBy.delivers (h : s.AttemptFailsBy l ex c detail ln) (running : s.device.state = .running)
    (current : (s.line l).current = some ex) (errors : (s.line l).errors ≤ 65535)
    (real : ex.station ≠ broadcastStation) (owner : ex.owner = .entry i) (counts : s.Counts l ex) :
    ∃ ending ln0, FailsWith ending detail ∧ ln0.enterGuard ending = ln ∧ ln0.state = (s.line l).state
      ∧ ln0.params = (s.line l).params ∧ s.Delivers c l ex i ln0 (s.station l ex.station).failed ending := by
  obtain ⟨ending, ln0, fails, after, state, params, run⟩ := h.run running current errors
  refine ⟨ending, ln0, fails, after, state, params, _,
    ((State.Stands.refl s l ex.station i).modLine fun _ => ln0).modStation StationRecord.failed, rfl, rfl, run.trans ?_⟩
  have line : (s.setLine l ln0).line l = ln0 := State.line_setLine_self _ _ _
  rw [State.deliver_of_station real (by rw [owner]; exact fun k => by cases k),
    State.stationEnding_below (s := s) (x := s.setLine l ln0) fails (by rw [line]; exact params) rfl counts, State.ownerTakes_entry owner]
  rfl

/-- An attempt of the station's own that fails below the threshold. -/
theorem State.AttemptFailsBy.station_fails (h : s.AttemptFailsBy l ex c detail ln)
    (running : s.device.state = .running) (current : (s.line l).current = some ex)
    (errors : (s.line l).errors ≤ 65535) (real : ex.station ≠ broadcastStation) (owner : ex.owner = .station)
    (counts : s.Counts l ex) :
    s.Then c l fun t => s.StationTook t l ex.station ln (s.station l ex.station).failed ∧ s.NoIndication t := by
  obtain ⟨ending, ln0, fails, after, state, params, run⟩ := h.run running current errors
  have line : (s.setLine l ln0).line l = ln0 := State.line_setLine_self _ _ _
  have stands := (((State.Stands.refl s l ex.station 0).modLine fun _ => ln0).modStation
    StationRecord.failed).modLine fun ln => ln.enterGuard ending
  rw [after] at stands
  unfold State.EndsWith at run
  rw [State.deliver_of_station real (by rw [owner]; exact fun k => by cases k),
    State.stationEnding_below (s := s) (x := s.setLine l ln0) fails (by rw [line]; exact params) rfl counts, State.ownerTakes_station owner] at run
  exact State.then_of_exec run running ⟨stands.stationTook running rfl, State.noIndication_wake rfl stands.host⟩

/-- What the host, the rest and the line's stations keep when one station has taken an ending. -/
theorem State.StationTook.sameRest {t : State} {a : Station} {r : StationRecord} (h : s.StationTook t l a ln r)
    (silent : s.NoIndication t) : s.SameRest t := by
  obtain ⟨⟨-, -, -, -, store, queue, host, admission, begins⟩, -⟩ := h
  exact ⟨host, admission, queue, store, silent, begins⟩

/-- The holdoff's factor by the attempts used: 1, 2, 4, then 8 (R87, R110). -/
def holdoffFactor : Nat → Nat
  | 1 => 1
  | 2 => 2
  | 3 => 4
  | _ => 8

theorem holdoffLength_eq (base : Nat) {attempts : Nat} (h : 1 ≤ attempts) :
    holdoffLength base attempts = base * holdoffFactor attempts := by
  unfold holdoffLength
  obtain rfl | rfl | rfl | more : attempts = 1 ∨ attempts = 2 ∨ attempts = 3 ∨ 4 ≤ attempts := by omega
  · rfl
  · rfl
  · rfl
  · obtain ⟨k, rfl⟩ : ∃ k, attempts = k + 4 := ⟨attempts - 4, by omega⟩
    rw [Nat.min_eq_right (by omega)]
    rfl

/-! ### A failed attempt of the entry that owns the exchange (R87, R110) -/

theorem Entry.failedAttempt_again {e : Entry} (status : Status) (h : e.attemptsUsed < e.attemptLimit) :
    e.failedAttempt status = .retryWait e.attemptsUsed := if_pos h

theorem Entry.failedAttempt_last {e : Entry} (status : Status) (h : e.attemptLimit ≤ e.attemptsUsed) :
    e.failedAttempt status = .retire status none := if_neg (Nat.not_lt.2 h)

theorem Entry.failedCollect_again {e : Entry} (h : e.collectAttemptsUsed < e.attemptLimit) :
    e.failedCollect = .retryWait e.collectAttemptsUsed := if_pos h

theorem Entry.failedCollect_last {e : Entry} (h : e.attemptLimit ≤ e.collectAttemptsUsed) :
    e.failedCollect = .retire .noResponse e.token := if_neg (Nat.not_lt.2 h)

/-- The holdoff of an entry that waits after `attempts` attempts, at a line of the same parameters. -/
theorem holdoff_eq {ln0 : LineEngine} (params : ln0.params = (s.line l).params) {attempts : Nat} (h : 1 ≤ attempts) :
    Timer.start (holdoffLength ln0.params.retryHoldoffBase attempts)
      = Timer.start ((s.line l).params.retryHoldoffBase * holdoffFactor attempts) := by
  rw [params, holdoffLength_eq _ h]

/-! ### A POLL's REFUSE (R18, R86, R87) -/

/-- A REFUSE of code 1 or 2 ends a POLL as that answer, and the station is heard. -/
theorem State.FrameEnds.refused {last : Byte} {seq attention : Bool} {token : Nat} {code : Byte} {refusal : RefuseCode}
    (ends : s.FrameEnds l last (addressOf ex.station) 11 seq attention token [code]) (receiving : s.Receiving l ex)
    (poll : ex.kind = .poll) (owner : ex.owner = .entry i)
    (which : (code = 1 ∧ refusal = .busy) ∨ (code = 2 ∧ refusal = .reject)) :
    s.Delivers (.validStationFrame l last) l ex i ((s.line l).received last)
      (((s.station l ex.station).answered ex.carried).heard attention) (.answer (.refuse refusal) attention) := by
  have accepted : acceptable ex (stationAnswer ex 11 seq attention token [code]) = some (.refuse refusal) := by
    rw [(acceptable_of_station _ (byteOf_addressOf_toNat _)).1 poll]
    rcases which with ⟨rfl, rfl⟩ | ⟨rfl, rfl⟩ <;> rfl
  refine ends.delivers receiving owner
    (State.classifyAnswer_of_acceptable accepted fun t e => by cases e) (f := fun r => r.heard attention) fun u => ?_
  unfold State.takeContent
  rw [poll]
  rfl

/-! ### What becomes of the owner of a failed attempt -/

/-- A POLL's attempt that fails: the entry waits for the holdoff, or retires with `status` once no attempt is left,
unless a flag decides (R87, R94, R96). -/
theorem State.Delivers.poll_fails {tried : Entry} {status : Status} (h : s.Delivers c l ex i ln r ending)
    (owned : s.Owned l ex i) (active : ln.state.isActive = true) (params : ln.params = (s.line l).params)
    (poll : ex.kind = .poll) (noReply : ending.replyPayload = none)
    (tried_eq : (s.entry i).afterPoll ending = tried)
    (fate : tried.pollFate ending = if tried.abortPending = true then .retire .aborted none
      else if tried.deadlinePassed = true then .retire .deadline none else tried.failedAttempt status)
    (used : 1 ≤ tried.attemptsUsed) :
    (tried.abortPending = false → tried.deadlinePassed = false → tried.attemptsUsed < tried.attemptLimit →
      s.Then c l fun t => s.GoesOn t l ex.station (ln.enterGuard ending) r i
        { tried with
          state := .retryWait
          phaseTimer := Timer.start
            ((s.line l).params.retryHoldoffBase * holdoffFactor tried.attemptsUsed) })
    ∧ (tried.abortPending = false → tried.deadlinePassed = false → s.AbortOn i none →
        tried.attemptLimit ≤ tried.attemptsUsed →
      s.Then c l fun t => s.RetiresAfter t l ex.station (ln.enterGuard ending) r i tried status none none
        ∧ t.store = s.store)
    ∧ ∀ decided abort, tried.DecidedBy decided → s.AbortOn i abort →
      s.Then c l fun t => s.RetiresAfter t l ex.station (ln.enterGuard ending) r i tried decided none abort
        ∧ t.store = s.store := by
  have notCollect : ex.kind ≠ .collect := by rw [poll]; decide
  subst tried_eq
  refine ⟨fun noAbort noDeadline more => ?_, fun noAbort noDeadline on limit => ?_, fun decided abort by_ on => ?_⟩
  · refine h.poll_goesOn owned.running owned.exchange notCollect noReply
      (fate.trans ((ite_undecided noAbort noDeadline none _).trans (Entry.failedAttempt_again _ more)))
      fun y stands => ?_
    rw [← holdoff_eq params used]
    exact stands.retryWait (((s.entry i).afterPoll_frame ending).2.1.trans owned.line) _
  · exact h.poll_retires owned active notCollect noReply
      (fate.trans ((ite_undecided noAbort noDeadline none _).trans (Entry.failedAttempt_last _ limit))) on
  · exact h.poll_retires owned active notCollect noReply (fate.trans (ite_retire by_ none _)) on

/-- A COLLECT's attempt that fails, in the same way; the token is released (R110). -/
theorem State.Delivers.collect_fails {tried : Entry} (h : s.Delivers c l ex i ln r ending)
    (owned : s.Owned l ex i) (active : ln.state.isActive = true) (params : ln.params = (s.line l).params)
    (collect : ex.kind = .collect) (noReply : ending.replyPayload = none)
    (tried_eq : (s.entry i).afterCollect ending = tried)
    (fate : tried.collectFate ln.params.collectLimit ending
      = if tried.abortPending = true then .retire .aborted tried.token
        else if tried.deadlinePassed = true then .retire .deadline tried.token else tried.failedCollect)
    (used : 1 ≤ tried.collectAttemptsUsed) :
    (tried.abortPending = false → tried.deadlinePassed = false → tried.collectAttemptsUsed < tried.attemptLimit →
      s.Then c l fun t => s.GoesOn t l ex.station (ln.enterGuard ending) r i
        { tried with
          state := .retryWait
          phaseTimer := Timer.start
            ((s.line l).params.retryHoldoffBase * holdoffFactor tried.collectAttemptsUsed) })
    ∧ (tried.abortPending = false → tried.deadlinePassed = false → s.AbortOn i none →
        tried.attemptLimit ≤ tried.collectAttemptsUsed →
      s.Then c l fun t =>
        s.RetiresAfter t l ex.station (ln.enterGuard ending) r i tried .noResponse tried.token none
          ∧ t.store = s.store)
    ∧ ∀ decided abort, tried.DecidedBy decided → s.AbortOn i abort →
      s.Then c l fun t =>
        s.RetiresAfter t l ex.station (ln.enterGuard ending) r i tried decided tried.token abort
          ∧ t.store = s.store := by
  subst tried_eq
  refine ⟨fun noAbort noDeadline more => ?_, fun noAbort noDeadline on limit => ?_, fun decided abort by_ on => ?_⟩
  · refine h.collect_goesOn owned.running owned.exchange owned.line collect noReply
      (fate.trans ((ite_undecided noAbort noDeadline _ _).trans (Entry.failedCollect_again more)))
      fun y stands => ?_
    rw [← holdoff_eq params used]
    exact stands.retryWait (((s.entry i).afterCollect_frame ending).2.1.trans owned.line) _
  · exact h.collect_retires owned active collect noReply
      (fate.trans ((ite_undecided noAbort noDeadline _ _).trans (Entry.failedCollect_last limit))) on
  · exact h.collect_retires owned active collect noReply (fate.trans (ite_retire by_ _ _)) on

end

/-- Settles O47: an attempt that fails below the threshold, and a REFUSE, by the fate of the owner. -/
theorem attemptFails : Obligations.AttemptFails := by
  intro s l ex running active current real ln counts failed
  refine ⟨fun c detail ln' fails errors below owner => ?_, fun i owner exchange line station noFence => ?_⟩
  · refine (fails.station_fails running current errors real owner below).mono fun t ⟨took, silent⟩ => ?_
    obtain ⟨⟨others, lines, engine, entries, -⟩, record⟩ := id took
    exact ⟨engine, record, others, entries, lines, took.sameRest silent⟩
  intro e factor holdoff goesOn retires
  have owned : s.Owned l ex i := ⟨running, exchange, line, station, real, noFence⟩
  have factor_eq : holdoffFactor = factor := funext fun n => by
    rcases n with _ | _ | _ | _ | n <;> rfl
  refine ⟨fun c detail ln' fails errors below => ?_, fun last seq attention token code ends receive poll used => ?_⟩
  · obtain ⟨ending, ln0, with_, after, state, params, delivers⟩ :=
      fails.delivers running current errors real owner below
    obtain ⟨-, -, noReply, -⟩ := with_.facts
    have active0 : ln0.state.isActive = true := by rw [state]; exact active.isActive
    subst after
    refine ⟨fun poll used => ?_, fun collect token used => ?_⟩
    · obtain ⟨again, spent, decided⟩ :=
        delivers.poll_fails owned active0 params poll noReply (with_.afterPoll e) (with_.pollFate _) used
      rw [factor_eq] at again
      exact ⟨again, fun ⟨noAbort, noDeadline, on⟩ limit => spent noAbort noDeadline on limit,
        fun status abort by_ => decided status abort by_.2 by_.1⟩
    · obtain ⟨again, spent, decided⟩ := delivers.collect_fails owned active0 params collect noReply
        (with_.afterCollect e) (with_.collectFate _ _) used
      rw [factor_eq] at again
      exact ⟨again, fun ⟨noAbort, noDeadline, on⟩ limit => spent noAbort noDeadline on limit,
        fun status abort by_ => decided status abort by_.2 by_.1⟩
  · intro c r heard
    have receiving : s.Receiving l ex := ⟨active, receive, current, real⟩
    have active0 : (ln.received last).state.isActive = true := active.isActive
    refine ⟨fun busy => ?_, fun reject => ?_⟩
    · obtain ⟨again, spent, decided⟩ := (ends.refused receiving poll owner (.inl ⟨busy, rfl⟩)).poll_fails
        (tried := { e with lastEnding := .busy }) (status := .stationBusy) owned active0 rfl poll rfl rfl rfl used
      rw [factor_eq] at again
      exact ⟨again, fun ⟨noAbort, noDeadline, on⟩ limit => spent noAbort noDeadline on limit,
        fun status abort by_ => decided status abort by_.2 by_.1⟩
    · have delivers := ends.refused receiving poll owner (.inr ⟨reject, rfl⟩)
      intro tried
      have notCollect : ex.kind ≠ .collect := by rw [poll]; decide
      refine ⟨fun ⟨noAbort, noDeadline, on⟩ => ?_, fun status abort by_ => ?_⟩
      · exact delivers.poll_retires owned active0 notCollect rfl
          (ite_undecided (e := tried) noAbort noDeadline none _) on
      · exact delivers.poll_retires owned active0 notCollect rfl (ite_retire (e := tried) by_.2 none _) by_.1

end Sys2Proof.Machine

/-! A failed attempt at the failure counts: the last attempt, the station's own exchange, and the OFFLINE cascade of
every owner (R64, R66, R67, R87, R101). -/

namespace Sys2Proof.Machine

section
variable {s v x : State} {l : Line} {a : Station} {ex : Exchange} {c : Instr} {i j : EntryIx} {detail : Detail}
  {ending : Ending} {ln : LineEngine} {r : StationRecord} {owner : List (EntryIx × Entry × Status)}
  {done : List EntryIx} {items : List QueuedItem} {places : Table (Option Immediate) 8}
  {abort : Option (PlaceIx × Immediate)} {status : Status}

/-! ### The OFFLINE cascade (R66, R101) -/

/-- The entries of a station's lists but for those of `gone`. -/
def StationRecord.without (r : StationRecord) (gone : List EntryIx) : StationRecord :=
  { r with
    fifo := r.fifo.filter fun k => decide (k ∉ gone)
    deferred := r.deferred.filter fun k => decide (k ∉ gone) }

theorem StationRecord.without_nil (r : StationRecord) : r.without [] = r := by
  unfold StationRecord.without
  rw [List.filter_eq_self.2 fun _ _ => by simp, List.filter_eq_self.2 fun _ _ => by simp]

theorem StationRecord.without_append (r : StationRecord) (gone : List EntryIx) (k : EntryIx) :
    { r.without gone with
      fifo := (r.without gone).fifo.filter (· != k), deferred := (r.without gone).deferred.filter (· != k) }
      = r.without (gone ++ [k]) := by
  have both : ∀ xs : List EntryIx, (xs.filter fun i => decide (i ∉ gone)).filter (· != k)
      = xs.filter fun i => decide (i ∉ gone ++ [k]) := fun xs => by
    rw [List.filter_filter]
    refine List.filter_congr fun i _ => ?_
    by_cases same : i = k <;> simp [same]
  unfold StationRecord.without
  rw [both, both]

/-- Of the cascade of station `a` the entries of `owner` and then those of `done` have retired. -/
structure State.Downs (s v : State) (l : Line) (a : Station) (ln : LineEngine) (r : StationRecord)
    (owner : List (EntryIx × Entry × Status)) (done : List EntryIx) (items : List QueuedItem)
    (places : Table (Option Immediate) 8) : Prop where
  line : v.line l = ln
  lines : ∀ m, m ≠ l → v.line m = s.line m
  station : v.station l a = r.without (owner.map Prod.fst ++ done)
  stations : ∀ m c, m ≠ l ∨ c ≠ a → v.station m c = s.station m c
  owned : ∀ x ∈ owner, v.entry x.1 = x.2.1.retired x.2.2
  retired : ∀ j ∈ done, v.entry j = (s.entry j).retired .stationOffline
  entries : ∀ j, j ∉ owner.map Prod.fst ++ done → v.entry j = s.entry j
  host : s.SameHost v
  unit : ∀ q, v.ringUnit q = s.ringUnit q
  credit : v.admission.credit = s.admission.credit
  counter : v.admission.counter = s.admission.counter
  asked : v.admission.asked = s.admission.asked
  stage : v.admission.stage = s.admission.stage
  posting : v.retire.posting = s.retire.posting
  places : v.admission.places = places
  queue : v.retire.queue = s.retire.queue ++ (items ++ done.map fun j => { item := .entry j, stamp := s.time.now })
  store : v.store = s.store
  ind : v.ind = s.ind

/-- What the cascade takes for granted of an entry it retires behind the owner. -/
structure State.Bound (s : State) (l : Line) (a : Station) (j : EntryIx) : Prop where
  line : (s.entry j).line = l
  station : (s.entry j).station = some a
  noFence : s.NoFenceOn j
  noAbort : s.NoAbortOn j
  waiting : (s.entry j).state = .queued ∨ (s.entry j).state = .retryWait ∨ (s.entry j).state = .deferred

theorem StationRecord.afterRetire_of_offline (offline : r.state = .offline) (i : EntryIx) (release : Option Nat)
    (linger : Nat) :
    r.afterRetire i release true linger
      = { r with fifo := r.fifo.filter (· != i), deferred := r.deferred.filter (· != i) } := by
  cases release with
  | none => rfl
  | some t => exact if_pos (Or.inr (Or.inl offline))

/-- One more entry of the cascade retires. -/
theorem State.Downs.retireEntry (h : s.Downs v l a ln r owner done items places) (active : ln.state.isActive = true)
    (real : a ≠ broadcastStation) (offline : r.state = .offline)
    (places_on : ∀ p c, places.get p = some c → c.target ≠ some j)
    (bound : s.Bound l a j) (fresh : j ∉ owner.map Prod.fst ++ done) :
    s.Downs (v.retireEntry j .stationOffline none) l a ln r owner (done ++ [j]) items places := by
  have entry := h.entries j fresh
  have states : (s.entry j).state ≠ .free ∧ (s.entry j).state ≠ .retiring ∧ (s.entry j).state ≠ .fenceWait := by
    rcases bound.waiting with e | e | e <;> rw [e] <;> exact ⟨by decide, by decide, by decide⟩
  obtain ⟨free, retiring, waits⟩ := states
  rw [← entry] at free retiring waits
  have noFence : v.NoFenceOn j := fun k wait member => by
    by_cases gone : k ∈ owner.map Prod.fst ++ done
    · rcases List.mem_append.1 gone with own | old
      · obtain ⟨x, mem, rfl⟩ := List.mem_map.1 own
        rw [h.owned x mem] at wait
        cases wait
      · rw [h.retired k old] at wait
        cases wait
    · rw [h.entries k gone] at wait member
      exact bound.noFence k wait member
  have noAbort : v.NoAbortOn j := fun p c at_ => places_on p c (by rw [← h.places]; exact at_)
  have step := (State.Stands.refl v l a j).retired (by rw [h.line]; exact active) rfl real
    (by rw [entry]; exact bound.line) (by rw [entry]; exact bound.station) free retiring noFence waits
    (abort := none) noAbort .stationOffline none
  generalize v.retireEntry j .stationOffline none = w at *
  have down : (v.station l a).state = .offline := by rw [h.station]; exact offline
  obtain ⟨record, ind⟩ := step.certain (Or.inr (by rw [down]; decide))
  rw [StationRecord.afterRetire_of_offline down, h.station, StationRecord.without_append, List.append_assoc] at record
  refine ⟨step.line.trans h.line, fun m other => (step.lines m other).trans (h.lines m other), record,
    fun m c other => (step.stations m c other).trans (h.stations m c other), fun x mem => ?_, fun k mem => ?_,
    fun k out => ?_, h.host.trans step.host, fun q => (step.unit q).trans (h.unit q), step.credit.trans h.credit,
    step.counter.trans h.counter, step.asked.trans h.asked, step.stage.trans h.stage, step.posting.trans h.posting,
    step.places.trans h.places, ?_, step.store.trans h.store, ind.trans h.ind⟩
  · have other : x.1 ≠ j := fun same => fresh (List.mem_append_left _ (same ▸ List.mem_map_of_mem mem))
    exact (step.entries _ other).trans (h.owned x mem)
  · rcases List.mem_append.1 mem with old | new
    · have other : k ≠ j := fun same => fresh (List.mem_append_right _ (same ▸ old))
      exact (step.entries _ other).trans (h.retired k old)
    · rw [List.mem_singleton.1 new, step.entry, entry]
  · rw [← List.append_assoc, List.mem_append, not_or, List.mem_singleton] at out
    exact (step.entries k out.2).trans (h.entries k out.1)
  · have item : v.itemsOf j none = [{ item := .entry j, stamp := s.time.now }] := by
      rw [← h.host.time]
      rfl
    rw [step.queue, h.queue, item, List.map_append, List.append_assoc, List.append_assoc]
    rfl

/-- The entries behind the owner retire, in their order. -/
theorem State.Downs.retireAll (h : s.Downs v l a ln r owner done items places) (active : ln.state.isActive = true)
    (real : a ≠ broadcastStation) (offline : r.state = .offline) (rest : List EntryIx)
    (places_on : ∀ j ∈ rest, ∀ p c, places.get p = some c → c.target ≠ some j)
    (bound : ∀ j ∈ rest, s.Bound l a j) (once : (owner.map Prod.fst ++ done ++ rest).Nodup) :
    s.Downs (v.retireAll .stationOffline false rest) l a ln r owner (done ++ rest) items places := by
  induction rest generalizing v done with
  | nil => rwa [List.append_nil]
  | cons j rest ih =>
    have fresh : j ∉ owner.map Prod.fst ++ done := fun old =>
      (List.nodup_append.1 once).2.2 j old j List.mem_cons_self rfl
    have step := h.retireEntry active real offline (places_on j List.mem_cons_self) (bound j List.mem_cons_self) fresh
    have later := ih step (fun k mem => places_on k (List.mem_cons_of_mem _ mem))
      (fun k mem => bound k (List.mem_cons_of_mem _ mem)) (by simpa using once)
    rw [List.append_assoc] at later
    exact later

/-- A station of which every listed entry has retired, cleared as OFFLINE leaves it (R66). -/
def StationRecord.downed (r : StationRecord) (threshold : Nat) : StationRecord :=
  { r with
    state := .offline, failures := threshold, fifo := [], deferred := [], release := []
    linger := .stopped, flushDue := none, attention := false }

/-- The record of a station that the failure count has made OFFLINE, before its cascade. -/
def StationRecord.atThreshold (r : StationRecord) (threshold : Nat) : StationRecord :=
  { r with failures := threshold, state := .offline }

theorem StationRecord.cleared_eq {threshold : Nat} {gone : List EntryIx}
    (all : ∀ k, k ∈ r.fifo ++ r.deferred → k ∈ gone) :
    { ((r.atThreshold threshold).without gone).clearRelease with attention := false } = r.downed threshold := by
  have none : ∀ xs : List EntryIx, (∀ k ∈ xs, k ∈ gone) → (xs.filter fun k => decide (k ∉ gone)) = [] :=
    fun xs inside => List.filter_eq_nil_iff.2 fun k mem => by simp [inside k mem]
  have fifo : ((r.atThreshold threshold).without gone).fifo = [] := none _ fun k mem => all k (List.mem_append_left _ mem)
  have deferred : ((r.atThreshold threshold).without gone).deferred = [] :=
    none _ fun k mem => all k (List.mem_append_right _ mem)
  unfold StationRecord.clearRelease StationRecord.withRelease
  simp only [List.isEmpty_nil, if_true, fifo, deferred]
  rfl

/-- The OFFLINE cascade of station `a` is over: its owner and the entries of `rest` have retired, the record is
cleared, and the change is indicated (R66). -/
structure State.Downed (s t : State) (l : Line) (a : Station) (ln : LineEngine) (r : StationRecord)
    (owner : List (EntryIx × Entry × Status)) (rest : List EntryIx) (items : List QueuedItem)
    (places : Table (Option Immediate) 8) (body : IndicationBody) : Prop where
  owned : ∀ x ∈ owner, t.entry x.1 = x.2.1.retired x.2.2
  retired : ∀ j ∈ rest, t.entry j = (s.entry j).retired .stationOffline
  entries : ∀ j, j ∉ owner.map Prod.fst ++ rest → t.entry j = s.entry j
  queue : t.retire.queue = s.retire.queue ++ (items ++ rest.map fun j => { item := .entry j, stamp := s.time.now })
  places : t.admission.places = places
  station : t.station l a = r
  indication : s.OneIndication t l body
  stations : ∀ c, c ≠ a → t.station l c = s.station l c
  line : t.line l = ln
  otherLines : s.SameOtherLines t l
  store : t.store = s.store
  host : s.SameHost t
  unit : ∀ q, t.ringUnit q = s.ringUnit q
  credit : t.admission.credit = s.admission.credit
  counter : t.admission.counter = s.admission.counter
  asked : t.admission.asked = s.admission.asked
  begins : s.Begins t

/-- The cascade's record, its indication and the line's phase follow the retirements; then the part wakes. -/
theorem State.Downs.finish {w : State} {ln0 : LineEngine} {r0 : StationRecord} {k : EntryIx} {body : IndicationBody}
    (h : s.Downs v l a ln0 r0 owner done items places) (stands : v.Stands w l a ln r k (v.entry k))
    (store : w.store = v.store) (ind : w.ind = (s.indicate l body).ind) (running : s.device.state = .running) :
    s.Downed w.wake l a ln r owner done items places body := by
  have host := h.host.trans stands.host
  have entry : ∀ j, w.wake.entry j = v.entry j := fun j => by
    rw [State.wake_entry]
    by_cases same : j = k
    · rw [same, stands.entry]
    · exact stands.entries j same
  refine ⟨fun x mem => (entry _).trans (h.owned x mem), fun j mem => (entry j).trans (h.retired j mem),
    fun j out => (entry j).trans (h.entries j out), by rw [State.wake_queue, stands.retire, h.queue],
    by rw [State.wake_places, stands.admission, h.places], by rw [State.wake_station, stands.station],
    State.oneIndication_wake ind host, fun c other => ?_, by rw [State.wake_line, stands.line],
    ⟨fun m other => ?_, fun m c other => ?_⟩, by rw [State.wake_store, store, h.store],
    host.trans (State.wake_sameHost w), fun q => ?_, by rw [State.wake_credit, stands.admission, h.credit],
    by rw [State.wake_counter, stands.admission, h.counter], by rw [State.wake_asked, stands.admission, h.asked],
    State.begins_wake (by rw [stands.admission, h.stage]) (by rw [stands.retire, h.posting])
      (by rw [host.device, running])⟩
  · rw [State.wake_station, stands.stations l c (Or.inr other), h.stations l c (Or.inr other)]
  · rw [State.wake_line, stands.lines m other, h.lines m other]
  · rw [State.wake_station, stands.stations m c (Or.inl other), h.stations m c (Or.inl other)]
  · rw [State.wake_ringUnit, State.ringUnit, stands.admission, ← State.ringUnit, h.unit]

theorem State.retireAll_append (u : State) (status : Status) (keep : Bool) (front rest : List EntryIx) :
    u.retireAll status keep (front ++ rest) = (u.retireAll status keep front).retireAll status keep rest :=
  List.foldl_append

/-- The cascade, from the state in which the entries of `owner` have retired on. -/
theorem State.Downs.cascade {u : State} {ln0 : LineEngine} {threshold : Nat} {who : Owner} {front rest : List EntryIx}
    (h : s.Downs (u.retireAll .stationOffline false front) l a ln0 (r.atThreshold threshold) owner [] items places)
    (running : s.device.state = .running) (active : ln0.state.isActive = true) (real : a ≠ broadcastStation)
    (order : (u.station l a).cascadeOrder who = front ++ rest)
    (all : ∀ k, k ∈ r.fifo ++ r.deferred → k ∈ owner.map Prod.fst ++ rest)
    (places_on : ∀ j ∈ rest, ∀ p c, places.get p = some c → c.target ≠ some j)
    (bound : ∀ j ∈ rest, s.Bound l a j) (once : (owner.map Prod.fst ++ rest).Nodup)
    (f : LineEngine → LineEngine) (old : StationState) :
    s.Downed ((u.offlineCascade l a who old).modLine l f).wake l a (f ln0) (r.downed threshold) owner rest items places
      (.stationState (addressOf a) old .offline .failures (r.statusWord.getD 0)) := by
  have swept := h.retireAll active real rfl rest places_on bound (by simpa using once)
  rw [← State.retireAll_append, ← order, List.nil_append] at swept
  unfold State.offlineCascade
  generalize u.retireAll .stationOffline false ((u.station l a).cascadeOrder who) = v at *
  have cleared : (v.modStation l a fun r => { r.clearRelease with attention := false }).station l a
      = r.downed threshold := by
    rw [State.station_modStation, if_pos ⟨rfl, rfl⟩, swept.station, StationRecord.cleared_eq all]
  have stands := (((State.Stands.refl v l a 0).modStation fun r => { r.clearRelease with attention := false }).indicate
    (.stationState (addressOf a) old .offline .failures (r.statusWord.getD 0))).modLine f
  rw [swept.line, swept.station, StationRecord.cleared_eq all] at stands
  dsimp only
  rw [State.indicateStation, cleared]
  have given := State.indicate_ind_congr (s := s)
    (t := v.modStation l a fun r => { r.clearRelease with attention := false }) swept.ind swept.host.time
    swept.host.device swept.host.indRing l (.stationState (addressOf a) old .offline .failures (r.statusWord.getD 0))
  exact swept.finish stands (State.indicate_store _ _ _)
    given running

/-! ### What the owner does before the cascade (R66, R101) -/

theorem State.Stands.downs (h : s.Stands x l a ln r i (s.entry i)) (store : x.store = s.store) (ind : x.ind = s.ind) :
    s.Downs x l a ln r [] [] [] s.admission.places := by
  refine ⟨h.line, h.lines, h.station.trans r.without_nil.symm, h.stations, fun _ mem => absurd mem List.not_mem_nil,
    fun _ mem => absurd mem List.not_mem_nil, fun k _ => ?_, h.host, fun q => ?_, congrArg (·.credit) h.admission,
    congrArg (·.counter) h.admission, congrArg (·.asked) h.admission, congrArg (·.stage) h.admission,
    congrArg (·.posting) h.retire, congrArg (·.places) h.admission, ?_, store, ind⟩
  · by_cases same : k = i
    · rw [same, h.entry]
    · exact h.entries k same
  · rw [State.ringUnit, h.admission, State.ringUnit]
  · rw [h.retire]
    exact (List.append_nil _).symm

theorem State.StandsRetired.downs {e : Entry} {release : Option Nat} {store : PayloadStore}
    (h : s.StandsRetired v l a ln r i e status release abort store) (store_eq : store = s.store)
    (offline : r.state = .offline) :
    s.Downs v l a ln r [(i, e, status)] [] (s.itemsOf i abort) (s.placesAfter abort status) := by
  obtain ⟨record, ind⟩ := h.certain (Or.inr (by rw [offline]; decide))
  have left := r.without_append [] i
  rw [StationRecord.without_nil] at left
  rw [StationRecord.afterRetire_of_offline offline, left] at record
  refine ⟨h.line, h.lines, record, h.stations, fun x mem => ?_, fun _ mem => absurd mem List.not_mem_nil,
    fun k out => h.entries k fun same => out (by rw [same]; exact List.mem_cons_self), h.host, h.unit, h.credit,
    h.counter, h.asked, h.stage, h.posting, h.places, ?_, h.store.trans store_eq, ind⟩
  · rw [List.mem_singleton.1 mem]
    exact h.entry
  · rw [h.queue]
    exact congrArg _ (List.append_nil _).symm

theorem StationRecord.cascadeOrder_listed (listed : i ∈ r.fifo ∨ i ∈ r.deferred) :
    r.cascadeOrder (.entry i) = [i] ++ (r.fifo.filter (· != i) ++ r.deferred.filter (· != i)) := by
  unfold StationRecord.cascadeOrder
  dsimp only
  rw [if_pos listed, List.append_assoc]

theorem StationRecord.cascadeOrder_gone (r : StationRecord) (i : EntryIx) :
    (r.without [i]).cascadeOrder (.entry i) = r.fifo.filter (· != i) ++ r.deferred.filter (· != i) := by
  have twice : ∀ xs : List EntryIx, (xs.filter fun k => decide (k ∉ [i])).filter (· != i) = xs.filter (· != i) :=
    fun xs => by
      rw [List.filter_filter]
      exact List.filter_congr fun k _ => by by_cases same : k = i <;> simp [same]
  unfold StationRecord.cascadeOrder StationRecord.without
  dsimp only
  rw [if_neg (by simp), twice, twice]
  rfl

/-- The owner takes the ending: it retires by its own fate, or the cascade retires it first. -/
theorem State.Stands.owner_downs {e : Entry} {threshold : Nat} {fate : Fate} {release : Option Nat}
    (h : s.Stands x l a ln (r.atThreshold threshold) i e) (store : x.store = s.store) (ind : x.ind = s.ind)
    (active : ln.state.isActive = true) (real : a ≠ broadcastStation) (line : e.line = l) (station : e.station = some a)
    (exchange : e.state = .exchange) (noFence : s.NoFenceOn i) (on : s.AbortOn i abort)
    (listed : i ∈ r.fifo ∨ i ∈ r.deferred)
    (fates : fate = .retire status release
      ∨ (∃ attempts, fate = .retryWait attempts) ∧ status = .stationOffline ∧ abort = none) :
    ∃ front, ((x.takeFate i fate).station l a).cascadeOrder (.entry i)
        = front ++ (r.fifo.filter (· != i) ++ r.deferred.filter (· != i))
      ∧ s.Downs ((x.takeFate i fate).retireAll .stationOffline false front) l a ln (r.atThreshold threshold)
          [(i, e, status)] [] (s.itemsOf i abort) (s.placesAfter abort status) := by
  rcases fates with retire | ⟨⟨attempts, again⟩, rfl, rfl⟩
  · have downs := (h.retired active ind real line station (by rw [exchange]; decide) (by rw [exchange]; decide) noFence
      (by rw [exchange]; decide) on status release).downs store rfl
    refine ⟨[], ?_, by rw [retire]; exact downs⟩
    rw [retire]
    show ((x.retireEntry i status release).station l a).cascadeOrder _ = _
    rw [downs.station]
    exact (r.atThreshold threshold).cascadeOrder_gone i
  · obtain ⟨waits, store', ind'⟩ := h.retryWait line attempts
    have downs := (waits.retired active (ind'.trans ind) real line station (fun k => by cases k) (fun k => by cases k) noFence
      (fun k => by cases k) on .stationOffline none).downs (store'.trans store) rfl
    refine ⟨[i], ?_, ?_⟩
    · rw [again, waits.station]
      exact StationRecord.cascadeOrder_listed listed
    · rw [again]
      have own := downs.owned _ (List.mem_singleton.2 rfl)
      exact { downs with
        owned := fun x mem => by
          rw [List.mem_singleton.1 mem]
          exact own }

/-- An entry for which no ABORT waits has none waiting once another's ABORT is fixed (R96). -/
theorem State.NoAbortOn.placesAfter (h : s.NoAbortOn j) (abort : Option (PlaceIx × Immediate)) (status : Status)
    (p : PlaceIx) (c : Immediate) (at_ : (s.placesAfter abort status).get p = some c) : c.target ≠ some j := by
  cases abort with
  | none => exact h p c at_
  | some x =>
    obtain ⟨q, d⟩ := x
    by_cases same : q = p
    · subst same
      have fixed : some _ = some c := (Table.get_set_self _ _ _).symm.trans at_
      rw [← Option.some.inj fixed]
      exact fun k => by cases k
    · exact h p c ((Table.get_set_ne _ _ same).symm.trans at_)

/-! ### The failed attempt that reaches the threshold -/

/-- The line engine is `ln0` and the station's failures have reached the threshold (R64). -/
def State.reached (s : State) (l : Line) (a : Station) (ln0 : LineEngine) : State :=
  (s.setLine l ln0).modStation l a fun r => r.atThreshold (s.line l).params.failureThreshold

theorem StationRecord.takeFailures_reached {threshold : Nat} (failure : ending.isFailure = true)
    (absent : r.state ≠ .absent) (offline : r.state ≠ .offline) (reached : r.failures + 1 = threshold) :
    r.takeFailures threshold ending = r.atThreshold threshold := by
  have notAnswer : ending.isAnswer = false := by cases ending <;> first | rfl | cases failure
  unfold StationRecord.takeFailures
  rw [if_neg (by rw [notAnswer]; exact Bool.false_ne_true), if_pos (by simp [failure, absent, offline]),
    if_pos (Nat.le_of_eq reached.symm)]
  rfl

/-- A failed attempt at the threshold: the owner takes the ending, then the cascade runs (R64, R66). -/
theorem State.AttemptFailsBy.cascades (h : s.AttemptFailsBy l ex c detail ln) (running : s.device.state = .running)
    (current : (s.line l).current = some ex) (errors : (s.line l).errors ≤ 65535)
    (real : ex.station ≠ broadcastStation) (owner : ex.owner ≠ .beacon)
    (absent : (s.station l ex.station).state ≠ .absent) (offline : (s.station l ex.station).state ≠ .offline)
    (reached : (s.station l ex.station).failures + 1 = (s.line l).params.failureThreshold) :
    ∃ ending ln0, FailsWith ending detail ∧ ln0.enterGuard ending = ln ∧ ln0.state = (s.line l).state
      ∧ exec c s = .next ((((((s.reached l ex.station ln0).ownerTakes ex ending).offlineCascade l ex.station ex.owner
          (s.station l ex.station).state).modLine l fun ln => ln.enterGuard ending).settleLine l).wake) := by
  obtain ⟨ending, ln0, fails, after, state, params, run⟩ := h.run running current errors
  refine ⟨ending, ln0, fails, after, state, run.trans ?_⟩
  obtain ⟨failure, notAnswer, -, -⟩ := fails.facts
  have line : (s.setLine l ln0).line l = ln0 := State.line_setLine_self _ _ _
  have counted : ((s.setLine l ln0).modStation l ex.station fun r =>
      r.takeFailures ((s.setLine l ln0).line l).params.failureThreshold ending) = s.reached l ex.station ln0 := by
    have taken := StationRecord.takeFailures_reached failure absent offline reached
    rw [line, params]
    exact congrArg ((s.setLine l ln0).setStation l ex.station) taken
  have down : ((s.reached l ex.station ln0).station l ex.station).state = .offline := by
    unfold State.reached
    rw [State.station_modStation, if_pos ⟨rfl, rfl⟩]
    rfl
  rw [State.deliver_of_station real owner, State.stationEnding_other notAnswer, counted, if_pos ⟨down, offline⟩]
  rfl

/-- A cascade whose owner is an entry. -/
theorem State.AttemptFailsBy.entry_cascades {e : Entry} {fate : Fate} {release : Option Nat}
    (h : s.AttemptFailsBy l ex c detail ln) (owned : s.Owned l ex i) (active : s.Active l)
    (current : (s.line l).current = some ex) (errors : (s.line l).errors ≤ 65535) (owner : ex.owner = .entry i)
    (absent : (s.station l ex.station).state ≠ .absent) (offline : (s.station l ex.station).state ≠ .offline)
    (reached : (s.station l ex.station).failures + 1 = (s.line l).params.failureThreshold)
    (frame : e.state = .exchange ∧ e.line = l ∧ e.station = some ex.station)
    (on : s.AbortOn i abort)
    (listed : i ∈ (s.station l ex.station).fifo ∨ i ∈ (s.station l ex.station).deferred)
    (fates : fate = .retire status release
      ∨ (∃ attempts, fate = .retryWait attempts) ∧ status = .stationOffline ∧ abort = none)
    (takes : ∀ ending, FailsWith ending detail → ∀ x : State, x.entry i = s.entry i →
      x.entryEnding i ex.kind ending = (x.setEntry i e).takeFate i fate)
    (bound : ∀ j ∈ (s.station l ex.station).fifo.filter (· != i) ++ (s.station l ex.station).deferred.filter (· != i),
      s.Bound l ex.station j)
    (once : (i :: ((s.station l ex.station).fifo.filter (· != i)
      ++ (s.station l ex.station).deferred.filter (· != i))).Nodup) :
    s.Then c l fun t => s.Downed t l ex.station ln ((s.station l ex.station).downed (s.line l).params.failureThreshold)
      [(i, e, status)]
      ((s.station l ex.station).fifo.filter (· != i) ++ (s.station l ex.station).deferred.filter (· != i))
      (s.itemsOf i abort) (s.placesAfter abort status)
      (.stationState (addressOf ex.station) (s.station l ex.station).state .offline .failures
        ((s.station l ex.station).statusWord.getD 0)) := by
  obtain ⟨ending, ln0, fails, after, state, run⟩ := h.cascades owned.running current errors owned.real
    (by rw [owner]; exact fun k => by cases k) absent offline reached
  have active0 : ln0.state.isActive = true := by rw [state]; exact active.isActive
  have stands : s.Stands (s.reached l ex.station ln0) l ex.station ln0
      ((s.station l ex.station).atThreshold (s.line l).params.failureThreshold) i (s.entry i) :=
    ((State.Stands.refl s l ex.station i).modLine fun _ => ln0).modStation _
  have took := takes ending fails _ stands.entry
  rw [State.ownerTakes_entry owner, took, owner] at run
  obtain ⟨exchange, line, station⟩ := frame
  obtain ⟨front, order, downs⟩ := (stands.setEntry e).owner_downs rfl rfl active0 owned.real line station exchange
    owned.noFence on listed fates
  have all : ∀ k, k ∈ (s.station l ex.station).fifo ++ (s.station l ex.station).deferred →
      k ∈ [i] ++ ((s.station l ex.station).fifo.filter (· != i) ++ (s.station l ex.station).deferred.filter (· != i)) :=
    fun k mem => by
      by_cases same : k = i
      · exact List.mem_append_left _ (List.mem_singleton.2 same)
      · refine List.mem_append_right _ ?_
        rw [← List.filter_append]
        exact List.mem_filter.2 ⟨mem, by simpa using same⟩
  have ended := downs.cascade owned.running active0 owned.real order all
    (fun j mem => (bound j mem).noAbort.placesAfter abort status) bound once (fun ln => ln.enterGuard ending)
    (s.station l ex.station).state
  have device := ended.host.device
  rw [State.wake_device] at device
  subst after
  exact State.then_of_exec run ((congrArg (·.state) device).trans owned.running) ended

end

end Sys2Proof.Machine

/-! O48: a failed attempt at the failure counts. -/

namespace Sys2Proof.Machine

section
variable {s t : State} {l : Line} {ex : Exchange} {c : Instr} {i : EntryIx} {detail : Detail} {ending : Ending}
  {ln : LineEngine}

/-- A grant that stands goes on standing (R129). -/
theorem State.Begins.stage_kept (h : s.Begins t) (g : Grant) (granted : s.admission.stage = some g) :
    t.admission.stage = some g := by
  have stage := h.stage
  rw [State.StageAfter, granted] at stage
  exact stage

/-- The last attempt of a POLL that fails below the threshold (R67, R87, R90). -/
theorem State.AttemptFailsBy.last_poll (h : s.AttemptFailsBy l ex c detail ln) (owned : s.Owned l ex i)
    (active : s.Active l) (current : (s.line l).current = some ex) (errors : (s.line l).errors ≤ 65535)
    (owner : ex.owner = .entry i) (poll : ex.kind = .poll) (counts : s.Counts l ex) (undecided : s.Undecided i)
    (limit : (s.entry i).attemptLimit ≤ (s.entry i).attemptsUsed) :
    s.Then c l fun t =>
      s.RetiresAfter t l ex.station ln (s.station l ex.station).failed i
          { s.entry i with unansweredAttempt := true, lastEnding := detail } .noResponse none none
        ∧ t.store = s.store := by
  obtain ⟨ending, ln0, fails, after, state, params, delivers⟩ :=
    h.delivers owned.running current errors owned.real owner counts
  obtain ⟨-, -, noReply, -⟩ := fails.facts
  obtain ⟨noAbort, noDeadline, on⟩ := undecided
  subst after
  have retired := delivers.poll_retires owned (by rw [state]; exact active.isActive) (by rw [poll]; decide) noReply
    (abort := none) (status := .noResponse) (release := none) (by
      rw [fails.afterPoll]
      exact (fails.pollFate _).trans ((ite_undecided noAbort noDeadline none _).trans
        (Entry.failedAttempt_last _ limit))) on
  rw [fails.afterPoll] at retired
  exact retired

/-- A change of a record that leaves it as it is changes nothing. -/
theorem State.modStation_of_same {f : StationRecord → StationRecord} {a : Station} (h : f (s.station l a) = s.station l a) :
    s.modStation l a f = s := by
  unfold State.modStation
  rw [h]
  show ({ s with stations := _ } : State) = s
  rw [State.station, Table.set_get_self, Table.set_get_self]

/-- A failed attempt of a re-probe's SYNC counts nothing (R64). -/
theorem State.AttemptFailsBy.offline_station (h : s.AttemptFailsBy l ex c detail ln)
    (running : s.device.state = .running) (current : (s.line l).current = some ex)
    (errors : (s.line l).errors ≤ 65535) (real : ex.station ≠ broadcastStation) (owner : ex.owner = .station)
    (offline : (s.station l ex.station).state = .offline) : s.Then c l fun t => s.OnlyLine t l ln := by
  obtain ⟨ending, ln0, fails, after, state, params, run⟩ := h.run running current errors
  obtain ⟨-, notAnswer, -, -⟩ := fails.facts
  have same : ((s.setLine l ln0).modStation l ex.station fun r =>
      r.takeFailures ((s.setLine l ln0).line l).params.failureThreshold ending) = s.setLine l ln0 := by
    have kept : ∀ threshold, (s.station l ex.station).takeFailures threshold ending = s.station l ex.station :=
      fun threshold => by
        unfold StationRecord.takeFailures
        rw [if_neg (by rw [notAnswer]; exact Bool.false_ne_true), if_neg (by simp [offline])]
    exact State.modStation_of_same (s := s.setLine l ln0) (kept _)
  have ended : (s.setLine l ln0).stationEnding l ex ending = s.setLine l ln0 := by
    rw [State.stationEnding_other notAnswer, same, State.ownerTakes_station owner]
    exact if_neg fun k => k.2 offline
  unfold State.EndsWith at run
  rw [State.deliver_of_station real (by rw [owner]; exact fun k => by cases k), ended, State.setLine_modLine,
    after] at run
  exact State.then_of_exec run running (State.setLine_onlyLine_wake running l ln)

/-- The cascade of a failed attempt of the station's own. -/
theorem State.AttemptFailsBy.station_cascades (h : s.AttemptFailsBy l ex c detail ln)
    (running : s.device.state = .running) (active : s.Active l) (current : (s.line l).current = some ex)
    (errors : (s.line l).errors ≤ 65535) (real : ex.station ≠ broadcastStation) (owner : ex.owner = .station)
    (absent : (s.station l ex.station).state ≠ .absent) (offline : (s.station l ex.station).state ≠ .offline)
    (reached : (s.station l ex.station).failures + 1 = (s.line l).params.failureThreshold)
    (bound : ∀ j ∈ (s.station l ex.station).fifo ++ (s.station l ex.station).deferred, s.Bound l ex.station j)
    (once : ((s.station l ex.station).fifo ++ (s.station l ex.station).deferred).Nodup) :
    s.Then c l fun t => s.Downed t l ex.station ln ((s.station l ex.station).downed (s.line l).params.failureThreshold)
      [] ((s.station l ex.station).fifo ++ (s.station l ex.station).deferred) [] s.admission.places
      (.stationState (addressOf ex.station) (s.station l ex.station).state .offline .failures
        ((s.station l ex.station).statusWord.getD 0)) := by
  obtain ⟨ending, ln0, fails, after, state, run⟩ := h.cascades running current errors real
    (by rw [owner]; exact fun k => by cases k) absent offline reached
  have active0 : ln0.state.isActive = true := by rw [state]; exact active.isActive
  have stands : s.Stands (s.reached l ex.station ln0) l ex.station ln0
      ((s.station l ex.station).atThreshold (s.line l).params.failureThreshold) 0 (s.entry 0) :=
    ((State.Stands.refl s l ex.station 0).modLine fun _ => ln0).modStation _
  rw [State.ownerTakes_station owner, owner] at run
  have order : ((s.reached l ex.station ln0).station l ex.station).cascadeOrder .station
      = [] ++ ((s.station l ex.station).fifo ++ (s.station l ex.station).deferred) := by
    rw [stands.station]
    rfl
  have ended := (stands.downs rfl rfl).cascade (front := []) running active0 real order
    (fun k mem => mem) (fun j mem => (bound j mem).noAbort) bound once
    (fun ln => ln.enterGuard ending) (s.station l ex.station).state
  have device := ended.host.device
  rw [State.wake_device] at device
  subst after
  exact State.then_of_exec run ((congrArg (·.state) device).trans running) ended

/-- What the owner of a cascade does first: it retires by the flags or with its last attempt, or it would wait for
another one (R66, R87, R94, R96, R110). -/
theorem fates_of_decision {e : Entry} {status : Status} {abort : Option (PlaceIx × Immediate)} {release : Option Nat}
    {used limit : Nat} {other : Fate} (spent : limit ≤ used → other = .retire .noResponse release)
    (again : used < limit → other = .retryWait used)
    (decision : (e.abortPending = false ∧ e.deadlinePassed = false ∧ abort = none
        ∧ ((used < limit ∧ status = .stationOffline) ∨ (limit ≤ used ∧ status = .noResponse)))
      ∨ e.DecidedBy status) :
    let fate := if e.abortPending = true then Fate.retire .aborted release
      else if e.deadlinePassed = true then Fate.retire .deadline release else other
    fate = .retire status release
      ∨ (∃ attempts, fate = .retryWait attempts) ∧ status = .stationOffline ∧ abort = none := by
  intro fate
  rcases decision with ⟨noAbort, noDeadline, on, ⟨more, same⟩ | ⟨limit, same⟩⟩ | decided
  · exact .inr ⟨⟨used, (ite_undecided noAbort noDeadline release other).trans (again more)⟩, same, on⟩
  · rw [same]
    exact .inl ((ite_undecided noAbort noDeadline release other).trans (spent limit))
  · exact .inl (ite_retire decided release other)

end

/-- Settles O48: the last attempt, the station's own exchange, and the OFFLINE cascade by its owner. -/
theorem lastFailures : Obligations.LastFailures := by
  intro s l ex c detail guarded running active current real fails errors r threshold ends tried bound
  have tried_poll : ∀ i, ex.kind = .poll → { s.entry i with unansweredAttempt := true, lastEnding := detail } = tried i :=
    fun i poll => by
      show _ = ({ s.entry i with
        unansweredAttempt := (s.entry i).unansweredAttempt || decide (ex.kind = .poll), lastEnding := detail } : Entry)
      rw [poll, decide_eq_true rfl, Bool.or_true]
  have tried_collect : ∀ i, ex.kind = .collect → { s.entry i with lastEnding := detail } = tried i :=
    fun i collect => by
      show _ = ({ s.entry i with
        unansweredAttempt := (s.entry i).unansweredAttempt || decide (ex.kind = .poll), lastEnding := detail } : Entry)
      rw [collect, decide_eq_false (by decide), Bool.or_false]
  refine ⟨fun i ⟨line, station, noFence⟩ undecided transact owner poll exchange fresh noReply limit absent offline
    below => ?_, fun owner => ⟨fun offline => fails.offline_station running current errors real owner offline,
      fun absent offline below => ?_⟩, fun known reached => ?_⟩
  · have owned : s.Owned l ex i := ⟨running, exchange, line, station, real, noFence⟩
    have may : ((tried i).finalFlags .noResponse).mayHaveExecuted = true := by
      rw [← tried_poll i poll]
      simp [Entry.finalFlags, transact, fresh, noReply]
    have last := fails.last_poll owned active current errors owner poll ⟨absent, offline, below⟩ undecided limit
    rw [tried_poll i poll] at last
    refine last.mono fun t ⟨⟨certain, suspect, places, queue⟩, store⟩ => ?_
    by_cases online : r.state = .online
    · obtain ⟨ended, indication⟩ := suspect may online
      refine ⟨ended.entry, ⟨_, congrArg (·.final) ended.entry, may⟩, ended.entries, queue, ?_, fun _ => indication,
        fun other => absurd online other, fun a other => ended.stations l a (Or.inr other), ended.line,
        ⟨ended.lines, fun m a other => ended.stations m a (Or.inl other)⟩, store, ended.host,
        ⟨ended.unit, ended.credit, ended.counter, places, ended.asked, ended.begins.stage_kept⟩, ended.begins⟩
      rw [ended.station, if_pos online]
      rfl
    · obtain ⟨ended, indication⟩ := certain (Or.inr online)
      refine ⟨ended.entry, ⟨_, congrArg (·.final) ended.entry, may⟩, ended.entries, queue, ?_,
        fun same => absurd same online, fun _ => indication, fun a other => ended.stations l a (Or.inr other), ended.line,
        ⟨ended.lines, fun m a other => ended.stations m a (Or.inl other)⟩, store, ended.host,
        ⟨ended.unit, ended.credit, ended.counter, places, ended.asked, ended.begins.stage_kept⟩, ended.begins⟩
      rw [ended.station, if_neg online]
      rfl
  · refine (fails.station_fails running current errors real owner ⟨absent, offline, below⟩).mono
      fun t ⟨took, silent⟩ => ?_
    obtain ⟨⟨others, lines, engine, entries, -⟩, record⟩ := id took
    exact ⟨record, others, engine, entries, lines, took.sameRest silent⟩
  · intro cascade
    have absent : r.state ≠ .absent := fun k => by rcases known with e | e | e <;> rw [e] at k <;> cases k
    have offline : r.state ≠ .offline := fun k => by rcases known with e | e | e <;> rw [e] at k <;> cases k
    have concludes : ∀ owner rest items places,
        ((∀ j ∈ rest, s.Bound l ex.station j) → (owner.map Prod.fst ++ rest).Nodup →
          s.Then c l fun t => s.Downed t l ex.station guarded (r.downed threshold) owner rest items places
            (.stationState (addressOf ex.station) r.state .offline .failures (r.statusWord.getD 0))) →
        cascade owner rest items places := fun owner rest items places down waiting once =>
      (down (fun j mem => ⟨(waiting j mem).1.1, (waiting j mem).1.2.1, (waiting j mem).1.2.2, (waiting j mem).2.1,
        (waiting j mem).2.2⟩) once).mono fun t d =>
          ⟨d.owned, d.retired, d.entries, d.queue, d.places, d.station, d.indication, d.stations, d.line, d.otherLines,
            d.store, d.host, d.unit, d.credit, d.counter, d.asked, d.begins⟩
    refine ⟨fun owner => concludes _ _ _ _ fun waiting once =>
      fails.station_cascades running active current errors real owner absent offline reached waiting once,
      fun i status abort owner ⟨line, station, noFence⟩ exchange listed decision =>
        concludes _ _ _ _ fun waiting once => ?_⟩
    have owned : s.Owned l ex i := ⟨running, exchange, line, station, real, noFence⟩
    have frame : (tried i).state = .exchange ∧ (tried i).line = l ∧ (tried i).station = some ex.station :=
      ⟨exchange, line, station⟩
    have on : s.AbortOn i abort := by
      rcases decision with ⟨⟨-, -, noAbort⟩, nothing, -⟩ | decided
      · rw [nothing]; exact noAbort
      · exact decided.1
    have choice : ((tried i).abortPending = false ∧ (tried i).deadlinePassed = false ∧ abort = none
        ∧ ((_ < (tried i).attemptLimit ∧ status = .stationOffline)
          ∨ ((tried i).attemptLimit ≤ _ ∧ status = .noResponse))) ∨ (tried i).DecidedBy status :=
      decision.imp (fun ⟨⟨noAbort, noDeadline, _⟩, nothing, counts⟩ => ⟨noAbort, noDeadline, nothing, counts⟩) (·.2)
    have reaches := fun fate release listed fates takes => fails.entry_cascades (status := status)
      (fate := fate) (release := release) (e := tried i) owned active current errors owner absent offline reached frame on listed fates takes waiting once
    rcases listed with ⟨poll, fifo⟩ | ⟨collect, deferred, token⟩
    · have notCollect : ex.kind ≠ .collect := by rw [poll]; decide
      rw [if_pos poll] at choice
      refine reaches _ none (.inl fifo)
        (fates_of_decision (Entry.failedAttempt_last .noResponse) (Entry.failedAttempt_again .noResponse) choice)
        fun ending with_ x own => ?_
      obtain ⟨-, -, noReply, -⟩ := with_.facts
      rw [State.entryEnding_poll own exchange notCollect noReply, with_.afterPoll, tried_poll i poll]
      exact congrArg ((x.setEntry i (tried i)).takeFate i) (with_.pollFate (tried i))
    · rw [if_neg (by rw [collect]; decide)] at choice
      refine reaches _ (tried i).token (.inr deferred)
        (fates_of_decision Entry.failedCollect_last Entry.failedCollect_again choice) fun ending with_ x own => ?_
      obtain ⟨-, -, noReply, -⟩ := with_.facts
      rw [collect, State.entryEnding_collect own exchange noReply, with_.afterCollect, tried_collect i collect]
      exact congrArg ((x.setEntry i (tried i)).takeFate i) (with_.collectFate (tried i) _)

end Sys2Proof.Machine

/-! An entry retires while no exchange of it goes on: its deadline expires (R89, R93, R98, R99). -/

namespace Sys2Proof.Machine

section
variable {s v : State} {i j : EntryIx} {a : Station} {status : Status} {release : Option Nat} {abort : Option PlaceIx}

/-! ### A retirement, between two wakes -/

theorem State.RetireFrame.sameAdmission_wake (h : s.RetireFrame v) (places : v.admission.places = s.admission.places) :
    s.SameAdmission v.wake :=
  State.SameAdmission.trans (t := v)
    ⟨h.unit, h.credit, h.counter, places, h.asked, fun _ granted => h.stage.trans granted⟩ v.wake_sameAdmission

theorem State.RetireFrame.begins_wake (h : s.RetireFrame v) (running : s.device.state = .running) : s.Begins v.wake :=
  State.begins_wake h.stage h.posting ((congrArg (·.state) h.host.device).trans running)

/-- An entry retires, with nothing waiting on it, and the part begins what it may begin. -/
theorem State.Retires.entryRetired (h : s.Retires v i status release none) (running : s.device.state = .running)
    (station : (s.entry i).station = some a) (noFence : s.NoFenceOn i) : s.EntryRetired v.wake i a status release := by
  have alone : ∀ j, ¬ s.WaitsFor j i := fun j k => noFence j k.1 k.2
  have frame := h.frame
  obtain ⟨elsewhere, certain, suspect, silent⟩ := h.record fun j k => absurd k (alone j)
  obtain ⟨done, -, mem, queue⟩ := h.queue
  have nothing : done = [] := List.eq_nil_iff_forall_not_mem.2 fun j hj => alone j ((mem j).1 hj).2.1
  refine ⟨(State.wake_entry _ _).trans h.entry, fun j other => (State.wake_entry _ _).trans (h.others j other (alone j)),
    by rw [State.wake_queue, queue, nothing]; rfl, fun calm => ⟨?_, ?_⟩, fun uncertain => ?_, fun m c other => ?_,
    fun l => (State.wake_line _ _).trans (frame.line l), (State.wake_store _).trans frame.store,
    frame.host.trans v.wake_sameHost, frame.sameAdmission_wake h.places, frame.begins_wake running⟩
  · exact (State.wake_station _ _ _).trans (certain a station calm)
  · refine State.noIndication_wake (silent fun c own => ?_) frame.host
    rw [station] at own
    exact Option.some.inj own ▸ calm
  · obtain ⟨record, ind⟩ := suspect a station uncertain
    exact ⟨(State.wake_station _ _ _).trans record, State.oneIndication_wake ind frame.host⟩
  · rw [State.wake_station, elsewhere m c fun same => ?_]
    rw [station] at same
    exact other.elim (fun k => k same.1) fun k => k (Option.some.inj same.2).symm

/-- An entry retires, and one FENCE that waited for it counts it (R98, R99). -/
theorem State.Retires.fence_counts (h : s.Retires v i status release none) (notOk : status ≠ .ok)
    (running : s.device.state = .running) (other : j ≠ i) (wait : (s.entry j).state = .fenceWait)
    (once : (s.entry j).waitsFor.Nodup) (member : i ∈ (s.entry j).waitsFor)
    (alone : ∀ k, k ≠ j → (s.entry k).state = .fenceWait → i ∉ (s.entry k).waitsFor) :
    let waits := (s.entry j).waitsFor.filter (· != i)
    v.wake.entry i = (s.entry i).retired status
      ∧ waits.length + 1 = (s.entry j).waitsFor.length
      ∧ (∀ k, k ∈ waits ↔ k ≠ i ∧ k ∈ (s.entry j).waitsFor)
      ∧ (waits ≠ [] →
          v.wake.entry j = { s.entry j with waitsFor := waits, notOkCount := (s.entry j).notOkCount + 1 }
          ∧ v.wake.retire.queue = s.retire.queue ++ [{ item := .entry i, stamp := s.time.now }])
      ∧ (waits = [] →
          v.wake.entry j = { s.entry j with notOkCount := (s.entry j).notOkCount + 1 }.retired .ok
          ∧ v.wake.retire.queue = s.retire.queue
            ++ [{ item := .entry i, stamp := s.time.now }, { item := .entry j, stamp := s.time.now }])
      ∧ (∀ k, k ≠ i → k ≠ j → v.wake.entry k = s.entry k) ∧ (∀ l, v.wake.line l = s.line l)
      ∧ v.wake.store = s.store ∧ s.SameHost v.wake ∧ s.SameAdmission v.wake ∧ s.Begins v.wake := by
  intro waits
  have frame := h.frame
  have only : ∀ k, k ≠ j → ¬ s.WaitsFor k i := fun k hk w => alone k hk w.1 w.2
  obtain ⟨done, unique, mem, queue⟩ := h.queue
  have last : (s.entry j).lastFor i = waits.isEmpty := rfl
  have counts : v.wake.entry j = (s.entry j).counting i status :=
    (State.wake_entry _ _).trans (h.fences j other ⟨wait, member⟩)
  unfold Entry.counting Entry.countRetired at counts
  rw [if_neg notOk] at counts
  refine ⟨(State.wake_entry _ _).trans h.entry, ?_, fun k => by simp [waits, and_comm], fun going => ?_,
    fun finished => ?_, fun k hi hj => (State.wake_entry _ _).trans (h.others k hi (only k hj)),
    fun l => (State.wake_line _ _).trans (frame.line l), (State.wake_store _).trans frame.store,
    frame.host.trans v.wake_sameHost, frame.sameAdmission_wake h.places, frame.begins_wake running⟩
  · have erased : waits = (s.entry j).waitsFor.erase i := (once.erase_eq_filter i).symm
    rw [erased, List.length_erase_of_mem member]
    have := List.length_pos_of_mem member
    omega
  · have nothing : done = [] := List.eq_nil_iff_forall_not_mem.2 fun k hk => by
      obtain ⟨-, waiting, finished⟩ := (mem k).1 hk
      by_cases same : k = j
      · subst same
        exact going (List.isEmpty_iff.1 (last ▸ finished))
      · exact only k same waiting
    refine ⟨counts.trans (if_neg fun k => going (List.isEmpty_iff.1 k)), ?_⟩
    rw [State.wake_queue, queue, nothing]
    rfl
  · have just : done = [j] := by
      refine List.perm_singleton.1 ((List.perm_ext_iff_of_nodup unique (List.nodup_singleton j)).2 fun k => ?_)
      rw [mem, List.mem_singleton]
      refine ⟨fun ⟨_, waiting, _⟩ => by_contra fun k => only _ k waiting, fun same => ?_⟩
      subst same
      exact ⟨other, ⟨wait, member⟩, last.trans (List.isEmpty_iff.2 finished)⟩
    refine ⟨counts.trans (if_pos (List.isEmpty_iff.2 finished)), ?_⟩
    rw [State.wake_queue, queue, just]
    rfl

/-! ### The deadline -/

theorem State.unlinkEntry_setEntry (e : Entry) (line : e.line = (s.entry i).line)
    (station : e.station = (s.entry i).station) :
    (s.setEntry i e).unlinkEntry i = (s.unlinkEntry i).setEntry i e := by
  unfold State.unlinkEntry
  rw [State.entry_setEntry_self, station, line]
  cases (s.entry i).station <;> rfl

theorem State.setEntry_setEntry (s : State) (i : EntryIx) (e f : Entry) : (s.setEntry i e).setEntry i f = s.setEntry i f :=
  congrArg (fun t => ({ s with entries := t } : State)) (Table.set_set _ _ _ _)

/-- A timer that stops at an entry makes no difference to its retirement (R89). -/
theorem State.retireEntry_stopped (free : (s.entry i).state ≠ .free) (retiring : (s.entry i).state ≠ .retiring) :
    (s.modEntry i fun e => { e with deadlineTimer := .stopped }).retireEntry i status release
      = s.retireEntry i status release := by
  have core : ∀ p, (s.modEntry i fun e => { e with deadlineTimer := .stopped }).retireCore i status release p
      = s.retireCore i status release p := fun p => by
    unfold State.retireCore
    dsimp only
    rw [State.modEntry, State.unlinkEntry_setEntry (s := s) (i := i) { s.entry i with deadlineTimer := .stopped } rfl rfl,
      State.entry_setEntry_self, State.setEntry_setEntry]
    rfl
  have state : ((s.modEntry i fun e => { e with deadlineTimer := .stopped }).entry i).state = (s.entry i).state := by
    rw [State.modEntry, State.entry_setEntry_self]
  unfold State.retireEntry State.retireFor
  rw [core, state, if_neg fun k => k.elim free retiring, if_neg fun k => k.elim free retiring]
  rfl

end

/-- Settles O55: a deadline in EXCHANGE is marked, and elsewhere the entry retires and its line settles. -/
theorem deadlines : Obligations.Deadlines := by
  intro s i running expired e
  have run : exec (.deadlineExpiry i) s = .next (s.deadlineExpired i).wake := by
    show Host.Outcome.next (s.onExpiry (s.entry i).deadlineTimer _) = _
    rw [State.onExpiry_of_expired running expired]
  refine ⟨fun exchange => ?_, fun a waiting station noAbort => ?_⟩
  · refine ⟨_, run, ?_⟩
    have marked : s.deadlineExpired i
        = s.setEntry i { s.entry i with deadlineTimer := .stopped, deadlinePassed := true } := by
      unfold State.deadlineExpired State.modEntry
      simp only [show (s.entry i).state = _ from exchange, State.entry_setEntry_self, State.setEntry_setEntry]
    rw [marked]
    exact State.setEntry_onlyEntry_wake running i _
  · have free : (s.entry i).state ≠ .free := by rcases waiting with k | k | k <;> rw [k] <;> decide
    have retiring : (s.entry i).state ≠ .retiring := by rcases waiting with k | k | k <;> rw [k] <;> decide
    have retires : s.Retires (s.retireEntry i .deadline e.token) i .deadline e.token none := by
      have r := State.retireFor_retires free retiring .deadline e.token (s.abortPlace i)
      rw [State.abortPlace_of_noAbort noAbort] at r
      unfold State.retireEntry
      rw [State.abortPlace_of_noAbort noAbort]
      exact r
    have settled : exec (.deadlineExpiry i) s = .next ((s.retireEntry i .deadline e.token).settleLine e.line).wake := by
      rw [run, ← State.retireEntry_stopped free retiring]
      rcases waiting with k | k | k <;> simp only [State.deadlineExpired, show (s.entry i).state = _ from k] <;> rfl
    have running' := (congrArg (·.state) retires.frame.host.device).trans running
    refine ⟨fun noFence => State.then_of_exec settled running' (retires.entryRetired running station noFence),
      fun j other wait _ _ once member alone => ⟨(s.entry j).waitsFor.filter (· != i), State.then_of_exec settled running'
        (retires.fence_counts (by decide) running other wait once member alone)⟩⟩

end Sys2Proof.Machine

/-! A record that is applied while its line settles: what the line does and what the Admission Unit does do not meet,
but in the immediate places (R33 to R36, R51, R95, R128, R129). -/

namespace Sys2Proof.Machine

/-- The Admission Unit changed by `f`. -/
def State.onAdmission (s : State) (f : Admission → Admission) : State := { s with admission := f s.admission }

/-- The change `f` of the Admission Unit neither reads nor changes the immediate places. -/
def Admission.Blind (f : Admission → Admission) : Prop :=
  ∀ (a : Admission) (places : Table (Option Immediate) 8), f { a with places := places } = { f a with places := places }

theorem Admission.Blind.places {f : Admission → Admission} (blind : Admission.Blind f) (a : Admission) :
    (f a).places = a.places := by
  have same : f a = { f a with places := a.places } := blind a a.places
  rw [same]

/-- The Admission Unit is `a` and the Retire Unit `q`. -/
def State.withUnits (s : State) (a : Admission) (q : RetireUnit) : State := { s with admission := a, retire := q }

section
variable {s : State} {l : Line} {a : Admission} {q : RetireUnit} {f : Admission → Admission} {i : EntryIx}

/-! ### The arbiter reads and changes neither unit -/

theorem State.grantPoll_withUnits (b : Station) :
    (s.withUnits a q).grantPoll l b i = (s.grantPoll l b i).withUnits a q := by
  unfold State.grantPoll
  dsimp only
  split <;> rfl

theorem State.grantHead_withUnits (b : Station) :
    (s.withUnits a q).grantHead l b i = (s.grantHead l b i).withUnits a q := by
  have poll := State.grantPoll_withUnits (s := s) (l := l) (a := a) (q := q) (i := i) b
  unfold State.grantHead
  rw [poll]
  show (if b ≠ broadcastStation ∧ (s.station l b).state = .unknown then _
    else if b ≠ broadcastStation ∧ (s.station l b).state = .suspect then _ else _) = _
  split
  · rfl
  · split <;> rfl

theorem State.grantCollect_withUnits : (s.withUnits a q).grantCollect l i = (s.grantCollect l i).withUnits a q := by
  unfold State.grantCollect
  show (match (s.entry i).station with | some _ => _ | none => _) = _
  cases (s.entry i).station <;> rfl

theorem State.grantReprobe_withUnits : (s.withUnits a q).grantReprobe l = (s.grantReprobe l).withUnits a q := by
  unfold State.grantReprobe
  show (match s.nextOffline l with | some _ => _ | none => _) = _
  cases s.nextOffline l <;> rfl

theorem State.grant_withUnits (c : Candidate) : (s.withUnits a q).grant l c = (s.grant l c).withUnits a q := by
  cases c with
  | beacon => rfl
  | collect i => exact State.grantCollect_withUnits (s := s.modLine l fun ln => { ln with credit := s.creditAfter l (.collect i) })
  | head b i => exact State.grantHead_withUnits (s := s.modLine l fun ln => { ln with credit := s.creditAfter l (.head b i) }) b
  | eventFetch b => rfl
  | reprobe => exact State.grantReprobe_withUnits (s := s.modLine l fun ln => { ln with credit := s.creditAfter l .reprobe })
  | flush b => rfl

theorem State.evaluateOnce_withUnits : (s.withUnits a q).evaluateOnce l = (s.evaluateOnce l).withUnits a q := by
  have choose : (s.withUnits a q).choose l = s.choose l := rfl
  unfold State.evaluateOnce
  rw [choose]
  show (if (s.line l).mayGrant then _ else _) = _
  split
  · cases s.choose l with
    | none => rfl
    | some c => exact State.grant_withUnits c
  · rfl

theorem State.evaluate_withUnits : (s.withUnits a q).evaluate l = (s.evaluate l).withUnits a q := by
  unfold State.evaluate
  rw [State.evaluateOnce_withUnits, State.evaluateOnce_withUnits]

theorem State.evaluate_units (s : State) (l : Line) :
    (s.evaluate l).admission = s.admission ∧ (s.evaluate l).retire = s.retire := by
  have same : s.evaluate l = (s.evaluate l).withUnits s.admission s.retire :=
    State.evaluate_withUnits (s := s) (a := s.admission) (q := s.retire)
  exact ⟨congrArg (·.admission) same, congrArg (·.retire) same⟩

theorem State.evaluate_onAdmission : (s.onAdmission f).evaluate l = (s.evaluate l).onAdmission f := by
  obtain ⟨admission, retire⟩ := s.evaluate_units l
  have units : (s.onAdmission f).evaluate l = (s.evaluate l).withUnits (f s.admission) s.retire :=
    State.evaluate_withUnits
  rw [units]
  show _ = (s.evaluate l).withUnits (f (s.evaluate l).admission) (s.evaluate l).retire
  rw [admission, retire]

/-! ### A retirement reads and changes nothing of the Admission Unit but the immediate places (R89, R96, R98) -/

theorem State.indicate_onAdmission (b : IndicationBody) : (s.onAdmission f).indicate l b = (s.indicate l b).onAdmission f := by
  have same := State.indicate_ind_congr (s := s) (t := s.onAdmission f) rfl rfl rfl rfl l b
  rw [State.indicate_eq, same, State.indicate_eq s]
  rfl

theorem State.unlinkEntry_onAdmission : (s.onAdmission f).unlinkEntry i = (s.unlinkEntry i).onAdmission f := by
  unfold State.unlinkEntry
  show (match (s.entry i).station with | some _ => _ | none => _) = _
  cases (s.entry i).station <;> rfl

theorem State.settleToken_onAdmission (station : Option Station) (release : Option Nat) :
    (s.onAdmission f).settleToken l station release = (s.settleToken l station release).onAdmission f := by
  cases station with
  | none => rfl
  | some c =>
    cases release with
    | none => rfl
    | some token =>
      show (s.onAdmission f).appendRelease l c _ = (s.appendRelease l c _).onAdmission f
      unfold State.appendRelease
      split <;> rfl

theorem State.makeSuspect_onAdmission (station : Option Station) (may : Bool) :
    (s.onAdmission f).makeSuspect l station may = (s.makeSuspect l station may).onAdmission f := by
  cases station with
  | none => rfl
  | some c =>
    unfold State.makeSuspect
    show (if may && c != broadcastStation && (s.station l c).state == .online then _ else _) = _
    dsimp only
    split
    · exact State.indicate_onAdmission (s := s.modStation l c fun r => { r with state := .suspect }) _
    · rfl

theorem State.setPlace_onAdmission (blind : Admission.Blind f) (p : PlaceIx) (c : Option Immediate) :
    (s.onAdmission f).setPlace p c = (s.setPlace p c).onAdmission f := by
  have same := blind s.admission (s.admission.places.set p c)
  unfold State.setPlace State.onAdmission
  dsimp only
  rw [same, blind.places]

theorem State.finishAbort_onAdmission (blind : Admission.Blind f) (place : Option PlaceIx) (status : Status) :
    (s.onAdmission f).finishAbort place status = (s.finishAbort place status).onAdmission f := by
  cases place with
  | none => rfl
  | some p =>
    have places : (s.onAdmission f).admission.places = s.admission.places := blind.places _
    unfold State.finishAbort
    dsimp only
    rw [places]
    cases s.admission.places.get p with
    | none => rfl
    | some c =>
      dsimp only
      rw [State.setPlace_onAdmission blind]
      rfl

theorem State.abortPlace_onAdmission (blind : Admission.Blind f) : (s.onAdmission f).abortPlace i = s.abortPlace i := by
  have places : (s.onAdmission f).admission.places = s.admission.places := blind.places _
  unfold State.abortPlace
  rw [places]

theorem State.retireCore_onAdmission (blind : Admission.Blind f) (status : Status) (release : Option Nat) (abort : Option PlaceIx) :
    (s.onAdmission f).retireCore i status release abort = (s.retireCore i status release abort).onAdmission f := by
  unfold State.retireCore
  have entry : (s.onAdmission f).entry i = s.entry i := rfl
  dsimp only
  rw [entry, State.unlinkEntry_onAdmission]
  show (((((s.unlinkEntry i).setEntry i ((s.entry i).retired status)).onAdmission f).settleToken _ _ _).enqueue _ |>.makeSuspect
    _ _ _).finishAbort _ _ = _
  rw [State.settleToken_onAdmission]
  show ((((((s.unlinkEntry i).setEntry i ((s.entry i).retired status)).settleToken _ _ _).enqueue (.entry i)).onAdmission
    f).makeSuspect _ _ _).finishAbort _ _ = _
  rw [State.makeSuspect_onAdmission, State.finishAbort_onAdmission blind]

theorem State.countAtFence_onAdmission (blind : Admission.Blind f) (status : Status) (j : EntryIx) :
    State.countAtFence status i (s.onAdmission f) j = (State.countAtFence status i s j).onAdmission f := by
  unfold State.countAtFence
  show (if ((s.modEntry j fun e => e.countRetired i status).entry j).waitsFor.isEmpty then
    ((s.modEntry j fun e => e.countRetired i status).onAdmission f).retireCore j .ok none none else _) = _
  dsimp only
  rw [State.retireCore_onAdmission blind]
  split <;> rfl

theorem State.retireFor_onAdmission (blind : Admission.Blind f) (status : Status) (release : Option Nat) (abort : Option PlaceIx) :
    (s.onAdmission f).retireFor i status release abort = (s.retireFor i status release abort).onAdmission f := by
  have fences : ∀ (js : List EntryIx) (u : State), js.foldl (State.countAtFence status i) (u.onAdmission f)
      = (js.foldl (State.countAtFence status i) u).onAdmission f := fun js => by
    induction js with
    | nil => exact fun _ => rfl
    | cons j js ih =>
      intro u
      rw [List.foldl_cons, List.foldl_cons, State.countAtFence_onAdmission blind, ih]
  unfold State.retireFor
  rw [State.retireCore_onAdmission blind]
  show (if (s.entry i).state = .free ∨ (s.entry i).state = .retiring then _
    else ((s.retireCore i status release abort).fencesOn i).foldl (State.countAtFence status i) _) = _
  rw [fences]
  split <;> rfl

/-! ### A line that settles -/

theorem State.lineCascade_onAdmission (blind : Admission.Blind f) (status : Status) :
    (s.onAdmission f).lineCascade l status = (s.lineCascade l status).onAdmission f := by
  have all : ∀ (is : List EntryIx) (u : State), (u.onAdmission f).retireAll status true is
      = (u.retireAll status true is).onAdmission f := fun is => by
    induction is with
    | nil => exact fun _ => rfl
    | cons i is ih =>
      intro u
      have head : (u.onAdmission f).retireEntry i status ((u.onAdmission f).entry i).token
          = (u.retireEntry i status (u.entry i).token).onAdmission f := by
        unfold State.retireEntry
        rw [State.abortPlace_onAdmission blind, State.retireFor_onAdmission blind]
        rfl
      show ((u.onAdmission f).retireEntry i status ((u.onAdmission f).entry i).token).retireAll status true is = _
      rw [head, ih]
      rfl
  exact all _ s

theorem State.completeControl_onAdmission (status : Status) :
    (s.onAdmission f).completeControl l status = (s.completeControl l status).onAdmission f := by
  unfold State.completeControl
  show (match (s.line l).control with | .pending _ _ _ => _ | _ => _) = _
  cases (s.line l).control <;> rfl

theorem State.stopLine_onAdmission (blind : Admission.Blind f) : (s.onAdmission f).stopLine l = (s.stopLine l).onAdmission f := by
  unfold State.stopLine
  rw [State.lineCascade_onAdmission blind, State.completeControl_onAdmission]
  exact State.indicate_onAdmission (s := ((s.lineCascade l .lineStopped).completeControl l .ok).restLine l .stopped .none) _

/-- What a line does when its work has changed does not depend on the Admission Unit's rings and stage. -/
theorem State.settleLine_onAdmission (blind : Admission.Blind f) : (s.onAdmission f).settleLine l = (s.settleLine l).onAdmission f := by
  unfold State.settleLine
  rw [State.evaluate_onAdmission, State.stopLine_onAdmission blind]
  have work : (s.onAdmission f).workCount l = s.workCount l := rfl
  rw [work]
  show (match (s.line l).state with
    | .running => _
    | .draining => if (s.line l).inFlight then _ else if s.workCount l = 0 then _ else _
    | .stopping => if (s.line l).inFlight then _ else _
    | .stopped => _
    | .faulted => _) = _
  cases (s.line l).state with
  | running => rfl
  | draining => dsimp only; split <;> [rfl; split <;> rfl]
  | stopping => dsimp only; split <;> rfl
  | stopped => rfl
  | faulted => rfl

/-! ### A record that is applied while its line settles -/

/-- The Admission Unit when the record of the grant has been applied and has left its hold (R128, R129, R136). -/
def Admission.left (g : Grant) (a : Admission) : Admission :=
  let u := a.unit g.ring
  { a.setUnit g.ring u.leave with
    counter := a.counter + 1, stage := none, credit := creditApplied g a.credit
    asked := orderAsked g.ring u u.leave a.asked }

theorem Admission.left_blind (g : Grant) : Admission.Blind (Admission.left g) := fun a places => by
  unfold Admission.left
  cases g.ring <;> rfl

theorem State.applyAndLeave_onAdmission (s : State) (g : Grant) : s.applyAndLeave g = s.onAdmission (Admission.left g) := by
  unfold State.applyAndLeave State.leaveHold State.modRing State.onAdmission Admission.left
  cases g.ring <;> rfl

/-- A line may settle after the record has left its hold as well as before. -/
theorem State.settleLine_applyAndLeave (s : State) (l : Line) (g : Grant) :
    (s.settleLine l).applyAndLeave g = (s.applyAndLeave g).settleLine l := by
  rw [State.applyAndLeave_onAdmission, State.applyAndLeave_onAdmission, State.settleLine_onAdmission (Admission.left_blind g)]

end

end Sys2Proof.Machine

/-! LINE_CONTROL STOP, DRAIN and START (R33 to R36, R38, R142). -/

namespace Sys2Proof.Machine

section
variable {s v w : State} {g : Grant} {b : List Byte} {l : Line} {ln : LineEngine}

/-- The state differs from `s` in the immediate places and the retire queue alone. -/
structure State.OnlyPlaced (s w : State) : Prop where
  admission : w.admission = { s.admission with places := w.admission.places }
  posting : w.retire.posting = s.retire.posting
  host : s.SameHost w
  work : s.SameWork w
  ind : w.ind = s.ind

theorem State.OnlyPlaced.refl (s : State) : s.OnlyPlaced s :=
  ⟨rfl, rfl, State.SameHost.refl s, ⟨rfl, rfl, rfl, rfl⟩, rfl⟩

theorem State.placeImmediate_onlyPlaced (s : State) (p : PlaceIx) (c : Immediate) :
    s.OnlyPlaced (s.placeImmediate p c) :=
  ⟨rfl, rfl, State.placeImmediate_sameHost s p c, State.placeImmediate_sameWork s p c, rfl⟩

/-- A record that changes the state of its line, and is applied (R32, R34, R35). -/
theorem State.lineChange_wake (hat : s.AtApplication g b) (placed : s.OnlyPlaced w) (l : Line) (ln : LineEngine) :
    let t := (((w.setLine l ln).indicateLine l).applyAndLeave g).wake
    s.AppliedAndLeft t g ∧ t.line l = ln ∧ s.OneIndication t l (.lineState ln.state ln.faultCause)
      ∧ t.stations = s.stations ∧ s.SameOtherLines t l ∧ t.entries = s.entries ∧ t.store = s.store ∧ s.SameHost t
      ∧ t.admission.places = w.admission.places ∧ t.retire.queue = w.retire.queue := by
  obtain ⟨running, -, hold⟩ := hat
  obtain ⟨admission, posting, host, ⟨lines, stations, entries, store⟩, ind⟩ := placed
  have own : (w.setLine l ln).line l = ln := State.line_setLine_self _ _ _
  have given := State.indicate_ind_congr (s := s) (t := w.setLine l ln) ind host.time host.device host.indRing l
    (.lineState ln.state ln.faultCause)
  have indicated : (w.setLine l ln).indicateLine l = (w.setLine l ln).indicate l (.lineState ln.state ln.faultCause) := by
    unfold State.indicateLine
    rw [own]
  rw [indicated]
  generalize body : IndicationBody.lineState ln.state ln.faultCause = said at *
  have frame := State.indicate_eq (w.setLine l ln) l said
  generalize (w.setLine l ln).indicate l said = v at *
  have given' : s.SameHost v := by
    rw [frame]
    exact host.trans ⟨rfl, rfl, rfl, rfl, rfl, rfl, rfl, rfl, rfl⟩
  have host' := given'.trans (State.applyAndLeave_sameHost v g)
  have work := (State.applyAndLeave_sameWork v g).trans (State.wake_sameWork (v.applyAndLeave g))
  have lines' : ∀ m, (v.applyAndLeave g).wake.line m = (w.setLine l ln).line m := fun m => by
    rw [work.line m, frame]
    rfl
  refine ⟨State.applyAndLeave_wake_applied ?_ ?_ ?_ (by rw [hold]), (lines' l).trans own,
    State.oneIndication_wake given host', ?_, ⟨fun m other => ?_, fun m a _ => ?_⟩, ?_, ?_,
    host'.trans (State.wake_sameHost _), ?_, ?_⟩
  · rw [frame]
    exact (congrArg (·.state) host.device).trans running
  · rw [frame]
    exact admission
  · rw [frame]
    exact posting
  · rw [work.stations, frame]
    exact stations
  · rw [lines', State.line_setLine, if_neg other.symm, State.line, lines, State.line]
  · rw [work.station, frame]
    exact congrArg (fun t => (t.get m).get a) stations
  · rw [work.entries, frame]
    exact entries
  · rw [work.store, frame]
    exact store
  · rw [State.wake_places, State.applyAndLeave_places, frame]
    rfl
  · rw [State.wake_queue, State.applyAndLeave_retire, frame]
    rfl

/-- A LINE_CONTROL of a good shape that changes the state of its line, which then settles. -/
theorem State.then_of_lineChange {c : Instr} {did : State → Prop} (hat : s.AtApplication g b) (placed : s.OnlyPlaced w)
    (run : exec c s = .next (((w.setLine l ln).indicateLine l).settleLine l |>.applyAndLeave g).wake)
    (effect : did (((w.setLine l ln).indicateLine l).applyAndLeave g).wake) : s.Then c l did := by
  rw [State.settleLine_applyAndLeave] at run
  obtain ⟨-, -, -, -, -, -, -, host, -⟩ := State.lineChange_wake hat placed l ln
  have device := host.device
  rw [State.wake_device] at device
  exact State.then_of_exec run ((congrArg (·.state) device).trans hat.1) effect

/-- The line engine that DRAIN leaves (R35). -/
def LineEngine.drained (ln : LineEngine) (tag : Half) (ring : Ring) : LineEngine :=
  { ln with state := .draining, control := .pending .drain tag ring, reprobeDue := false }

/-- The line engine that STOP leaves (R34). -/
def LineEngine.stopped (ln : LineEngine) (tag : Half) (ring : Ring) : LineEngine :=
  { ln with
    state := .stopping, control := .pending .stop tag ring, beaconDue := false, reprobeDue := false
    beaconTimer := .stopped }

theorem State.enterDraining_eq (s : State) (l : Line) (tag : Half) (ring : Ring) :
    s.enterDraining l tag ring = ((s.setLine l ((s.line l).drained tag ring)).indicateLine l).settleLine l := rfl

theorem State.enterStopping_eq (s : State) (l : Line) (tag : Half) (ring : Ring) :
    s.enterStopping l tag ring = ((s.setLine l ((s.line l).stopped tag ring)).indicateLine l).settleLine l := rfl

end

/-- Settles O29: DRAIN by the state and the control place of its line. -/
theorem lineDrain : Obligations.LineDrain := by
  intro s g b hat hk hop line zero l
  have run := State.lineControl_of_atApplication State.takeDrain hat hk hop (by decide) line zero
  have exec_eq : exec .lineControlDrain s = .next (s.takeDrain g b l).wake := congrArg Host.Outcome.next run
  refine ⟨fun running empty => ?_, fun running held => ⟨_, exec_eq, ?_⟩, fun other place => ⟨_, exec_eq, ?_⟩⟩
  · have takes : s.takeDrain g b l = (s.enterDraining l (recTag b) g.ring).applyAndLeave g := by
      rw [State.takeDrain, if_pos running, if_pos empty]
    rw [takes, State.enterDraining_eq] at exec_eq
    obtain ⟨applied, own, indicated, stations, lines, entries, store, host, places, queue⟩ :=
      State.lineChange_wake hat (State.OnlyPlaced.refl s) l
        ((s.line l).drained (recTag b) g.ring)
    exact State.then_of_lineChange hat (State.OnlyPlaced.refl s) exec_eq
      ⟨applied, own, indicated, queue, stations, lines, entries, store, places, host⟩
  · have takes : s.takeDrain g b l = s.setAside g [.controlPlace l] := by
      rw [State.takeDrain, if_pos running, if_neg held]
    rw [takes]
    exact State.setAside_wake hat _
  · have takes : s.takeDrain g b l = s.completeNow g b fun t => (t, .wrongState, []) := if_neg other
    rw [takes]
    exact State.completeNow_only hat place _ _

/-- Settles O28: STOP by the state and the control place of its line. -/
theorem lineStop : Obligations.LineStop := by
  intro s g b hat hk hop line zero l stopping frame
  have run := State.lineControl_of_atApplication State.takeStop hat hk hop (by decide) line zero
  have exec_eq : exec .lineControlStop s = .next (s.takeStop g b l).wake := congrArg Host.Outcome.next run
  refine ⟨fun running empty => ?_, fun running held => ⟨_, exec_eq, ?_⟩, fun other place => ⟨_, exec_eq, ?_⟩,
    fun tag ring draining pending => ⟨fun place => ?_, fun full => ⟨_, exec_eq, ?_⟩⟩⟩
  · have takes : s.takeStop g b l = (s.enterStopping l (recTag b) g.ring).applyAndLeave g := by
      simp only [State.takeStop, running, empty, if_true]
    rw [takes, State.enterStopping_eq] at exec_eq
    obtain ⟨applied, own, indicated, stations, lines, entries, store, host, places, queue⟩ :=
      State.lineChange_wake hat (State.OnlyPlaced.refl s) l ((s.line l).stopped (recTag b) g.ring)
    exact State.then_of_lineChange hat (State.OnlyPlaced.refl s) exec_eq
      ⟨⟨applied, own, indicated, stations, lines, entries, store, host⟩, queue, places⟩
  · have takes : s.takeStop g b l = s.setAside g [.controlPlace l] := by
      simp only [State.takeStop, running, if_neg held]
    rw [takes]
    exact State.setAside_wake hat _
  · have takes : s.takeStop g b l = s.completeNow g b fun t => (t, .wrongState, []) := by
      rcases other with state | state | state <;> simp only [State.takeStop, state]
    rw [takes]
    exact State.completeNow_only hat place _ _
  · obtain ⟨p, found, free⟩ := place.freePlace
    have takes : s.takeStop g b l = ((s.placeImmediate p (supersededDrain tag ring)).enterStopping l (recTag b)
        g.ring).applyAndLeave g := by
      simp only [State.takeStop, State.stopDraining, draining, pending, found]
    have own : (s.placeImmediate p (supersededDrain tag ring)).line l = s.line l := rfl
    rw [takes, State.enterStopping_eq, own] at exec_eq
    have placed := s.placeImmediate_onlyPlaced p (supersededDrain tag ring)
    obtain ⟨applied, own, indicated, stations, lines, entries, store, host, places, queue⟩ :=
      State.lineChange_wake hat placed l ((s.line l).stopped (recTag b) g.ring)
    exact ⟨p, free, State.then_of_lineChange hat placed exec_eq
      ⟨⟨applied, own, indicated, stations, lines, entries, store, host⟩, places, queue⟩⟩
  · have takes : s.takeStop g b l = s.setAside g [.immediatePlace] := by
      simp only [State.takeStop, State.stopDraining, draining, pending, State.freePlace_of_not_hasPlace full]
    rw [takes]
    exact State.setAside_wake hat _

end Sys2Proof.Machine

/-! LINE_CONTROL START (R33, R51, R73). -/

namespace Sys2Proof.Machine

section
variable {s u : State} {g : Grant} {b : List Byte} {l : Line}

/-! ### A completion and an evaluation of the arbiter -/

theorem State.placeImmediate_evaluate (u : State) (l : Line) (p : PlaceIx) (c : Immediate) :
    (u.evaluate l).placeImmediate p c = (u.placeImmediate p c).evaluate l := by
  obtain ⟨admission, retire⟩ := u.evaluate_units l
  have time := (Keeps.evaluate l u).time
  have placed : ∀ v : State, v.admission = u.admission → v.retire = u.retire → v.time = u.time →
      v.placeImmediate p c
        = v.withUnits (u.placeImmediate p c).admission (u.placeImmediate p c).retire := fun v a r t => by
    unfold State.placeImmediate State.enqueue State.setPlace State.withUnits
    rw [a, r, t]
  rw [placed _ admission retire time, ← State.evaluate_withUnits]
  exact congrArg (State.evaluate · l) (placed u rfl rfl rfl).symm

theorem State.settleLine_running (running : (u.line l).state = .running) : u.settleLine l = u.evaluate l := by
  unfold State.settleLine
  rw [running]

/-- A record that completes at once, at a line that is RUNNING when it settles. -/
theorem State.completeNow_settles {f : State → State × Status × List Byte} {status : Status} {result : List Byte}
    {p : PlaceIx} (place : s.freePlace = some p) (running : (u.line l).state = .running)
    (effect : f s = (u.settleLine l, status, result)) :
    s.completeNow g b f = (s.completeNow g b fun _ => (u, status, result)).settleLine l := by
  have running' : ((u.placeImmediate p (immediateOf g.ring b status result none)).line l).state = .running := running
  rw [State.completeNow_of_freePlace g b f place, State.completeNow_of_freePlace g b _ place, effect]
  dsimp only
  rw [State.settleLine_running running, State.placeImmediate_evaluate, ← State.settleLine_running running',
    State.settleLine_applyAndLeave]

/-! ### START -/

/-- The line has started, and its state is indicated; the arbiter has not been evaluated yet (R33). -/
def State.startedLine (s : State) (l : Line) : State :=
  ((s.modLine l LineEngine.started).mapStations l
    (StationRecord.started (s.line l).params.releaseLinger)).indicateLine l

theorem State.startedLine_line (s : State) (l m : Line) :
    (s.startedLine l).line m = if l = m then (s.line l).started else s.line m := by
  unfold State.startedLine State.indicateLine
  rw [State.indicate_line]
  exact State.line_modLine s l m LineEngine.started

theorem State.startedLine_station (s : State) (l m : Line) (a : Station) :
    (s.startedLine l).station m a
      = if l = m then (s.station m a).started (s.line l).params.releaseLinger else s.station m a := by
  unfold State.startedLine State.indicateLine
  rw [State.indicate_station, State.station_mapStations]
  rfl

theorem State.startedLine_frame (s : State) (l : Line) :
    s.SameHost (s.startedLine l) ∧ (s.startedLine l).admission = s.admission ∧ (s.startedLine l).retire = s.retire
      ∧ (s.startedLine l).entries = s.entries ∧ (s.startedLine l).store = s.store
      ∧ (s.startedLine l).ind = (s.indicate l (.lineState .running .none)).ind := by
  have started : ((s.modLine l LineEngine.started).mapStations l
      (StationRecord.started (s.line l).params.releaseLinger)).line l = (s.line l).started := State.line_modLine_self _ _ _
  have same : s.startedLine l = ((s.modLine l LineEngine.started).mapStations l
      (StationRecord.started (s.line l).params.releaseLinger)).indicate l (.lineState .running .none) := by
    unfold State.startedLine State.indicateLine
    rw [started]
    rfl
  rw [same]
  refine ⟨?_, by simp, by simp, by simp, by simp, State.indicate_ind_congr (s := s)
    (t := (s.modLine l LineEngine.started).mapStations l (StationRecord.started (s.line l).params.releaseLinger))
    rfl rfl rfl rfl l _⟩
  constructor <;> simp

theorem LineEngine.started_eq (ln : LineEngine) :
    ln.started = { ln with
      state := .running, faultCause := .none, phase := .idle, receiver := .hunt, echoFaults := 0, credit := 0
      beaconNumber := 0, markCount := 0
      beaconTimer := if ln.params.beaconPeriod = 0 then .stopped else .running (1000 * ln.params.beaconPeriod)
      probeTimer := Timer.start (1000 * ln.params.probeInterval) } := by
  unfold LineEngine.started
  by_cases none : ln.params.beaconPeriod = 0
  · rw [if_pos none, if_pos none]
    rfl
  · rw [if_neg none, if_neg none, ms, Timer.start, if_neg (by omega)]
    rfl

theorem StationRecord.started_eq (r : StationRecord) (linger : Nat) :
    r.started linger = if r.release = [] then r else { r with linger := Timer.start (1000 * linger) } := by
  unfold StationRecord.started
  cases release : r.release <;> rfl

end

/-- Settles O27: START by the state of its line. -/
theorem lineStart : Obligations.LineStart := by
  intro s g b hat hk hop line zero hp l p
  have run := State.lineControl_of_atApplication (fun s g b l => s.completeNow g b fun t => t.startLine l) hat hk hop
    (by decide) line zero
  have exec_eq : exec .lineControlStart s = .next (s.completeNow g b fun t => t.startLine l).wake :=
    congrArg Host.Outcome.next run
  refine ⟨fun resting => ?_, fun active => ⟨_, exec_eq, ?_⟩⟩
  · have starts : s.startLine l = ((s.startedLine l).settleLine l, .ok, []) := by
      refine if_neg ?_
      rcases resting with e | e <;> rw [e] <;> decide
    obtain ⟨place, found, -⟩ := hp.freePlace
    have own : (s.startedLine l).line l = (s.line l).started := (s.startedLine_line l l).trans (if_pos rfl)
    rw [State.completeNow_settles found (by rw [own]; rfl) starts] at exec_eq
    obtain ⟨host, admission, retire, entries, store, ind⟩ := s.startedLine_frame l
    obtain ⟨completed, hostAll, work, indication⟩ := State.completeNow_wake_effect
      (f := fun _ => (s.startedLine l, .ok, [])) hat hp host admission retire
    have device := hostAll.device
    rw [State.wake_device] at device
    refine State.then_of_exec exec_eq ((congrArg (·.state) device).trans hat.1) ⟨completed, ?_, fun a => ?_,
      ⟨fun m other => ?_, fun m a other => ?_⟩, work.entries.trans entries, work.store.trans store, hostAll, ?_⟩
    · rw [work.line l, own, LineEngine.started_eq]
    · rw [work.station l a, State.startedLine_station, if_pos rfl, StationRecord.started_eq]
    · rw [work.line m, State.startedLine_line, if_neg other.symm]
    · rw [work.station m a, State.startedLine_station, if_neg other.symm]
    · exact indication.trans (State.beginIndication_congr ind (by rw [State.indicate_device]; exact host.device)
        (by rw [State.indicate_indRing]; exact host.indRing))
  · have refused : s.startLine l = (s, .wrongState, []) := by
      refine if_pos ?_
      rcases active with e | e | e <;> rw [e] <;> decide
    exact State.completeNow_same hat hp refused

end Sys2Proof.Machine

/-! An ABORT that retires its target (R89, R95, R96, R109). -/

namespace Sys2Proof.Machine

section
variable {s v : State} {g : Grant} {b : List Byte} {i : EntryIx} {p : PlaceIx} {a : Admission}
  {f : Admission → Admission} {status : Status} {release : Option Nat}

/-! ### The ABORT's place is fixed when its target has retired -/

/-- A retirement that fixes no ABORT reads and changes nothing of the Admission Unit (R89). -/
theorem State.retireCore_onAdmission_none :
    (s.onAdmission f).retireCore i status release none = (s.retireCore i status release none).onAdmission f := by
  unfold State.retireCore
  have entry : (s.onAdmission f).entry i = s.entry i := rfl
  dsimp only
  rw [entry, State.unlinkEntry_onAdmission]
  show (((((s.unlinkEntry i).setEntry i ((s.entry i).retired status)).onAdmission f).settleToken _ _ _).enqueue _
    |>.makeSuspect _ _ _).finishAbort _ _ = _
  rw [State.settleToken_onAdmission]
  show ((((((s.unlinkEntry i).setEntry i ((s.entry i).retired status)).settleToken _ _ _).enqueue (.entry i)).onAdmission
    f).makeSuspect _ _ _).finishAbort _ _ = _
  rw [State.makeSuspect_onAdmission]
  rfl

theorem State.retireCore_admission : (s.retireCore i status release none).admission = s.admission := by
  have same : s.retireCore i status release none
      = (s.retireCore i status release none).onAdmission fun _ => s.admission :=
    State.retireCore_onAdmission_none (s := s) (f := fun _ => s.admission)
  exact congrArg (·.admission) same

/-- An ABORT's completion that waits for the target joins the queue behind it, OK (R95, R96). -/
theorem State.retireCore_abortWaits (g : Grant) (b : List Byte) (p : PlaceIx) :
    (s.abortWaits g b p i).retireCore i .aborted release (some p)
      = (s.retireCore i .aborted release none).placeImmediate p (immediateOf g.ring b .ok [] none) := by
  have waits : s.abortWaits g b p i = s.onAdmission fun a =>
      { a with places := a.places.set p (some (immediateOf g.ring b .ok [] (some i))) } := rfl
  have finish : (s.abortWaits g b p i).retireCore i .aborted release (some p)
      = ((s.abortWaits g b p i).retireCore i .aborted release none).finishAbort (some p) .aborted := rfl
  rw [finish, waits, State.retireCore_onAdmission_none]
  generalize s.retireCore i .aborted release none = v
  unfold State.finishAbort State.onAdmission
  dsimp only
  rw [Table.get_set_self]
  unfold State.placeImmediate State.setPlace
  dsimp only
  rw [Table.set_set]
  rfl

/-- Without a FENCE that waits for it the retirement of an entry is its core (R89, R98). -/
theorem State.retireFor_eq_core (free : (s.entry i).state ≠ .free) (retiring : (s.entry i).state ≠ .retiring)
    (noFence : s.NoFenceOn i) (abort : Option PlaceIx) :
    s.retireFor i status release abort = s.retireCore i status release abort := by
  have core := s.retireCore_retires i status release abort
  have none : (s.retireCore i status release abort).fencesOn i = [] := List.eq_nil_iff_forall_not_mem.2 fun j mem => by
    obtain ⟨wait, member⟩ := State.mem_fencesOn.1 mem
    by_cases same : j = i
    · rw [same, core.entry] at wait
      cases wait
    · rw [core.entries j same] at wait member
      exact noFence j wait member
  unfold State.retireFor
  rw [if_neg fun k => k.elim free retiring]
  dsimp only
  rw [none]
  rfl

/-! ### A completion behind a retirement, between two wakes -/

/-- A record that completes at once, between the wake of the state it meets and the wake after it. -/
theorem State.placeImmediate_wake_only (running : v.device.state = .running)
    (hold : (v.ringUnit g.ring).hold = { state := .ready, bytes := b, readFailed := false })
    (free : v.admission.places.get p = none) (status : Status) (result : List Byte) :
    v.wake.OnlyCompleted
      (((v.placeImmediate p (immediateOf g.ring b status result none)).applyAndLeave g).wake) g b status result := by
  have base : v.AppliedAndLeft (((v.placeImmediate p (immediateOf g.ring b status result none)).applyAndLeave g).wake) g :=
    State.applyAndLeave_wake_applied running rfl rfl (by rw [hold])
  have placedHost := State.placeImmediate_sameHost v p (immediateOf g.ring b status result none)
  have placedWork := State.placeImmediate_sameWork v p (immediateOf g.ring b status result none)
  have placedQueue : (v.placeImmediate p (immediateOf g.ring b status result none)).retire
      = { v.retire with queue := v.retire.queue ++ [{ item := .immediate p, stamp := v.time.now }] } := rfl
  have placed : (v.placeImmediate p (immediateOf g.ring b status result none)).admission.places
      = v.admission.places.set p (some (immediateOf g.ring b status result none)) := rfl
  have ind : (v.placeImmediate p (immediateOf g.ring b status result none)).ind = v.ind := rfl
  generalize v.placeImmediate p (immediateOf g.ring b status result none) = w at *
  have host := placedHost.trans (State.applyAndLeave_sameHost w g)
  have work := placedWork.trans (State.applyAndLeave_sameWork w g)
  have retire : (w.applyAndLeave g).retire = w.retire := State.applyAndLeave_retire w g
  have posting : v.wake.PostingAfter (w.applyAndLeave g).wake := State.wakes_posting running host.device host.cplRing
    (by rw [retire, placedQueue]) (by rw [retire, placedQueue]; exact List.prefix_append _ _)
    fun j => by rw [State.entry, work.entries]; rfl
  obtain ⟨counter, credit, stage, -, unit, other, asked⟩ := base
  have asks : v.wake.leaveAsks g.ring = v.leaveAsks g.ring := by
    unfold State.leaveAsks
    rw [State.wake_ringUnit]
  refine ⟨⟨⟨by rw [counter, State.wake_counter], by rw [credit, State.wake_credit], stage, posting,
    by rw [unit, State.wake_ringUnit], by rw [other, State.wake_ringUnit], by rw [asked, State.wake_asked, asks]⟩,
    p, by rw [State.wake_places]; exact free, ?_, ?_⟩, ?_, ?_, State.wake_noIndication_wake ?_ host⟩
  · rw [State.wake_places, State.applyAndLeave_places, placed, State.wake_places]
    rfl
  · rw [State.wake_queue, retire, placedQueue, State.wake_queue, State.wake_time]
  · obtain ⟨pending, resetInput, device, time, cplRing, indRing, notify, busWrites, freeSeq⟩ := host
    constructor <;> simpa
  · obtain ⟨lines, stations, entries, store⟩ := work
    constructor <;> simpa
  · rw [← ind]
    rfl

/-- An ABORT that meets a target which it may retire at once (R95). -/
theorem exec_abort_now (hat : s.AtApplication g b) (hk : recKind b = 2) (hp : s.HasPlace)
    (ring : recTargetRingNumber b ≤ 1) (zero : zeroFieldsOk b = true) (tags : s.TagsOk)
    (sameRing : (s.entry i).ring = recTargetRing b) (sameTag : (s.entry i).tag = recTargetTag b)
    (noFence : s.NoFenceOn i)
    (waiting : (s.entry i).state = .queued ∨ (s.entry i).state = .retryWait ∨ (s.entry i).state = .deferred
      ∨ (s.entry i).state = .fenceWait) :
    ∃ p, s.admission.places.get p = none ∧ exec .abort s
      = .next (((((s.retireCore i .aborted (s.entry i).token none).placeImmediate p
          (immediateOf g.ring b .ok [] none)).applyAndLeave g).settleLine (s.entry i).line).wake) := by
  obtain ⟨p, found, free⟩ := hp.freePlace
  have states : (s.entry i).state ≠ .free ∧ (s.entry i).state ≠ .retiring ∧ (s.entry i).state ≠ .loading := by
    rcases waiting with e | e | e | e <;> rw [e] <;> exact ⟨by decide, by decide, by decide⟩
  obtain ⟨occupied, retiring, loading⟩ := states
  have meets : s.abortTarget g b p i = s.abortNow g b p i := by
    rcases waiting with e | e | e | e <;> simp only [State.abortTarget, e]
  have now : s.abortNow g b p i
      = (((s.abortWaits g b p i).retireFor i .aborted (s.entry i).token (some p)).settleLine
          (s.entry i).line).applyAndLeave g := rfl
  have core : (s.abortWaits g b p i).retireFor i .aborted (s.entry i).token (some p)
      = (s.retireCore i .aborted (s.entry i).token none).placeImmediate p (immediateOf g.ring b .ok [] none) :=
    (State.retireFor_eq_core (s := s.abortWaits g b p i) occupied retiring noFence _).trans
      (State.retireCore_abortWaits g b p)
  refine ⟨p, free, (exec_abort_of_atApplication hat hk).trans
    (congrArg (fun u : State => Host.Outcome.next u.wake) ?_)⟩
  rw [State.applyAbort_of_target ((shapeOk_abort_iff hk).2 ⟨ring, zero⟩)
    (State.findTag_of_tagsOk tags occupied sameRing sameTag) loading found, meets, now, core,
    State.settleLine_applyAndLeave]

end

/-- Settles O25: the target retires, and the ABORT's completion stands directly behind it. -/
theorem abortRetires : Obligations.AbortRetires := by
  intro s g b i hat hk hp ring zero tags sameRing sameTag noFence
  have run := fun waiting => exec_abort_now hat hk hp ring zero tags sameRing sameTag noFence waiting
  refine ⟨fun a station waiting => ?_, fun station waiting => ?_⟩
  · obtain ⟨p, free, run⟩ := run (waiting.imp id (Or.imp id Or.inl))
    have retires : s.Retires (s.retireCore i .aborted (s.entry i).token none) i .aborted (s.entry i).token none := by
      have occupied : (s.entry i).state ≠ .free := by rcases waiting with e | e | e <;> rw [e] <;> decide
      have retiring : (s.entry i).state ≠ .retiring := by rcases waiting with e | e | e <;> rw [e] <;> decide
      rw [← State.retireFor_eq_core occupied retiring noFence]
      exact State.retireFor_retires occupied retiring _ _ _
    have frame := retires.frame
    have running := (congrArg (·.state) frame.host.device).trans hat.1
    refine ⟨_, retires.entryRetired hat.1 station noFence, State.then_of_exec run running
      (State.placeImmediate_wake_only running ?_ ?_ _ _)⟩
    · rw [frame.unit]
      exact hat.2.2
    · rw [State.retireCore_admission]
      exact free
  · obtain ⟨p, free, run⟩ := run (.inr (.inr (.inr waiting)))
    rw [State.retireCore_of_noStation station] at run
    have same : s.SameHost (((s.setEntry i ((s.entry i).retired .aborted)).enqueue (.entry i)).placeImmediate p
        (immediateOf g.ring b .ok [] none)) := ⟨rfl, rfl, rfl, rfl, rfl, rfl, rfl, rfl, rfl⟩
    have admission : (((s.setEntry i ((s.entry i).retired .aborted)).enqueue (.entry i)).placeImmediate p
        (immediateOf g.ring b .ok [] none)).admission = { s.admission with
          places := s.admission.places.set p (some (immediateOf g.ring b .ok [] none)) } := rfl
    have queue : (((s.setEntry i ((s.entry i).retired .aborted)).enqueue (.entry i)).placeImmediate p
        (immediateOf g.ring b .ok [] none)).retire = { s.retire with
          queue := s.retire.queue ++ [{ item := .entry i, stamp := s.time.now }]
            ++ [{ item := .immediate p, stamp := s.time.now }] } := rfl
    have work : (s.setEntry i ((s.entry i).retired .aborted)).SameWork (((s.setEntry i
        ((s.entry i).retired .aborted)).enqueue (.entry i)).placeImmediate p (immediateOf g.ring b .ok [] none)) :=
      ⟨rfl, rfl, rfl, rfl⟩
    have ind : (((s.setEntry i ((s.entry i).retired .aborted)).enqueue (.entry i)).placeImmediate p
        (immediateOf g.ring b .ok [] none)).ind = s.ind := rfl
    generalize ((s.setEntry i ((s.entry i).retired .aborted)).enqueue (.entry i)).placeImmediate p
      (immediateOf g.ring b .ok [] none) = v at *
    have host := same.trans (State.applyAndLeave_sameHost v g)
    have running : v.device.state = .running := (congrArg (·.state) same.device).trans hat.1
    have applied := work.trans ((State.applyAndLeave_sameWork v g).trans (State.wake_sameWork _))
    have entry : ∀ j, (v.applyAndLeave g).wake.entry j = (s.setEntry i ((s.entry i).retired .aborted)).entry j :=
      fun j => congrArg (fun t => Table.get t j) applied.entries
    refine State.then_of_exec run running ⟨State.applyAndLeave_wake_applied running (by rw [admission])
      (by rw [queue]) (by rw [hat.2.2]), (entry i).trans (State.entry_setEntry_self _ _ _),
      fun j other => (entry j).trans ((State.entry_setEntry _ _ _ _).trans (if_neg other.symm)), ⟨p, free, ?_, ?_⟩,
      applied.lines, applied.stations, applied.store, host.trans (State.wake_sameHost _),
      State.noIndication_wake ind host⟩
    · rw [State.wake_places, State.applyAndLeave_places, admission]
      rfl
    · rw [State.wake_queue, State.applyAndLeave_retire, queue]
      exact List.append_assoc _ _ _

end Sys2Proof.Machine

/-! Endings that are neither an answer nor a failure (R46, R88, R112): the jabber timer cuts an exchange, and faults its
line (R27, R37, R49). -/

namespace Sys2Proof.Machine

section
variable {s x v : State} {l : Line} {ex : Exchange} {c : Instr} {i : EntryIx} {ln : LineEngine} {r : StationRecord}
  {a : Station} {ending : Ending} {cause : FaultCause} {kind : MasterKind} {fate : Fate} {e : Entry} {status : Status}
  {release : Option Nat} {abort : Option (PlaceIx × Immediate)} {did : State → Prop}

/-- A command whose effect `v` on the work a fault of the line follows. -/
theorem State.thenFaults_of_exec (run : exec c s = .next (v.faultRest l cause).wake)
    (running : v.device.state = .running) (effect : did v.wake) : s.ThenFaults c l cause did :=
  ⟨v.wake, (v.faultRest l cause).wake, run, effect, State.faultRest_wake running l cause⟩

/-! ### An ending that no station record counts -/

/-- The ending is neither an answer, nor a failure of the station, nor SENT. -/
structure Ending.Quiet (ending : Ending) : Prop where
  notAnswer : ending.isAnswer = false
  notFailure : ending.isFailure = false
  notSent : ending ≠ .sent

theorem Ending.quiet_cut : Ending.cut.Quiet := ⟨rfl, rfl, fun k => by cases k⟩

theorem Ending.quiet_echoFault (full : Bool) : (Ending.echoFault full).Quiet := ⟨rfl, rfl, fun k => by cases k⟩

theorem Ending.Quiet.noReply (h : ending.Quiet) : ending.replyPayload = none := by
  cases ending with
  | answer a attention => cases h.notAnswer
  | _ => rfl

/-- Such an ending reaches the owner alone. -/
theorem State.deliver_quiet (quiet : ending.Quiet) : s.deliver l ex ending = s.ownerTakes ex ending := by
  obtain ⟨notAnswer, notFailure, notSent⟩ := quiet
  have station : s.stationEnding l ex ending = s.ownerTakes ex ending := by
    have kept : ∀ threshold, (s.station l ex.station).takeFailures threshold ending = s.station l ex.station :=
      fun threshold => by
        unfold StationRecord.takeFailures
        rw [if_neg (by rw [notAnswer]; exact Bool.false_ne_true), if_neg (by simp [notFailure])]
    rw [State.stationEnding_other notAnswer, State.modStation_of_same (kept _)]
    exact if_neg fun k => k.2 k.1
  unfold State.deliver State.ownerTakes
  cases owner : ex.owner with
  | beacon => exact if_neg notSent
  | entry i =>
    dsimp only
    rw [station, State.ownerTakes_entry owner, ite_self]
  | station =>
    dsimp only
    rw [station, State.ownerTakes_station owner, ite_self]

/-! ### What the owner makes of such an ending -/

/-- The owner's entry as the ending leaves it, and its fate: undecided it goes on, else it retires. -/
structure State.Takes (s x v : State) (l : Line) (a : Station) (ln : LineEngine) (r : StationRecord) (i : EntryIx)
    (e waiting : Entry) (release : Option Nat) : Prop where
  goesOn : e.abortPending = false → e.deadlinePassed = false → s.StandsOn x v l a ln r i waiting
  retires : ∀ status abort, s.Decided i status abort → s.NoFenceOn i → a ≠ broadcastStation → e.line = l →
    e.station = some a → x.ind = s.ind → ln.state.isActive = true →
    s.StandsRetired v l a ln r i e status release abort x.store

theorem State.Stands.takes_poll (h : s.Stands x l a ln r i (s.entry i)) (exchange : (s.entry i).state = .exchange)
    (quiet : ending.Quiet) (after : (s.entry i).afterPoll ending = e)
    (fate : e.pollFate ending = if e.abortPending = true then .retire .aborted none
      else if e.deadlinePassed = true then .retire .deadline none else .requeue)
    (flags : e.abortPending = (s.entry i).abortPending ∧ e.deadlinePassed = (s.entry i).deadlinePassed) :
    s.Takes x (x.entryEnding i .poll ending) l a ln r i e { e with state := .queued } none := by
  have took : x.entryEnding i .poll ending = (x.setEntry i e).takeFate i (e.pollFate ending) := by
    rw [State.entryEnding_poll h.entry exchange (by decide) quiet.noReply, after]
  obtain ⟨state, line, station⟩ := (s.entry i).afterPoll_frame ending
  rw [after] at state
  rw [took, fate]
  refine ⟨fun noAbort noDeadline => ?_, fun status abort ⟨on, decided⟩ noFence real line station ind active => ?_⟩
  · rw [ite_undecided noAbort noDeadline]
    exact (h.setEntry e).requeue
  · have by_ : e.DecidedBy status := by
      unfold Entry.DecidedBy
      rw [flags.1, flags.2]
      exact decided
    rw [ite_retire by_]
    exact (h.setEntry e).retired active ind real line station (by rw [state, exchange]; decide)
      (by rw [state, exchange]; decide) noFence (by rw [state, exchange]; decide) on status none

theorem State.Stands.takes_collect (h : s.Stands x l a ln r i (s.entry i)) (exchange : (s.entry i).state = .exchange)
    (quiet : ending.Quiet) (after : (s.entry i).afterCollect ending = e)
    (fate : ∀ limit, e.collectFate limit ending = if e.abortPending = true then .retire .aborted e.token
      else if e.deadlinePassed = true then .retire .deadline e.token else .dueCollect)
    (flags : e.abortPending = (s.entry i).abortPending ∧ e.deadlinePassed = (s.entry i).deadlinePassed) :
    s.Takes x (x.entryEnding i .collect ending) l a ln r i e
      { e with state := .deferred, phaseTimer := .stopped, dueTime := some s.time.increment } e.token := by
  have took : x.entryEnding i .collect ending
      = (x.setEntry i e).takeFate i (e.collectFate (x.line (s.entry i).line).params.collectLimit ending) := by
    rw [State.entryEnding_collect h.entry exchange quiet.noReply, after]
  obtain ⟨state, line, station⟩ := (s.entry i).afterCollect_frame ending
  rw [after] at state
  rw [took, fate]
  refine ⟨fun noAbort noDeadline => ?_, fun status abort ⟨on, decided⟩ noFence real line station ind active => ?_⟩
  · rw [ite_undecided noAbort noDeadline]
    exact (h.setEntry e).dueCollect
  · have by_ : e.DecidedBy status := by
      unfold Entry.DecidedBy
      rw [flags.1, flags.2]
      exact decided
    rw [ite_retire by_]
    exact (h.setEntry e).retired active ind real line station (by rw [state, exchange]; decide)
      (by rw [state, exchange]; decide) noFence (by rw [state, exchange]; decide) on status e.token

/-! ### The jabber timer (R27, R49) -/

/-- The expiry counts one error, the exchange in flight ends CUT, and the line faults. -/
theorem exec_jabber (running : s.device.state = .running) (expired : (s.line l).jabberTimer = .expired) :
    exec (.jabberExpiry l) s = .next ((((s.setLine l
      { s.line l with errors := saturate16 (s.line l).errors }).cutExchange l).faultRest l .jabber).wake) := by
  show Host.Outcome.next (s.onExpiry (s.line l).jabberTimer _) = _
  rw [State.onExpiry_of_expired running expired]
  rfl

theorem State.cutExchange_idle (h : (s.line l).inFlight = false) : s.cutExchange l = s := by
  unfold State.cutExchange
  cases (s.line l).current with
  | none => rfl
  | some ex => exact if_neg (by rw [h]; exact Bool.false_ne_true)

theorem State.cutExchange_flying (h : (s.line l).inFlight = true) (current : (s.line l).current = some ex) :
    s.cutExchange l = s.ownerTakes ex .cut := by
  unfold State.cutExchange
  rw [current]
  exact (if_pos h).trans (State.deliver_quiet Ending.quiet_cut)

theorem State.ownerTakes_none (owner : ex.owner = .station ∨ ex.owner = .beacon) : s.ownerTakes ex ending = s := by
  unfold State.ownerTakes
  rcases owner with owner | owner <;> rw [owner]

/-- An exchange that no entry owns leaves nothing to cut. -/
theorem State.cutExchange_unowned (h : (s.line l).inFlight = false
      ∨ (∃ ex, (s.line l).current = some ex ∧ (ex.owner = .station ∨ ex.owner = .beacon))) : s.cutExchange l = s := by
  rcases h with idle | ⟨ex, current, owner⟩
  · exact State.cutExchange_idle idle
  · cases flying : (s.line l).inFlight with
    | false => exact State.cutExchange_idle flying
    | true => rw [State.cutExchange_flying flying current, State.ownerTakes_none owner]

end

/-- Settles O52: the length, by the rate codes; the fault, by what the exchange in flight is. -/
theorem jabberFaults : Obligations.JabberFaults := by
  refine ⟨by decide, fun s l running active expired errors => ?_⟩
  intro counted faults
  have run := exec_jabber running expired
  rw [saturate16_eq errors] at run
  have own : (s.setLine l counted).line l = counted := State.line_setLine_self _ _ _
  refine ⟨fun unowned => ?_, fun ex i flying current owner real exchange line station => ?_⟩
  · rw [State.cutExchange_unowned (by rw [own]; exact unowned)] at run
    exact State.thenFaults_of_exec run running (State.setLine_onlyLine_wake running l counted)
  · intro e r cut
    rw [State.cutExchange_flying (by rw [own]; exact flying) (by rw [own]; exact current),
      State.ownerTakes_entry owner] at run
    have stands : s.Stands (s.setLine l counted) l ex.station counted r i (s.entry i) :=
      (State.Stands.refl s l ex.station i).modLine fun _ => counted
    have concludes : ∀ e' waiting release, e'.abortPending = e.abortPending → e'.deadlinePassed = e.deadlinePassed →
        e'.line = l → e'.station = some ex.station →
        s.Takes (s.setLine l counted) ((s.setLine l counted).entryEnding i ex.kind .cut) l ex.station counted r i e'
          waiting release → cut e' waiting release := fun e' waiting release abort_ deadline line station takes => by
      refine ⟨fun noAbort noDeadline => ?_, fun status abort decided noFence => ?_⟩
      · obtain ⟨waits, store, ind⟩ := takes.goesOn (abort_.trans noAbort) (deadline.trans noDeadline)
        exact State.thenFaults_of_exec run ((congrArg (·.state) waits.host.device).trans running)
          (waits.goesOn running store ind)
      · have retired := takes.retires status abort decided noFence real line station rfl active.isActive
        exact State.thenFaults_of_exec run ((congrArg (·.state) retired.host.device).trans running)
          (retired.retiresAfter running)
    refine ⟨fun poll => ?_, fun collect => ?_⟩
    · intro tried
      refine concludes tried _ none rfl rfl line station ?_
      rw [poll]
      exact stands.takes_poll exchange Ending.quiet_cut rfl rfl ⟨rfl, rfl⟩
    · intro tried
      refine concludes tried _ e.token rfl rfl line station ?_
      rw [collect]
      exact stands.takes_collect exchange Ending.quiet_cut rfl (fun _ => rfl) ⟨rfl, rfl⟩

end Sys2Proof.Machine

/-! The echo check (R1, R43, R48, R88), and the line cascade behind a fault or a STOP (R36, R37, R100). -/

namespace Sys2Proof.Machine

section
variable {s x v : State} {l : Line} {ex : Exchange} {c : Instr} {i : EntryIx} {ln : LineEngine} {cause : FaultCause}
  {heard : Heard} {did : State → Prop}

/-! ### The echo check fails -/

/-- What the part heard left the wire at space (R1). -/
def leavesSpace : Heard → Bool
  | .char c => c.framingError
  | .nothing => false

/-- The character whose echo is checked is the last of the frame (R43). -/
def Exchange.frameOut (ex : Exchange) : Bool := decide (ex.chars.length ≤ ex.echoed + 1)

/-- The line engine when its echo check has failed, before the exchange ends (R43). -/
def LineEngine.misheard (ln : LineEngine) (heard : Heard) : LineEngine :=
  { ln with
    receiver := .hunt, jabberTimer := .stopped, atSpace := ln.atSpace || leavesSpace heard
    errors := saturate16 ln.errors }

theorem LineEngine.hears_fails {ln : LineEngine} (sent : Byte)
    (fails : ln.atSpace = true ∨ (∀ c, heard = .char c → c.data ≠ sent ∨ c.framingError = true)) :
    echoPasses sent (ln.hears heard) = false := by
  unfold LineEngine.hears
  rcases fails with space | differs
  · rw [if_pos space]
    rfl
  · split
    · rfl
    · cases heard with
      | nothing => rfl
      | char c =>
        rcases differs c rfl with data | framing
        · simp [echoPasses, data]
        · simp [echoPasses, framing]

theorem State.noteHeard_eq (s : State) (l : Line) (heard : Heard) :
    s.noteHeard l ((s.line l).hears heard)
      = s.setLine l { s.line l with atSpace := (s.line l).atSpace || leavesSpace heard } := by
  have same : ∀ ln : LineEngine, ln = s.line l → s.setLine l ln = s := fun ln e => by
    rw [e]
    show ({ s with lines := _ } : State) = s
    rw [State.line, Table.set_get_self]
  unfold LineEngine.hears
  split
  · next space =>
    have unchanged : { s.line l with atSpace := (s.line l).atSpace || leavesSpace heard } = s.line l := by
      rw [space, Bool.true_or, ← space]
    exact (same _ unchanged).symm
  · cases heard with
    | nothing =>
      have unchanged : { s.line l with atSpace := (s.line l).atSpace || leavesSpace Heard.nothing } = s.line l := by
        show { s.line l with atSpace := (s.line l).atSpace || false } = s.line l
        rw [Bool.or_false]
      exact (same _ unchanged).symm
    | char c => rfl

/-- A failed echo check counts one error and ends the exchange ECHO_FAULT (R43, R50). -/
theorem exec_echoCheck_fails (running : s.device.state = .running) (transmit : (s.line l).phase = .transmit)
    (current : (s.line l).current = some ex)
    (fails : (s.line l).atSpace = true
      ∨ (∀ c, heard = .char c → c.data ≠ byteAt ex.chars ex.echoed ∨ c.framingError = true)) :
    exec (.echoCheck l heard) s = .next (((s.setLine l ((s.line l).misheard heard)).endExchange l
      (.echoFault ex.frameOut)).wake) := by
  have checks : s.checkEcho l ex heard
      = (s.setLine l ((s.line l).misheard heard)).endExchange l
          (.echoFault ex.frameOut) := by
    unfold State.checkEcho
    dsimp only
    rw [LineEngine.hears_fails _ fails, if_neg Bool.false_ne_true, State.noteHeard_eq, State.echoFailed,
      State.countError, State.setLine_modLine, State.setLine_modLine]
    rfl
  show Host.Outcome.next (s.whenRunning _) = _
  rw [State.whenRunning_of_eq running]
  simp only [transmit, current, checks]

/-- What follows once the owner has taken an ECHO_FAULT: the line settles, or faults at the eighth in a row (R46, R48). -/
def State.AfterEcho (s : State) (c : Instr) (l : Line) (did : State → Prop) : Prop :=
  ((s.line l).echoFaults < 7 → s.Then c l did) ∧ (7 ≤ (s.line l).echoFaults → s.ThenFaults c l .echo did)

theorem State.endExchange_full {ending : Ending} (current : (s.line l).current = some ex)
    (many : 8 ≤ (((s.deliver l ex ending).modLine l fun ln => ln.enterGuard ending).line l).echoFaults) :
    s.endExchange l ending = ((s.deliver l ex ending).modLine l fun ln => ln.enterGuard ending).faultLine l .echo := by
  unfold State.endExchange
  rw [current]
  exact if_pos many

theorem State.enterGuard_echoFault {full : Bool} (line : (x.line l) = ln) :
    (x.modLine l fun ln => ln.enterGuard (.echoFault full)).line l = ln.enterGuard (.echoFault full) := by
  rw [State.line_modLine_self, line]

/-- Below the eighth in a row the owner takes the ECHO_FAULT, GUARD begins, and the line settles (R46, R48). -/
theorem State.endExchange_echo_few {full : Bool} (current : (x.line l).current = some ex)
    (line : ((x.ownerTakes ex (.echoFault full)).line l).echoFaults < 7) :
    x.endExchange l (.echoFault full) = ((x.ownerTakes ex (.echoFault full)).modLine l
      fun ln => ln.enterGuard (.echoFault full)).settleLine l := by
  rw [← State.deliver_quiet (Ending.quiet_echoFault full)] at line ⊢
  refine State.endExchange_eq current ?_
  rw [State.enterGuard_echoFault rfl]
  exact Nat.succ_lt_succ line

/-- The eighth in a row faults the line, once the owner has taken the ECHO_FAULT (R48). -/
theorem State.endExchange_echo_many {full : Bool} (current : (x.line l).current = some ex)
    (line : 7 ≤ ((x.ownerTakes ex (.echoFault full)).line l).echoFaults) :
    x.endExchange l (.echoFault full) = ((x.ownerTakes ex (.echoFault full)).modLine l
      fun ln => ln.enterGuard (.echoFault full)).faultRest l .echo := by
  have idle : (((x.ownerTakes ex (.echoFault full)).modLine l
      fun ln => ln.enterGuard (.echoFault full)).line l).inFlight = false := by
    rw [State.enterGuard_echoFault rfl]
    rfl
  have delivered := State.deliver_quiet (s := x) (l := l) (ex := ex) (Ending.quiet_echoFault full)
  rw [State.endExchange_full current (by rw [delivered, State.enterGuard_echoFault rfl]; exact Nat.succ_le_succ line),
    delivered, State.faultLine_eq, State.cutExchange_idle idle]

/-- The line engine is `ln` when an ECHO_FAULT has reached its owner. -/
theorem State.afterEcho_of_exec {full : Bool} (current : ln.current = some ex)
    (row : ln.echoFaults = (s.line l).echoFaults)
    (run : exec c s = .next (((s.setLine l ln).endExchange l (.echoFault full)).wake))
    (line : ((s.setLine l ln).ownerTakes ex (.echoFault full)).line l = ln)
    (running : ((s.setLine l ln).ownerTakes ex (.echoFault full)).device.state = .running)
    (effect : did (((s.setLine l ln).ownerTakes ex (.echoFault full)).modLine l
      fun ln => ln.enterGuard (.echoFault full)).wake) : s.AfterEcho c l did := by
  have current' : ((s.setLine l ln).line l).current = some ex := by rw [State.line_setLine_self]; exact current
  refine ⟨fun few => ?_, fun many => ?_⟩
  · rw [State.endExchange_echo_few current' (by rw [line, row]; exact few)] at run
    exact State.then_of_exec run running effect
  · rw [State.endExchange_echo_many current' (by rw [line, row]; exact many)] at run
    exact State.thenFaults_of_exec run running effect

/-- What the rest keeps when an entry goes on after its exchange. -/
theorem State.GoesOn.sameRest {t : State} {a : Station} {r : StationRecord} {e : Entry}
    (h : s.GoesOn t l a ln r i e) : s.SameRest t :=
  ⟨h.ends.host, ⟨h.ends.unit, h.ends.credit, h.ends.counter, h.places, h.ends.asked, h.ends.begins.stage_kept⟩, h.queue,
    h.store, h.indication, h.ends.begins⟩

end

/-- Settles O39: the ending by the owner of the exchange, then GUARD or, at the eighth in a row, the fault. -/
theorem echoFaults : Obligations.EchoFaults := by
  intro s l ex heard running active transmit current fails errors ln space faulted ends
  have run := exec_echoCheck_fails running transmit current fails
  have guarded : (ln.misheard heard).enterGuard (.echoFault ex.frameOut) = faulted := by
    have counted : saturate16 ln.errors = min 65535 (ln.errors + 1) := saturate16_eq errors
    unfold LineEngine.misheard
    rw [counted]
    cases heard <;> rfl
  have concludes : ∀ did : State → Prop,
      ((s.setLine l (ln.misheard heard)).ownerTakes ex
        (.echoFault ex.frameOut)).line l = ln.misheard heard →
      ((s.setLine l (ln.misheard heard)).ownerTakes ex
        (.echoFault ex.frameOut)).device.state = .running →
      did (((s.setLine l (ln.misheard heard)).ownerTakes ex
        (.echoFault ex.frameOut)).modLine l fun ln =>
          ln.enterGuard (.echoFault ex.frameOut)).wake → ends did :=
    fun did line running effect => State.afterEcho_of_exec (ln := ln.misheard heard) current rfl run line running effect
  refine ⟨fun unowned => concludes _ ?_ ?_ ?_, fun i owner exchange => ?_⟩
  · rw [State.ownerTakes_none unowned]
    exact State.line_setLine_self _ _ _
  · rw [State.ownerTakes_none unowned]
    exact running
  · rw [State.ownerTakes_none unowned, State.setLine_modLine, guarded]
    exact State.setLine_onlyLine_wake running l faulted
  · intro e goesOn retires
    have stands : s.Stands (s.setLine l (ln.misheard heard)) l ex.station (ln.misheard heard) (s.station l ex.station) i
        (s.entry i) := (State.Stands.refl s l ex.station i).modLine fun _ => ln.misheard heard
    rw [State.ownerTakes_entry owner] at concludes
    have settles : ∀ e' waiting release, e'.abortPending = e.abortPending → e'.deadlinePassed = e.deadlinePassed →
        e'.line = e.line → e'.station = e.station →
        s.Takes (s.setLine l (ln.misheard heard)) ((s.setLine l (ln.misheard heard)).entryEnding i ex.kind
          (.echoFault ex.frameOut)) l ex.station (ln.misheard heard)
            (s.station l ex.station) i e' waiting release →
        (e.abortPending = false → e.deadlinePassed = false → goesOn waiting) ∧ retires e' release :=
      fun e' waiting release abort_ deadline line_ station_ takes => by
        refine ⟨fun noAbort noDeadline => ?_, fun status abort decided noFence line station real => ?_⟩
        · obtain ⟨waits, store, ind⟩ := takes.goesOn (abort_.trans noAbort) (deadline.trans noDeadline)
          have on := (waits.modLine fun ln => ln.enterGuard (.echoFault ex.frameOut)).goesOn
            running store ind
          rw [guarded] at on
          refine concludes _ waits.line ((congrArg (·.state) waits.host.device).trans running)
            ⟨on.ends.line, on.ends.entry, on.ends.entries,
              ⟨on.ends.lines, fun m a other => on.ends.stations m a (Or.inl other)⟩, fun a => ?_, on.sameRest⟩
          by_cases same : a = ex.station
          · rw [same]
            exact on.ends.station
          · exact on.ends.stations l a (Or.inr same)
        · have retired := takes.retires status abort decided noFence real (line_.trans line) (station_.trans station) rfl
            active.isActive
          have after := (retired.modLine (f := fun ln =>
            ln.enterGuard (.echoFault ex.frameOut)) rfl).retiresAfter running
          rw [guarded] at after
          exact concludes _ retired.line ((congrArg (·.state) retired.host.device).trans running) after
    refine ⟨fun poll => ?_, fun collect => ?_⟩
    · intro tried
      rw [poll] at settles
      exact settles tried _ none rfl rfl rfl rfl
        (stands.takes_poll exchange (Ending.quiet_echoFault _) rfl rfl ⟨rfl, rfl⟩)
    · intro tried
      rw [collect] at settles
      exact settles tried _ e.token rfl rfl rfl rfl
        (stands.takes_collect exchange (Ending.quiet_echoFault _) rfl (fun _ => rfl) ⟨rfl, rfl⟩)

end Sys2Proof.Machine

/-! The line cascade behind a fault or a STOP, as the commands bring it about (R36, R37, R100). -/

namespace Sys2Proof.Machine

section
variable {s t u v w x y : State} {g : Grant} {b : List Byte} {l : Line} {ln : LineEngine} {status : Status} {tail : List QueuedItem} {cause : FaultCause}

/-- What came of a cascade still stands where only the indications and what the part begins are different. -/
theorem State.CascadeCame.congr (h : s.CascadeCame u t v l status tail) (entries : w.entries = v.entries)
    (retire : w.retire.queue = v.retire.queue) (places : w.admission.places = v.admission.places)
    (stations : w.stations = v.stations) : s.CascadeCame u t w l status tail := by
  obtain ⟨same, swept, entries', queue, places', record⟩ := h
  exact ⟨same, swept, entries.trans entries', retire.trans queue, places.trans places',
    fun ok a => (congrArg (fun x => Table.get (Table.get x l) a) stations).trans (record ok a)⟩

/-- A cascade is told from any state that agrees with its own on what a cascade reads. -/
theorem State.CascadeCame.told (h : x.CascadeCame u t v l status tail) (entries : x.entries = s.entries)
    (places : x.admission.places = s.admission.places) (queue : x.retire.queue = s.retire.queue)
    (time : x.time = s.time) (stations : x.stations = s.stations) : s.CascadeCame u t v l status tail := by
  obtain ⟨⟨entries', places', queue', time', record⟩, swept, left, joined, immediates, records⟩ := h
  refine ⟨⟨entries'.trans entries, places'.trans places, queue'.trans queue, time'.trans time, fun a => ?_⟩, swept, left,
    joined, immediates, fun ok => records fun j => ?_⟩
  · rw [record a, State.station, State.station, stations]
  · rw [State.entry, entries]
    exact ok j

theorem State.indicateLine_frame (y : State) (l : Line) :
    (y.indicateLine l).entries = y.entries ∧ (y.indicateLine l).retire.queue = y.retire.queue
      ∧ (y.indicateLine l).admission.places = y.admission.places ∧ (y.indicateLine l).stations = y.stations := by
  refine ⟨?_, ?_, ?_, ?_⟩ <;> simp [State.indicateLine]

theorem State.controlItems_setLine (s : State) (h : ln.control = (s.line l).control) :
    (s.setLine l ln).controlItems l = s.controlItems l := by
  rw [State.controlItems, State.line_setLine_self, h]
  rfl

/-- A line that faults sweeps its entries (R37, R100). -/
theorem State.faultRest_sweeps (s : State) (l : Line) (cause : FaultCause) (same : ln.control = (s.line l).control) :
    ∃ order, s.Sweeps (((s.setLine l ln).faultRest l cause).wake) l .lineFault order (s.controlItems l) := by
  obtain ⟨entries, queue, places, stations⟩ := State.indicateLine_frame
    ((((s.setLine l ln).restLine l .faulted cause).lineCascade l .lineFault).completeControl l .lineFault) l
  have came := ((s.setLine l ln).fault_rested l cause).cascade.congr
    (w := ((s.setLine l ln).faultRest l cause).wake) ((State.wake_entries _).trans entries)
    ((State.wake_queue _).trans queue) ((State.wake_places _).trans places) ((State.wake_stations _).trans stations)
  rw [State.controlItems_setLine s same] at came
  exact ⟨_, (came.told (s := s) rfl rfl rfl rfl rfl).sweeps⟩

/-- The STOP of a line with no exchange in flight sweeps its entries (R36, R100). -/
theorem State.enterStopping_sweeps (s : State) (l : Line) (tag : Half) (ring : Ring) (g : Grant)
    (idle : (s.line l).inFlight = false) :
    ∃ order, s.Sweeps ((s.enterStopping l tag ring).applyAndLeave g).wake l .lineStopped order
      [{ item := .lineControl l, stamp := s.time.now }] := by
  have own : (s.setLine l ((s.line l).stopped tag ring)).line l = (s.line l).stopped tag ring :=
    State.line_setLine_self _ _ _
  have indicated : (s.setLine l ((s.line l).stopped tag ring)).indicateLine l
      = (s.setLine l ((s.line l).stopped tag ring)).indicate l (.lineState .stopping (s.line l).faultCause) := by
    unfold State.indicateLine
    rw [own]
    rfl
  have frame := State.indicate_eq (s.setLine l ((s.line l).stopped tag ring)) l
    (.lineState .stopping (s.line l).faultCause)
  rw [State.enterStopping_eq, indicated]
  generalize (s.setLine l ((s.line l).stopped tag ring)).indicate l (.lineState .stopping (s.line l).faultCause) = v
    at frame
  have line : v.line l = (s.line l).stopped tag ring := by
    rw [frame]
    exact own
  have items : v.controlItems l = [{ item := .lineControl l, stamp := s.time.now }] := by
    rw [State.controlItems, line, frame]
    rfl
  have rests : v.settleLine l = v.stopLine l := by
    unfold State.settleLine
    rw [line]
    exact if_neg (by rw [show ((s.line l).stopped tag ring).inFlight = (s.line l).inFlight from rfl, idle]; decide)
  have came := (v.stop_rested l).cascade
  rw [items] at came
  rw [rests, State.stopLine]
  generalize (((v.lineCascade l .lineStopped).completeControl l .ok).restLine l .stopped .none) = rested at *
  have came' := came.congr (w := ((rested.indicateLine l).applyAndLeave g).wake) ?_ ?_ ?_ ?_
  · refine ⟨_, (came'.told (s := s) ?_ ?_ ?_ ?_ ?_).sweeps⟩ <;> rw [frame] <;> rfl
  · rw [State.wake_entries, (State.applyAndLeave_sameWork _ g).entries]
    exact (rested.indicateLine_frame l).1
  · rw [State.wake_queue, State.applyAndLeave_retire]
    exact (rested.indicateLine_frame l).2.1
  · rw [State.wake_places, State.applyAndLeave_places]
    exact (rested.indicateLine_frame l).2.2.1
  · rw [State.wake_stations, (State.applyAndLeave_sameWork _ g).stations]
    exact (rested.indicateLine_frame l).2.2.2

end

/-- Settles O53: a fault and a STOP both run the cascade over the line's entries. -/
theorem lineCascade : Obligations.LineCascade := by
  intro s t l running waiting
  refine ⟨fun expired runs unowned => ?_, fun ex active transmit current owner many runs => ?_,
    fun g b hat hk hop line zero named going empty idle runs => ?_⟩
  · rw [exec_jabber running expired, State.cutExchange_unowned (by rw [State.line_setLine_self]; exact unowned)] at runs
    have ends := Host.Outcome.next.inj runs
    have sweeps := s.faultRest_sweeps (ln := { s.line l with errors := saturate16 (s.line l).errors }) l .jabber rfl
    rw [ends] at sweeps
    exact sweeps
  · have current' : ((s.setLine l ((s.line l).misheard .nothing)).line l).current = some ex := by
      rw [State.line_setLine_self]
      exact current
    have untaken := State.ownerTakes_none (s := s.setLine l ((s.line l).misheard .nothing))
      (ending := .echoFault ex.frameOut) owner
    rw [exec_echoCheck_fails running transmit current (Or.inr fun _ k => by cases k),
      State.endExchange_echo_many current' (by rw [untaken, State.line_setLine_self]; exact many), untaken,
      State.setLine_modLine] at runs
    have ends := Host.Outcome.next.inj runs
    have sweeps := s.faultRest_sweeps
      (ln := ((s.line l).misheard .nothing).enterGuard (.echoFault ex.frameOut)) l .echo rfl
    rw [ends] at sweeps
    exact sweeps
  · have run := State.lineControl_of_atApplication State.takeStop hat hk hop (by decide) line zero
    have exec_eq : exec .lineControlStop s = .next (s.takeStop g b (recLine b)).wake := congrArg Host.Outcome.next run
    have takes : s.takeStop g b l = (s.enterStopping l (recTag b) g.ring).applyAndLeave g := by
      simp only [State.takeStop, going, empty, if_true]
    rw [exec_eq, named, takes] at runs
    have ends := Host.Outcome.next.inj runs
    rw [← ends]
    exact s.enterStopping_sweeps l (recTag b) g.ring g idle

end Sys2Proof.Machine

/-! An echo check passes (R43, R44, R46, R58, R92). -/

namespace Sys2Proof.Machine

section
variable {s x : State} {l : Line} {ex : Exchange} {c : LineChar} {i : EntryIx} {did : State → Prop}

/-- The exchange when one more character has passed its echo check. -/
def Exchange.heardOne (ex : Exchange) : Exchange := { ex with echoed := ex.echoed + 1 }

/-- The line engine when one more character of `ex` has passed its echo check (R43). -/
def LineEngine.passed (ln : LineEngine) (ex : Exchange) : LineEngine := { ln with current := some ex.heardOne }

theorem State.checkEcho_passes (quiet : (s.line l).atSpace = false) (data : c.data = byteAt ex.chars ex.echoed)
    (good : c.framingError = false) :
    s.checkEcho l ex (.char c) = if ex.chars.length ≤ ex.echoed + 1
      then (s.setLine l ((s.line l).passed ex)).transmitEnd l ex.heardOne
      else s.setLine l ((s.line l).passed ex) := by
  have heard : (s.line l).hears (.char c) = .char c := by
    unfold LineEngine.hears
    rw [quiet]
    rfl
  have passes : echoPasses (byteAt ex.chars ex.echoed) (.char c) = true := by simp [echoPasses, data, good]
  have noted : ((s.line l).noteFraming c).passed ex = (s.line l).passed ex := by
    simp [LineEngine.noteFraming, LineEngine.passed, good]
  have line : (s.noteHeard l (.char c)).modLine l (fun ln => { ln with current := some ex.heardOne })
      = s.setLine l ((s.line l).passed ex) := by
    rw [← noted]
    exact State.setLine_modLine s l _ _
  unfold State.checkEcho
  dsimp only
  rw [heard, if_pos passes]
  show (if decide (ex.chars.length ≤ ex.echoed + 1) = true then
    ((s.noteHeard l (.char c)).modLine l (fun ln => { ln with current := some ex.heardOne })).transmitEnd l ex.heardOne
    else (s.noteHeard l (.char c)).modLine l (fun ln => { ln with current := some ex.heardOne })) = _
  rw [line]
  by_cases last : ex.chars.length ≤ ex.echoed + 1
  · rw [if_pos (decide_eq_true last), if_pos last]
  · rw [if_neg (by simpa using last), if_neg last]

/-- What an echo check takes for granted when it passes (R1, R43). -/
structure State.Echoes (s : State) (l : Line) (ex : Exchange) (c : LineChar) : Prop where
  running : s.device.state = .running
  transmit : (s.line l).phase = .transmit
  current : (s.line l).current = some ex
  quiet : (s.line l).atSpace = false
  data : c.data = byteAt ex.chars ex.echoed
  good : c.framingError = false

theorem State.Echoes.exec_eq (h : s.Echoes l ex c) :
    exec (.echoCheck l (.char c)) s = .next (s.checkEcho l ex (.char c)).wake := by
  show Host.Outcome.next (s.whenRunning _) = _
  rw [State.whenRunning_of_eq h.running]
  simp only [h.transmit, h.current]

/-- The line engine when the last character of `ex` has passed its echo check (R14, R44). -/
def LineEngine.sentAll (ln : LineEngine) (ex : Exchange) : LineEngine :=
  { ln with current := some ex.heardOne, receiver := .hunt, jabberTimer := .stopped }

/-- The frame to address 31 ends SENT: it reaches its owner, GUARD begins, and the line settles (R46). -/
theorem State.Echoes.then_sent (h : s.Echoes l ex c) (last : ex.chars.length = ex.echoed + 1)
    (broadcast : ex.station = broadcastStation)
    (delivered : (s.setLine l ((s.line l).sentAll ex)).deliver l ex.heardOne .sent = x)
    (running : x.device.state = .running) (effect : did (x.modLine l fun ln => ln.enterGuard .sent).wake) :
    s.Then (.echoCheck l (.char c)) l did := by
  have current : ((s.setLine l ((s.line l).sentAll ex)).line l).current = some ex.heardOne := by
    rw [State.line_setLine_self]
    rfl
  have ended : s.checkEcho l ex (.char c) = (s.setLine l ((s.line l).sentAll ex)).endExchange l .sent := by
    rw [State.checkEcho_passes h.quiet h.data h.good, if_pos (Nat.le_of_eq last), State.transmitEnd,
      State.setLine_modLine]
    exact if_pos broadcast
  have few : ((x.modLine l fun ln => ln.enterGuard .sent).line l).echoFaults < 8 := by
    rw [State.line_modLine_self]
    exact Nat.zero_lt_succ 7
  have run := h.exec_eq
  rw [ended, State.endExchange_eq current (by rw [delivered]; exact few), delivered] at run
  exact State.then_of_exec run running effect

theorem State.setLine_setLine (s : State) (l : Line) (ln ln' : LineEngine) :
    (s.setLine l ln).setLine l ln' = s.setLine l ln' := State.setLine_modLine s l ln fun _ => ln'

theorem State.deliver_beacon {ending : Ending} (owner : ex.owner = .beacon) :
    s.deliver l ex ending = s.beaconEnding l ex ending := by
  unfold State.deliver
  rw [owner]

theorem State.beaconEnding_few (few : (s.line l).markCount + 1 < (s.line l).params.markValue) :
    s.beaconEnding l ex .sent = s.setLine l { s.line l with
      beaconNumber := (s.line l).beaconNumber + 1, markCount := (s.line l).markCount + 1 } := by
  unfold State.beaconEnding
  rw [if_pos rfl]
  dsimp only
  rw [if_neg (Nat.not_le.2 few)]
  exact State.setLine_modLine s l _ _

theorem State.beaconEnding_mark (many : (s.line l).params.markValue ≤ (s.line l).markCount + 1) :
    s.beaconEnding l ex .sent = (s.setLine l { s.line l with
      beaconNumber := (s.line l).beaconNumber + 1, markCount := 0 }).indicate l
        (.mark ex.beaconNumber ex.beaconTime) := by
  unfold State.beaconEnding
  rw [if_pos rfl]
  dsimp only
  rw [if_pos many]
  exact congrArg (fun t => State.indicate t l _) (State.setLine_modLine s l _ _)

/-- The line engine and one indication are all that changed, when the part has begun what it may begin. -/
theorem State.Stands.indicates {a : Station} {ln : LineEngine} {body : IndicationBody}
    (h : s.Stands x l a ln (s.station l a) i (s.entry i)) (running : s.device.state = .running)
    (store : x.store = s.store) (ind : x.ind = (s.indicate l body).ind) :
    x.wake.line l = ln ∧ s.OneIndication x.wake l body ∧ s.SameOtherLines x.wake l
      ∧ (∀ b, x.wake.station l b = s.station l b) ∧ (∀ j, x.wake.entry j = s.entry j)
      ∧ x.wake.store = s.store ∧ x.wake.retire.queue = s.retire.queue ∧ s.SameHost x.wake ∧ s.SameAdmission x.wake
      ∧ s.Begins x.wake := by
  obtain ⟨⟨stations, others, engine, entries, store, queue, host, admission, begins⟩, station⟩ :=
    h.stationTook running store
  refine ⟨engine, State.oneIndication_wake ind h.host, others, fun b => ?_, entries, store, queue, host, admission, begins⟩
  by_cases same : b = a
  · rw [same]
    exact station
  · exact stations b same

/-- The line engine when its BEACON has been sent, the mark count being `marks` (R58). -/
def LineEngine.beaconSent (ln : LineEngine) (ex : Exchange) (marks : Nat) : LineEngine :=
  { ln.sentAll ex with beaconNumber := ln.beaconNumber + 1, markCount := marks }

end

/-- Settles O38: by what the character is to its frame, and then by the owner of the exchange. (The obligation's own name
in lower case is that of a function of the model.) -/
theorem echoPasses_settled : Obligations.EchoPasses := by
  intro s l ex c running transmit current quiet data good ex' ln sent
  have echoes : s.Echoes l ex c := ⟨running, transmit, current, quiet, data, good⟩
  have own : (s.setLine l (ln.sentAll ex)).line l = ln.sentAll ex := State.line_setLine_self _ _ _
  refine ⟨fun more => ⟨_, echoes.exec_eq, ?_⟩, fun last real => ⟨_, echoes.exec_eq, ?_⟩,
    fun last broadcast owner => ⟨fun few => ?_, fun many => ?_⟩,
    fun i abort last broadcast owner poll exchange transact line station on noFence => ?_⟩
  · rw [State.checkEcho_passes quiet data good, if_neg (Nat.not_le.2 more)]
    exact State.setLine_onlyLine_wake running l _
  · rw [State.checkEcho_passes quiet data good, if_pos (Nat.le_of_eq last), State.transmitEnd,
      if_neg (show ex.heardOne.station ≠ broadcastStation from real), State.setLine_modLine, State.setLine_modLine]
    exact State.setLine_onlyLine_wake running l _
  · have delivered := (State.deliver_beacon (s := s.setLine l (ln.sentAll ex)) (l := l) (ex := ex.heardOne) owner).trans
      (State.beaconEnding_few (by rw [own]; exact few))
    rw [own, State.setLine_setLine] at delivered
    refine echoes.then_sent last broadcast delivered running ?_
    rw [State.setLine_modLine]
    exact State.setLine_onlyLine_wake running l _
  · have delivered := (State.deliver_beacon (s := s.setLine l (ln.sentAll ex)) (l := l) (ex := ex.heardOne) owner).trans
      (State.beaconEnding_mark (by rw [own]; exact many))
    rw [own, State.setLine_setLine] at delivered
    have set : s.Stands (s.setLine l (ln.beaconSent ex 0)) l broadcastStation (ln.beaconSent ex 0)
        (s.station l broadcastStation) 0 (s.entry 0) :=
      (State.Stands.refl s l broadcastStation 0).modLine fun _ => ln.beaconSent ex 0
    have marked := set.indicate (.mark ex.beaconNumber ex.beaconTime)
    have given : ((s.setLine l (ln.beaconSent ex 0)).indicate l (.mark ex.beaconNumber ex.beaconTime)).ind
        = (s.indicate l (.mark ex.beaconNumber ex.beaconTime)).ind :=
      State.indicate_ind_congr (s := s) (t := s.setLine l (ln.beaconSent ex 0)) rfl rfl rfl rfl l _
    have store : ((s.setLine l (ln.beaconSent ex 0)).indicate l (.mark ex.beaconNumber ex.beaconTime)).store = s.store :=
      State.indicate_store _ _ _
    refine echoes.then_sent (x := (s.setLine l (ln.beaconSent ex 0)).indicate l (.mark ex.beaconNumber ex.beaconTime)) last
      broadcast delivered ((congrArg (·.state) marked.host.device).trans running) ?_
    generalize (s.setLine l (ln.beaconSent ex 0)).indicate l (.mark ex.beaconNumber ex.beaconTime) = y at *
    exact (marked.modLine fun ln => ln.enterGuard .sent).indicates running store given
  · have stands : s.Stands (s.setLine l (ln.sentAll ex)) l broadcastStation (ln.sentAll ex)
        (s.station l broadcastStation) i (s.entry i) :=
      (State.Stands.refl s l broadcastStation i).modLine fun _ => ln.sentAll ex
    have delivered : (s.setLine l (ln.sentAll ex)).deliver l ex.heardOne .sent
        = ((s.setLine l (ln.sentAll ex)).setEntry i { s.entry i with lastEnding := .none }).retireEntry i .ok none := by
      unfold State.deliver
      rw [show ex.heardOne.owner = Owner.entry i from owner]
      refine (if_pos broadcast).trans ?_
      rw [show ex.heardOne.kind = .poll from poll]
      exact State.entryEnding_poll stands.entry exchange (by decide) rfl
    obtain ⟨left, record, ind⟩ := (stands.setEntry { s.entry i with lastEnding := .none }).left_broadcast rfl line station
      exchange noFence on .ok
    have guarded := left.modLine fun ln => ln.enterGuard .sent
    have ends := guarded.ends running record
    refine echoes.then_sent last broadcast delivered ((congrArg (·.state) left.host.device).trans running)
      ⟨ends, ?_, (State.wake_places _).trans guarded.places, (State.wake_queue _).trans guarded.queue,
        (State.wake_store _).trans guarded.store, State.noIndication_wake ind guarded.host⟩
    rw [ends.entry]
    exact ⟨_, rfl, by simp [Entry.finalFlags, transact, station], by simp [Entry.finalFlags, transact]⟩

end Sys2Proof.Machine

/-! The placement of a loaded entry: at the tail of its station's FIFO, or retired at once (R81, R138). -/

namespace Sys2Proof.Machine

section
variable {s u v : State} {r : Ring} {i j : EntryIx} {l : Line} {a : Station} {e : Entry} {record : StationRecord}
  {items : List QueuedItem} {status : Status} {f : Admission → Admission} {freed : List Resource}
  {asked : List AdmissionAccess}

/-! ### What the placement does to the work -/

/-- The entry when it waits in its station's FIFO, its deadline timer started (R81). -/
def Entry.placed (e : Entry) : Entry :=
  { e with
    state := .queued
    deadlineTimer := if e.deadline = 0 then .stopped else Timer.start (1000 * e.deadline) }

/-- Entry `i` is `e`, the record of its station is `record`, and `items` have joined the retire queue; the Admission Unit
aside, nothing else changed. -/
structure State.Places (s v : State) (i : EntryIx) (l : Line) (a : Station) (e : Entry) (record : StationRecord)
    (items : List QueuedItem) : Prop where
  entry : v.entry i = e
  entries : ∀ j, j ≠ i → v.entry j = s.entry j
  station : v.station l a = record
  stations : ∀ m c, m ≠ l ∨ c ≠ a → v.station m c = s.station m c
  lines : v.lines = s.lines
  host : s.SameHost v
  posting : v.retire.posting = s.retire.posting
  queue : v.retire.queue = s.retire.queue ++ items
  store : v.store = s.store
  ind : v.ind = s.ind

theorem State.Places.onAdmission (h : s.Places v i l a e record items) :
    s.Places (v.onAdmission f) i l a e record items :=
  ⟨h.entry, h.entries, h.station, h.stations, h.lines,
    h.host.trans ⟨rfl, rfl, rfl, rfl, rfl, rfl, rfl, rfl, rfl⟩, h.posting, h.queue, h.store, h.ind⟩

/-- The line and the station take the entry (R81). -/
theorem State.placeEntry_queued (loading : (s.entry i).state = .loading) (station : (s.entry i).station = some a)
    (taking : (s.line (s.entry i).line).state = .running ∨ (s.line (s.entry i).line).state = .draining)
    (up : (s.station (s.entry i).line a).state ≠ .offline) :
    (s.placeEntry i).admission = s.admission
      ∧ s.Places (s.placeEntry i) i (s.entry i).line a (s.entry i).placed
        { s.station (s.entry i).line a with fifo := (s.station (s.entry i).line a).fifo ++ [i] } [] := by
  have placed : s.placeEntry i = (s.modStation (s.entry i).line a fun r => { r with fifo := r.fifo ++ [i] }).setEntry i
      (s.entry i).placed := by
    unfold State.placeEntry
    simp only [loading, station]
    rcases taking with state | state <;> simp only [state] <;> refine (if_neg up).trans ?_ <;>
      simp only [Entry.placed, station, ms]
  rw [placed]
  refine ⟨rfl, State.entry_setEntry_self _ _ _, fun j other => ?_, ?_, fun m c other => ?_, rfl,
    ⟨rfl, rfl, rfl, rfl, rfl, rfl, rfl, rfl, rfl⟩, rfl, (List.append_nil _).symm, rfl, rfl⟩
  · rw [State.entry_setEntry, if_neg other.symm]
    rfl
  · rw [State.setEntry_station, State.station_modStation, if_pos ⟨rfl, rfl⟩]
  · rw [State.setEntry_station, State.station_modStation, if_neg fun same => other.elim (fun k => k same.1.symm) fun k => k same.2.symm]

/-- The status with which a line or a station that takes no entry answers a placement (R81). -/
def State.RefusesWith (s : State) (l : Line) (a : Station) (status : Status) : Prop :=
  ((s.line l).state = .stopped ∧ status = .lineStopped)
    ∨ ((s.line l).state = .faulted ∧ status = .lineFault)
    ∨ ((s.line l).state = .stopping ∧ status = .lineStopped)
    ∨ (((s.line l).state = .running ∨ (s.line l).state = .draining) ∧ (s.station l a).state = .offline
      ∧ status = .stationOffline)

/-- The line or the station takes no entry: it retires (R81). -/
theorem State.placeEntry_refused (loading : (s.entry i).state = .loading) (station : (s.entry i).station = some a)
    (refuses : s.RefusesWith (s.entry i).line a status) : s.placeEntry i = s.retireEntry i status none := by
  unfold State.placeEntry
  simp only [loading, station]
  rcases refuses with ⟨state, rfl⟩ | ⟨state, rfl⟩ | ⟨state, rfl⟩ | ⟨state | state, down, rfl⟩ <;> simp only [state]
  · exact if_pos down
  · exact if_pos down

theorem State.StandsLeft.admission_eq {ln : LineEngine} {store : PayloadStore}
    (h : s.StandsLeft v l a ln i e status none store) : v.admission = s.admission := by
  have high : v.admission.h = s.admission.h := h.unit .h
  have low : v.admission.l = s.admission.l := h.unit .l
  calc v.admission = ⟨v.admission.h, v.admission.l, v.admission.stage, v.admission.credit, v.admission.counter,
          v.admission.places, v.admission.asked⟩ := rfl
    _ = s.admission := by rw [high, low, h.stage, h.credit, h.counter, h.places, h.asked]; rfl

/-- The entry retires at its placement, never sent and with nothing waiting on it (R81). -/
theorem State.placeEntry_retired (loading : (s.entry i).state = .loading) (station : (s.entry i).station = some a)
    (refuses : s.RefusesWith (s.entry i).line a status) (calm : (s.entry i).unansweredAttempt = false)
    (noAbort : s.NoAbortOn i) (noFence : s.NoFenceOn i) :
    (s.placeEntry i).admission = s.admission
      ∧ s.Places (s.placeEntry i) i (s.entry i).line a ((s.entry i).retired status)
        ((s.station (s.entry i).line a).afterRetire i none true 0) [{ item := .entry i, stamp := s.time.now }] := by
  rw [State.placeEntry_refused loading station refuses]
  obtain ⟨left, certain, -⟩ := (State.Stands.refl s (s.entry i).line a i).left rfl station (by rw [loading]; decide)
    (by rw [loading]; decide) noFence (by rw [loading]; decide) (abort := none) noAbort status none
  obtain ⟨here, ind⟩ := certain fun k => by simp [State.Suspects, Entry.finalFlags, calm] at k
  refine ⟨left.admission_eq, left.entry, left.entries, here.trans ?_, left.stations, Table.ext_get fun m => ?_, left.host,
    left.posting, left.queue, left.store, ind⟩
  · unfold State.unlinked
    dsimp only
    rw [ite_self]
    rfl
  · by_cases same : m = (s.entry i).line
    · rw [same]
      exact left.line
    · exact left.lines m same

/-! ### What the placement does to the Admission Unit -/

/-- The record of ring `r` has left its hold, the accesses asked are `asked`, and `freed` has returned to the other ring;
the rest of the Admission Unit is as it was (R128, R130). -/
structure State.Leaves (s v : State) (r : Ring) (freed : List Resource) (asked : List AdmissionAccess) : Prop where
  unit : v.ringUnit r = (s.ringUnit r).leave
  other : s.ReturnedTo v freed (otherRing r)
  asked : v.admission.asked = asked
  credit : v.admission.credit = s.admission.credit
  counter : v.admission.counter = s.admission.counter
  places : v.admission.places = s.admission.places
  stage : v.admission.stage = s.admission.stage

theorem RingUnit.leave_onReturn (u : RingUnit) (x : Resource) : u.leave.hold.onReturn x = u.leave.hold := by
  unfold Hold.onReturn
  rw [RingUnit.leave_hold]
  by_cases last : u.tail = u.head + 1
  · rw [if_pos last]
  · rw [if_neg last]

theorem State.modRing_rest (s : State) (r : Ring) (g : RingUnit → RingUnit) :
    (s.modRing r g).admission.credit = s.admission.credit ∧ (s.modRing r g).admission.counter = s.admission.counter
      ∧ (s.modRing r g).admission.places = s.admission.places
      ∧ (s.modRing r g).admission.stage = s.admission.stage :=
  ⟨s.modRing_credit r g, s.modRing_counter r g, s.modRing_places r g, s.modRing_stage r g⟩

theorem State.placeLoaded_leaves (s : State) (r : Ring) (same : (s.placeEntry i).admission = s.admission) :
    s.Leaves (s.placeLoaded r i) r [.loadEnd i]
      (orderAsked r (s.ringUnit r) (s.ringUnit r).leave s.admission.asked) := by
  have unit : (s.placeEntry i).ringUnit r = s.ringUnit r := State.placeEntry_ringUnit s i r
  obtain ⟨credit, counter, places, stage⟩ := (s.placeEntry i).modRing_rest r RingUnit.leave
  rw [same] at credit counter places stage
  refine ⟨?_, s.placeLoaded_to r i, ?_, credit, counter, places, stage⟩
  · rw [State.placeLoaded, State.ringUnit_returned, State.leaveHold, State.ringUnit_modRing_self, unit,
      RingUnit.leave_onReturn]
  · rw [State.placeLoaded, State.returned_asked, State.leaveHold, State.modRing_asked, unit, same]

theorem State.leave_asked_load (loading : (s.ringUnit r).hold.state = .loading i false) :
    orderAsked r (s.ringUnit r) (s.ringUnit r).leave s.admission.asked
      = s.admission.asked.filter (· != .load r) ++ s.leaveAsks r :=
  orderAsked_leave_load r _ _ (by rw [Hold.read, loading])

theorem State.leave_asked_complete (loading : (s.ringUnit r).hold.state = .loading i true) :
    orderAsked r (s.ringUnit r) (s.ringUnit r).leave s.admission.asked = s.admission.asked ++ s.leaveAsks r :=
  orderAsked_leave_ready r _ _ (by rw [Hold.read, loading])

theorem State.Places.placeLoaded (h : s.Places (s.placeEntry i) i l a e record items) (r : Ring) :
    s.Places (s.placeLoaded r i) i l a e record items :=
  h.onAdmission (f := fun _ => (s.placeLoaded r i).admission)

end

end Sys2Proof.Machine

/-! The ends of request loads (R81, R119, R130, R138, R139). -/

namespace Sys2Proof.Machine

/-! ### A chain of segments (R119) -/

/-- Where byte `k` of a chain stands: in segment `k / 64` of the chain, at offset `k mod 64` (R119). -/
def chainPlace (chain : List SegIx) (k : Nat) : Nat := 64 * (chain.getD (k / 64) 0).val + k % 64

section
variable {m : Memory} {chain : List SegIx} {seg : SegIx} {bytes : List Byte} {k x : Nat}

theorem chainPlace_cons_first (h : k < 64) : chainPlace (seg :: chain) k = 64 * seg.val + k := by
  rw [chainPlace, Nat.div_eq_of_lt h, Nat.mod_eq_of_lt h]
  rfl

theorem chainPlace_cons_later (k : Nat) : chainPlace (seg :: chain) (k + 64) = chainPlace chain k := by
  rw [chainPlace, Nat.add_div_right k (by decide), Nat.add_mod_right]
  rfl

theorem Memory.read_writeChain_place (bytes : List Byte) (wf : m.wf = true) (once : chain.Nodup)
    (fits : bytes.length ≤ 64 * chain.length) (inside : k < bytes.length) :
    (m.writeChain chain bytes).read (chainPlace chain k) = bytes.getD k 0 := by
  induction chain generalizing m bytes k with
  | nil =>
    rw [List.length_nil] at fits
    omega
  | cons seg chain ih =>
    obtain ⟨fresh, once⟩ := List.nodup_cons.1 once
    have run := Memory.writeRun_wf (64 * seg.val) (bytes.take 64) wf
    rw [Memory.writeChain]
    by_cases first : k < 64
    · rw [chainPlace_cons_first first, Memory.read_writeChain_of_not_mem _ _ _ run fun other member => ?_,
        Memory.read_writeRun _ _ _ wf, if_pos (by rw [List.length_take]; omega), Nat.add_sub_cancel_left]
      · simp [List.getD_eq_getElem?_getD, first]
      · intro same
        have here : (64 * seg.val + k) / 64 = seg.val := by omega
        exact fresh (Fin.ext (here.symm.trans same) ▸ member)
    · obtain ⟨n, rfl⟩ : ∃ n, k = n + 64 := ⟨k - 64, by omega⟩
      rw [List.length_cons] at fits
      rw [chainPlace_cons_later, ih (bytes.drop 64) run once (by rw [List.length_drop]; omega)
        (by rw [List.length_drop]; omega)]
      simp [List.getD_eq_getElem?_getD, List.getElem?_drop, Nat.add_comm]

theorem Memory.read_writeChain_elsewhere (bytes : List Byte) (wf : m.wf = true) (fits : bytes.length ≤ 64 * chain.length)
    (out : ∀ k, k < bytes.length → x ≠ chainPlace chain k) : (m.writeChain chain bytes).read x = m.read x := by
  induction chain generalizing m bytes with
  | nil => rfl
  | cons seg chain ih =>
    rw [List.length_cons] at fits
    have apart : ¬ (64 * seg.val ≤ x ∧ x < 64 * seg.val + (bytes.take 64).length) := fun ⟨low, high⟩ => by
      rw [List.length_take] at high
      refine out (x - 64 * seg.val) (by omega) ?_
      rw [chainPlace_cons_first (by omega)]
      omega
    have later : ∀ k, k < (bytes.drop 64).length → x ≠ chainPlace chain k := fun k inside => by
      rw [List.length_drop] at inside
      rw [← chainPlace_cons_later (seg := seg)]
      exact out (k + 64) (by omega)
    rw [Memory.writeChain, ih (bytes.drop 64) (Memory.writeRun_wf _ _ wf) (by rw [List.length_drop]; omega) later,
      Memory.read_writeRun _ _ _ wf, if_neg apart]

end

/-! ### What the ends of loads leave unchanged -/

section
variable {s u v t : State} {r : Ring} {i j : EntryIx} {l : Line} {a : Station} {e : Entry} {record : StationRecord}
  {items : List QueuedItem} {freed : List Resource} {asked : List AdmissionAccess}

/-- The lines, the indications, the immediate places, and every station but `a` of line `l`, are as they were. -/
structure State.SameElsewhere (s v : State) (l : Line) (a : Station) : Prop where
  lines : v.lines = s.lines
  stations : ∀ m c, m ≠ l ∨ c ≠ a → v.station m c = s.station m c
  places : v.admission.places = s.admission.places
  counter : v.admission.counter = s.admission.counter
  credit : v.admission.credit = s.admission.credit
  stage : v.admission.stage = s.admission.stage
  host : s.SameHost v
  posting : v.retire.posting = s.retire.posting
  ind : v.ind = s.ind

theorem State.SameElsewhere.trans (h : s.SameElsewhere u l a) (k : u.SameElsewhere v l a) : s.SameElsewhere v l a :=
  ⟨k.lines.trans h.lines, fun m c other => (k.stations m c other).trans (h.stations m c other), k.places.trans h.places,
    k.counter.trans h.counter, k.credit.trans h.credit, k.stage.trans h.stage, h.host.trans k.host,
    k.posting.trans h.posting, k.ind.trans h.ind⟩

theorem State.Places.sameElsewhere (h : s.Places v i l a e record items) (k : s.Leaves v r freed asked) :
    s.SameElsewhere v l a :=
  ⟨h.lines, h.stations, k.places, k.counter, k.credit, k.stage, h.host, h.posting, h.ind⟩

theorem State.SameElsewhere.running (h : s.SameElsewhere v l a) (running : s.device.state = .running) :
    v.device.state = .running := (congrArg (·.state) h.host.device).trans running

/-- The same, when the part has begun what it may begin. -/
theorem State.SameElsewhere.wake (h : s.SameElsewhere v l a) (running : s.device.state = .running) :
    v.wake.lines = s.lines ∧ (∀ m c, m ≠ l ∨ c ≠ a → v.wake.station m c = s.station m c)
      ∧ v.wake.admission.places = s.admission.places ∧ v.wake.admission.counter = s.admission.counter
      ∧ v.wake.admission.credit = s.admission.credit ∧ s.SameHost v.wake ∧ s.NoIndication v.wake ∧ s.Begins v.wake :=
  ⟨(State.wake_lines v).trans h.lines, fun m c other => (State.wake_station v m c).trans (h.stations m c other),
    (State.wake_places v).trans h.places, (State.wake_counter v).trans h.counter, (State.wake_credit v).trans h.credit,
    h.host.trans v.wake_sameHost, State.noIndication_wake h.ind h.host,
    State.begins_wake h.stage h.posting (h.running running)⟩

/-- A hold changes, and the accesses asked with it. -/
theorem State.modHold_sameElsewhere (s : State) (r : Ring) (f : Hold → Hold) (l : Line) (a : Station) :
    s.SameElsewhere (s.modHold r f) l a := by
  obtain ⟨credit, counter, places, stage⟩ := s.modRing_rest r fun u => { u with hold := f u.hold }
  exact ⟨rfl, fun _ _ _ => rfl, places, counter, credit, stage, ⟨rfl, rfl, rfl, rfl, rfl, rfl, rfl, rfl, rfl⟩, rfl, rfl⟩

/-! ### Which load waits for which (R138) -/

/-- The load of `i` is placed behind that of `j`, which stands in the other ring (R138). -/
def State.PlacedAfter (s : State) (i j : EntryIx) : Prop :=
  (s.entry j).state = .loading ∧ (s.entry j).line = (s.entry i).line ∧ (s.entry j).station = (s.entry i).station
    ∧ (s.entry j).admission.toNat < (s.entry i).admission.toNat

theorem State.mustWait_of_loading {c : Bool} (other : (s.ringUnit (otherRing r)).hold.state = .loading j c) :
    s.mustWait r i = true ↔ s.PlacedAfter i j := by
  simp [State.mustWait, other, State.PlacedAfter, and_assoc]

theorem State.mustWait_of_free
    (free : ∀ j c, (s.ringUnit (otherRing r)).hold.state = .loading j c → ¬ s.PlacedAfter i j) :
    s.mustWait r i = false := by
  cases other : (s.ringUnit (otherRing r)).hold.state with
  | loading j c => exact Bool.eq_false_iff.2 fun k => free j c other ((State.mustWait_of_loading other).1 k)
  | _ => simp only [State.mustWait, other]

/-- No complete load waits in the other ring, whatever has returned to it. -/
theorem State.placeOther_of_returned (returned : s.ReturnedTo t freed (otherRing r))
    (free : ∀ j c, (s.ringUnit (otherRing r)).hold.state = .loading j c → c = false) : t.placeOther r = t := by
  refine State.placeOther_of_not_loading fun j complete => ?_
  by_cases waits : ∃ lacks, (s.ringUnit (otherRing r)).hold.state = .waiting lacks
  · obtain ⟨lacks, waiting⟩ := waits
    rcases returned.waits waiting with state | state <;> rw [complete] at state <;> cases state
  · rw [returned.2 fun lacks waiting => absurd ⟨lacks, waiting⟩ waits] at complete
    cases free j true complete

theorem State.placeOther_of_complete (complete : (s.ringUnit (otherRing r)).hold.state = .loading j true) :
    s.placeOther r = s.placeLoaded (otherRing r) j := by
  simp only [State.placeOther, complete]

theorem State.loadDone_placed (free : s.mustWait r i = false) :
    s.loadDone r i = ((s.placeLoaded r i).placeOther r).settleLine (s.entry i).line := by
  rw [State.loadDone, free]
  rfl

theorem State.loadDone_waits (waits : s.mustWait r i = true) :
    s.loadDone r i = s.modHold r fun h => { h with state := .loading i true } := by
  rw [State.loadDone, waits]
  rfl

/-- A hold that does not wait is as it was when something has returned to it. -/
theorem State.ReturnedTo.same (h : s.ReturnedTo t freed r)
    (idle : ∀ lacks, (s.ringUnit r).hold.state ≠ .waiting lacks) : t.ringUnit r = s.ringUnit r :=
  h.2 fun lacks waiting => absurd waiting (idle lacks)

end

end Sys2Proof.Machine

/-! LOAD_END: the entry is placed, retires at its placement, waits for the other ring, or places the one behind it
(R81, R119, R130, R138). -/

namespace Sys2Proof.Machine

section
variable {s u v t : State} {r : Ring} {i j : EntryIx} {l : Line} {a : Station} {e : Entry} {record : StationRecord}
  {items : List QueuedItem} {freed : List Resource} {asked : List AdmissionAccess}

theorem State.Places.wake (h : s.Places v i l a e record items) :
    v.wake.entry i = e ∧ (∀ j, j ≠ i → v.wake.entry j = s.entry j) ∧ v.wake.station l a = record
      ∧ v.wake.retire.queue = s.retire.queue ++ items ∧ v.wake.store = s.store :=
  ⟨(State.wake_entry v i).trans h.entry, fun j other => (State.wake_entry v j).trans (h.entries j other),
    (State.wake_station v l a).trans h.station, (State.wake_queue v).trans h.queue, (State.wake_store v).trans h.store⟩

theorem State.Leaves.wake (h : s.Leaves v r freed asked) :
    v.wake.ringUnit r = (s.ringUnit r).leave ∧ s.ReturnedTo v.wake freed (otherRing r)
      ∧ v.wake.admission.asked = asked :=
  ⟨(State.wake_ringUnit v r).trans h.unit, h.other.congr rfl (State.wake_ringUnit v _), (State.wake_asked v).trans h.asked⟩

/-- A load that waits for no other, with none behind it: the entry is placed, and the line goes on (R138). -/
theorem State.loadDone_free (loading : (u.ringUnit r).hold.state = .loading i false)
    (free : ∀ j c, (u.ringUnit (otherRing r)).hold.state = .loading j c → c = false ∧ ¬ u.PlacedAfter i j)
    (same : (u.placeEntry i).admission = u.admission) :
    u.loadDone r i = (u.placeLoaded r i).settleLine (u.entry i).line
      ∧ u.Leaves (u.placeLoaded r i) r [.loadEnd i] (u.admission.asked.filter (· != .load r) ++ u.leaveAsks r) := by
  have leaves := u.placeLoaded_leaves r same
  rw [State.leave_asked_load loading] at leaves
  refine ⟨?_, leaves⟩
  rw [State.loadDone_placed (State.mustWait_of_free fun j c other => (free j c other).2),
    State.placeOther_of_returned leaves.other fun j c other => (free j c other).1]

/-- A load that must wait for the other ring's placement stays in its hold (R138). -/
theorem State.loadDone_behind {c : Bool} (loading : (u.ringUnit r).hold.state = .loading i false)
    (other : (u.ringUnit (otherRing r)).hold.state = .loading j c) (after : u.PlacedAfter i j) :
    ∃ v, u.loadDone r i = v ∧ u.SameElsewhere v l a ∧ v.entries = u.entries ∧ v.stations = u.stations
      ∧ v.store = u.store ∧ v.retire = u.retire
      ∧ v.ringUnit r = { u.ringUnit r with hold := { (u.ringUnit r).hold with state := .loading i true } }
      ∧ v.ringUnit (otherRing r) = u.ringUnit (otherRing r)
      ∧ v.admission.asked = u.admission.asked.filter (· != .load r) := by
  refine ⟨_, State.loadDone_waits ((State.mustWait_of_loading other).2 after), u.modHold_sameElsewhere r _ l a, rfl, rfl, rfl,
    rfl, State.ringUnit_modRing_self u r _, State.ringUnit_modRing_other u r _, ?_⟩
  refine (u.modRing_asked r _).trans (orderAsked_read_ends _ rfl ?_ rfl)
  rw [Hold.read, loading]

/-- A load that ends while a complete one of the other ring waits for it: both are placed (R138). -/
theorem State.loadDone_both (loading : (u.ringUnit r).hold.state = .loading i false)
    (complete : (u.ringUnit (otherRing r)).hold.state = .loading j true) (free : ¬ u.PlacedAfter i j)
    (same : (u.placeEntry i).admission = u.admission) :
    u.loadDone r i = ((u.placeLoaded r i).placeLoaded (otherRing r) j).settleLine (u.entry i).line
      ∧ u.Leaves (u.placeLoaded r i) r [.loadEnd i] (u.admission.asked.filter (· != .load r) ++ u.leaveAsks r)
      ∧ (u.placeLoaded r i).ringUnit (otherRing r) = u.ringUnit (otherRing r) := by
  have leaves := u.placeLoaded_leaves r same
  rw [State.leave_asked_load loading] at leaves
  have unit := leaves.other.same fun lacks waiting => by rw [complete] at waiting; cases waiting
  refine ⟨?_, leaves, unit⟩
  rw [State.loadDone_placed (Bool.eq_false_iff.2 fun k => free ((State.mustWait_of_loading complete).1 k)),
    State.placeOther_of_complete (by rw [unit]; exact complete)]

theorem otherRing_otherRing (r : Ring) : otherRing (otherRing r) = r := by cases r <;> rfl

/-- A complete load that waited for the other ring's is placed (R138). -/
theorem State.placeLoaded_complete (complete : (u.ringUnit r).hold.state = .loading j true)
    (loading : (u.entry j).state = .loading) (line : (u.entry j).line = l) (station : (u.entry j).station = some a)
    (taking : (u.line l).state = .running ∨ (u.line l).state = .draining) (up : (u.station l a).state ≠ .offline)
    (idle : ∀ lacks, (u.ringUnit (otherRing r)).hold.state ≠ .waiting lacks) :
    u.Places (u.placeLoaded r j) j l a (u.entry j).placed { u.station l a with fifo := (u.station l a).fifo ++ [j] } []
      ∧ u.SameElsewhere (u.placeLoaded r j) l a
      ∧ (u.placeLoaded r j).ringUnit r = (u.ringUnit r).leave
      ∧ (u.placeLoaded r j).ringUnit (otherRing r) = u.ringUnit (otherRing r)
      ∧ (u.placeLoaded r j).admission.asked = u.admission.asked ++ u.leaveAsks r := by
  subst line
  obtain ⟨same, places⟩ := State.placeEntry_queued loading station taking up
  have leaves := u.placeLoaded_leaves r same
  rw [State.leave_asked_complete complete] at leaves
  have both := places.placeLoaded r
  exact ⟨both, both.sameElsewhere leaves, leaves.unit, leaves.other.same idle, leaves.asked⟩

theorem State.leaveAsks_congr (h : v.ringUnit r = u.ringUnit r) : v.leaveAsks r = u.leaveAsks r := by
  unfold State.leaveAsks
  rw [h]

theorem RingUnit.leave_not_waiting (x : RingUnit) (lacks : List Resource) : x.leave.hold.state ≠ .waiting lacks := by
  rw [RingUnit.leave_hold]
  split <;> exact fun k => by cases k

theorem State.storeRequest_sameElsewhere (s : State) (i : EntryIx) (bytes : List Byte) (l : Line) (a : Station) :
    s.SameElsewhere (s.storeRequest i bytes) l a :=
  ⟨rfl, fun _ _ _ => rfl, rfl, rfl, rfl, rfl, ⟨rfl, rfl, rfl, rfl, rfl, rfl, rfl, rfl, rfl⟩, rfl, rfl⟩

end

/-- Settles O36: by what stands in the hold of the other ring, and by what the line and the station take. -/
theorem loadEnds : Obligations.LoadEnds := by
  refine ⟨fun m chain bytes wf once fits => ⟨fun k => Memory.read_writeChain_place bytes wf once fits,
    fun x => Memory.read_writeChain_elsewhere bytes wf fits⟩,
    fun s r i a bytes running loading turn state station length allowed => ?_⟩
  intro e other store queued taking common frame after free
  have run := exec_loadEnd_done running loading turn length allowed
  have stored := s.storeRequest_sameElsewhere i bytes e.line a
  have commons : ∀ v, v.store = store → s.SameElsewhere v e.line a → common v.wake := fun v kept same => by
    obtain ⟨lines, stations, places, counter, credit, host, noIndication, begins⟩ := same.wake running
    exact ⟨(State.wake_store v).trans kept, lines, stations, places, counter, credit, host, noIndication, begins⟩
  have placed : ∀ {e' record items}, free →
      ((s.storeRequest i bytes).placeEntry i).admission = s.admission
        ∧ (s.storeRequest i bytes).Places ((s.storeRequest i bytes).placeEntry i) i e.line a e' record items →
      s.Then (.loadEnd r bytes) e.line fun t => frame t ∧ t.entry i = e' ∧ t.station e.line a = record
        ∧ t.retire.queue = s.retire.queue ++ items := fun free ⟨same, places⟩ => by
    obtain ⟨done, leaves⟩ := State.loadDone_free (u := s.storeRequest i bytes) loading (fun j c other => by
      obtain ⟨incomplete, before⟩ := free j c other
      exact ⟨incomplete, fun ⟨loading, line, own, number⟩ => before ⟨loading, line, own.trans station, number⟩⟩) same
    rw [done] at run
    have both := places.placeLoaded r
    have elsewhere := stored.trans (both.sameElsewhere leaves)
    obtain ⟨entry, entries, record, queue, kept⟩ := both.wake
    obtain ⟨unit, returned, asked⟩ := leaves.wake
    exact State.then_of_exec run (elsewhere.running running)
      ⟨⟨commons _ both.store elsewhere, entries, unit, returned.congr rfl rfl, asked⟩, entry, record, queue⟩
  refine ⟨fun free taking up => ?_, fun free calm noAbort noFence status refuses => ?_, fun j c loads before => ?_,
    fun j complete apart free loads line own taking up => ?_⟩
  · obtain ⟨t, t', exec_eq, ⟨kept, entry, record, queue⟩, settles⟩ :=
      placed free (State.placeEntry_queued (s := s.storeRequest i bytes) state station taking up)
    exact ⟨t, t', exec_eq, ⟨kept, entry, record, queue.trans (List.append_nil _)⟩, settles⟩
  · exact placed free (State.placeEntry_retired (s := s.storeRequest i bytes) state station refuses calm noAbort noFence)
  · obtain ⟨v, done, same, entries, stations, kept, retire, unit, unit', asked⟩ :=
      State.loadDone_behind (u := s.storeRequest i bytes) (l := e.line) (a := a) loading loads
        ⟨before.1, before.2.1, before.2.2.1.trans station.symm, before.2.2.2⟩
    rw [done] at run
    exact ⟨_, run, commons _ kept (stored.trans same), (State.wake_entries v).trans entries,
      (State.wake_ringUnit v _).trans unit, (State.wake_ringUnit v _).trans unit', (State.wake_asked v).trans asked,
      (State.wake_stations v).trans stations, (State.wake_queue v).trans (congrArg RetireUnit.queue retire)⟩
  · obtain ⟨same, first⟩ := State.placeEntry_queued (s := s.storeRequest i bytes) state station taking up
    obtain ⟨done, leaves, unit⟩ := State.loadDone_both (u := s.storeRequest i bytes) loading complete
      (fun ⟨loading, line, own, number⟩ => free ⟨loading, line, own.trans station, number⟩) same
    rw [done] at run
    have placed := first.placeLoaded r
    have elsewhere := stored.trans (placed.sameElsewhere leaves)
    generalize (s.storeRequest i bytes).placeLoaded r i = v at *
    have unit' : v.ringUnit (otherRing r) = s.ringUnit (otherRing r) := unit
    have second : v.entry j = s.entry j := placed.entries j apart
    have record : v.station e.line a = { s.station e.line a with fifo := (s.station e.line a).fifo ++ [i] } := placed.station
    have engine : v.line e.line = s.line e.line := congrArg (Table.get · e.line) placed.lines
    obtain ⟨places, same', left, kept, asked⟩ := State.placeLoaded_complete (u := v) (l := e.line) (r := otherRing r)
      (by rw [unit']; exact complete) (by rw [second]; exact loads) (by rw [second, line]) (by rw [second]; exact own)
      (by rw [engine]; exact taking) (by rw [record]; exact up) fun lacks => by
        rw [otherRing_otherRing, leaves.unit]
        exact RingUnit.leave_not_waiting _ lacks
    rw [otherRing_otherRing] at kept
    rw [leaves.asked, State.leaveAsks_congr unit'] at asked
    rw [second, record] at places
    have elsewhere' := elsewhere.trans same'
    generalize v.placeLoaded (otherRing r) j = w at *
    obtain ⟨entry, entries, station, queue, store⟩ := places.wake
    refine State.then_of_exec run (elsewhere'.running running)
      ⟨commons w (places.store.trans placed.store) elsewhere', (entries i apart.symm).trans placed.entry, entry,
        fun k first second => (entries k second).trans (placed.entries k first), station,
        (State.wake_ringUnit w r).trans (kept.trans leaves.unit),
        (State.wake_ringUnit w _).trans (left.trans (congrArg RingUnit.leave unit')), (State.wake_asked w).trans asked,
        queue.trans ?_⟩
    rw [List.append_nil]
    exact placed.queue.trans (List.append_nil _)

end Sys2Proof.Machine

/-! LOAD_ERROR, and the completion of a record whose load failed (R119, R130, R138, R139). -/

namespace Sys2Proof.Machine

section
variable {s u v : State} {r : Ring} {i j : EntryIx} {l : Line} {a : Station} {g : Grant} {b : List Byte}

/-! ### A failed load (R119, R139) -/

theorem State.returned_sameElsewhere (s : State) (x : Resource) (l : Line) (a : Station) :
    s.SameElsewhere (s.returned x) l a :=
  (s.modHold_sameElsewhere .h (fun h => h.onReturn x) l a).trans (State.modHold_sameElsewhere _ .l _ l a)

theorem State.returnedEntry_frame (s : State) (held : Bool) (l : Line) (a : Station) :
    s.SameElsewhere (s.returnedEntry held) l a ∧ (s.returnedEntry held).entries = s.entries
      ∧ (s.returnedEntry held).stations = s.stations ∧ (s.returnedEntry held).store = s.store
      ∧ (s.returnedEntry held).retire = s.retire ∧ (s.returnedEntry held).admission.asked = s.admission.asked := by
  have entry := s.returned_sameElsewhere .entry l a
  cases held with
  | false => exact ⟨entry, rfl, rfl, rfl, rfl, s.returned_asked .entry⟩
  | true =>
    exact ⟨entry.trans (State.returned_sameElsewhere _ .segments l a), rfl, rfl, rfl, rfl,
      (State.returned_asked _ _).trans (s.returned_asked .entry)⟩

/-- A hold that is READY stays as it is, whatever returns. -/
theorem State.ReturnedTo.ready {t : State} {freed : List Resource} (h : s.ReturnedTo t freed r)
    (ready : (s.ringUnit r).hold.state = .ready) : t.ringUnit r = s.ringUnit r :=
  h.same fun lacks waiting => by rw [ready] at waiting; cases waiting

/-- What a failed load leaves: the entry FREE, its segments returned, and its record READY, marked READ_FAILED (R119,
R139). -/
theorem State.loadReturned_frame (loading : (u.ringUnit r).hold.state = .loading i false) (l : Line) (a : Station) :
    u.SameElsewhere (u.loadReturned r i) l a ∧ (u.loadReturned r i).entry i = Entry.reset
      ∧ (∀ j, j ≠ i → (u.loadReturned r i).entry j = u.entry j)
      ∧ (u.loadReturned r i).store.freeQueue
        = u.store.freeQueue ++ (u.entry i).requestChain ++ (u.entry i).replyReservation
      ∧ (u.loadReturned r i).stations = u.stations ∧ (u.loadReturned r i).retire = u.retire
      ∧ (u.loadReturned r i).ringUnit r
        = { u.ringUnit r with hold := { (u.ringUnit r).hold with state := .ready, readFailed := true } }
      ∧ (u.loadReturned r i).admission.asked = u.admission.asked.filter (· != .load r) := by
  have freed : u.SameElsewhere (u.freeEntryAt i) l a :=
    ⟨rfl, fun _ _ _ => rfl, rfl, rfl, rfl, rfl, ⟨rfl, rfl, rfl, rfl, rfl, rfl, rfl, rfl, rfl⟩, rfl, rfl⟩
  have failed := (u.freeEntryAt i).modHold_sameElsewhere r (fun h => { h with state := .ready, readFailed := true }) l a
  have unit : ((u.freeEntryAt i).modHold r fun h => { h with state := .ready, readFailed := true }).ringUnit r
      = { u.ringUnit r with hold := { (u.ringUnit r).hold with state := .ready, readFailed := true } } :=
    State.ringUnit_modRing_self _ _ _
  have asked : ((u.freeEntryAt i).modHold r fun h => { h with state := .ready, readFailed := true }).admission.asked
      = u.admission.asked.filter (· != .load r) := by
    refine (State.modRing_asked _ r _).trans (orderAsked_read_ends _ rfl ?_ rfl)
    show (u.ringUnit r).hold.read r = _
    rw [Hold.read, loading]
  have entries : ((u.freeEntryAt i).modHold r fun h => { h with state := .ready, readFailed := true }).entries
      = u.entries.set i Entry.reset := rfl
  have rest : ((u.freeEntryAt i).modHold r fun h => { h with state := .ready, readFailed := true }).store.freeQueue
        = u.store.freeQueue ++ (u.entry i).requestChain ++ (u.entry i).replyReservation
      ∧ ((u.freeEntryAt i).modHold r fun h => { h with state := .ready, readFailed := true }).stations = u.stations
      ∧ ((u.freeEntryAt i).modHold r fun h => { h with state := .ready, readFailed := true }).retire = u.retire :=
    ⟨rfl, rfl, rfl⟩
  unfold State.loadReturned
  generalize (u.freeEntryAt i).modHold r (fun h => { h with state := .ready, readFailed := true }) = x at *
  have entry := x.returnedEntry_to (u.entry i).holdsSegments r
  obtain ⟨back, entries', stations', store', retire', asked'⟩ := x.returnedEntry_frame (u.entry i).holdsSegments l a
  generalize x.returnedEntry (u.entry i).holdsSegments = y at *
  have now : (y.returned (.loadEnd i)).entries = u.entries.set i Entry.reset := entries'.trans entries
  have own := entry.append (y.returned_to (.loadEnd i) r)
  refine ⟨((freed.trans failed).trans back).trans (y.returned_sameElsewhere _ l a), ?_, fun j other => ?_, ?_, ?_, ?_, ?_, ?_⟩
  · rw [State.entry, now, Table.get_set_self]
  · rw [State.entry, now, Table.get_set_ne _ _ other.symm]
    rfl
  · exact (congrArg PayloadStore.freeQueue store').trans rest.1
  · exact stations'.trans rest.2.1
  · exact retire'.trans rest.2.2
  · exact (own.ready (by rw [unit])).trans unit
  · exact (y.returned_asked _).trans (asked'.trans asked)

/-- The bytes that had been read change the stored bytes alone. -/
theorem State.loadPartStored_eq (s : State) (i : EntryIx) (received : List Byte) :
    ∃ bytes, s.loadPartStored i received = { s with store := { s.store with bytes := bytes } } := by
  unfold State.loadPartStored
  split
  · exact ⟨_, rfl⟩
  · exact ⟨s.store.bytes, rfl⟩

/-! ### The completion of a record whose load failed (R139) -/

/-- A READY record leaves its hold with no further admission number, its completion in an immediate place (R136, R139). -/
theorem State.completeReadFailed_wake {p : PlaceIx} (running : s.device.state = .running)
    (ready : (s.ringUnit g.ring).hold.state = .ready) (found : s.freePlace = some p) :
    let t := (s.completeReadFailed g b).wake
    let done : Immediate :=
      { tag := recTag b, ring := g.ring, kind := recKindByte b, status := .hostReadError, result := zeroResult,
        target := none }
    t.admission.places = s.admission.places.set p (some done)
      ∧ t.retire.queue = s.retire.queue ++ [{ item := .immediate p, stamp := s.time.now }]
      ∧ t.admission.counter = s.admission.counter ∧ t.admission.credit = creditApplied g s.admission.credit
      ∧ t.admission.stage = t.regrant ∧ s.PostingAfter t ∧ t.ringUnit g.ring = (s.ringUnit g.ring).leave
      ∧ t.ringUnit (otherRing g.ring) = s.ringUnit (otherRing g.ring)
      ∧ t.admission.asked = s.admission.asked ++ s.leaveAsks g.ring ∧ s.SameWork t ∧ s.SameHost t
      ∧ s.NoIndication t := by
  have completes : s.completeReadFailed g b
      = ((s.placeImmediate p (immediateOf g.ring b .hostReadError [] none)).applied g).leaveHold g.ring := by
    simp only [State.completeReadFailed, found]
  rw [completes]
  generalize placed : (s.placeImmediate p (immediateOf g.ring b .hostReadError [] none)).applied g = u
  have unit : ∀ q, u.ringUnit q = s.ringUnit q := fun q => by
    rw [← placed]
    cases q <;> rfl
  obtain ⟨credit, counter, places, stage⟩ := u.modRing_rest g.ring RingUnit.leave
  have host : s.SameHost (u.leaveHold g.ring) := by
    rw [← placed]
    exact ⟨rfl, rfl, rfl, rfl, rfl, rfl, rfl, rfl, rfl⟩
  have work : s.SameWork (u.leaveHold g.ring) := by
    rw [← placed]
    exact ⟨rfl, rfl, rfl, rfl⟩
  have runs : (u.leaveHold g.ring).device.state = .running := (congrArg (·.state) host.device).trans running
  refine ⟨(State.wake_places _).trans (places.trans ?_), (State.wake_queue _).trans ?_,
    (State.wake_counter _).trans (counter.trans ?_), (State.wake_credit _).trans (credit.trans ?_),
    State.wake_stage_regrant runs (stage.trans ?_), State.postingAfter_wake ?_ runs, (State.wake_ringUnit _ _).trans ?_,
    (State.wake_ringUnit _ _).trans ?_, (State.wake_asked _).trans ?_, work.trans (State.wake_sameWork _),
    host.trans (State.wake_sameHost _), State.noIndication_wake ?_ host⟩
  · rw [← placed]; rfl
  · rw [← placed]; rfl
  · rw [← placed]; rfl
  · rw [← placed]; rfl
  · rw [← placed]; rfl
  · rw [← placed]; rfl
  · rw [State.leaveHold, State.ringUnit_modRing_self, unit]
  · rw [State.leaveHold, State.ringUnit_modRing_other, unit]
  · rw [State.leaveHold, State.modRing_asked, unit, orderAsked_leave_ready _ _ _ (by rw [Hold.read, ready]), ← placed]
    rfl
  · rw [← placed]; rfl

theorem exec_readFailedCompletion (running : s.device.state = .running) (granted : s.admission.stage = some g)
    (hold : (s.ringUnit g.ring).hold = { state := .ready, bytes := b, readFailed := true }) :
    exec .readFailedCompletion s = .next (s.completeReadFailed g b).wake := by
  show Host.Outcome.next (s.whenRunning _) = _
  rw [State.whenRunning_of_eq running]
  simp only [granted, hold]
  rfl

end

/-- Settles O37: by what stands in the hold of the other ring, and by the immediate places. -/
theorem loadFails : Obligations.LoadFails := by
  refine ⟨fun s r i received running loading turn => ?_, fun s g b running granted hold => ⟨fun place => ?_, fun full => ?_⟩⟩
  · intro l other asked ends
    have run := exec_loadError received running loading turn
    obtain ⟨bytes, part⟩ := s.loadPartStored_eq i received
    rw [part, State.loadFailed_eq] at run
    have stored : ∀ a, s.SameElsewhere { s with store := { s.store with bytes := bytes } } l a := fun a =>
      ⟨rfl, fun _ _ _ => rfl, rfl, rfl, rfl, rfl, ⟨rfl, rfl, rfl, rfl, rfl, rfl, rfl, rfl, rfl⟩, rfl, rfl⟩
    have failed := fun a =>
      State.loadReturned_frame (u := { s with store := { s.store with bytes := bytes } }) (i := i) loading l a
    have returned := State.loadReturned_to { s with store := { s.store with bytes := bytes } } r i
    generalize State.loadReturned { s with store := { s.store with bytes := bytes } } r i = v at *
    have concludes : ∀ (w : State) (a : Station) (did : State → Prop),
        exec (.loadError r received) s = .next (w.settleLine l).wake → s.SameElsewhere w l a →
        w.entry i = Entry.reset →
        w.store.freeQueue = s.store.freeQueue ++ (s.entry i).requestChain ++ (s.entry i).replyReservation →
        w.ringUnit r = { s.ringUnit r with hold := { (s.ringUnit r).hold with state := .ready, readFailed := true } } →
        w.retire.queue = s.retire.queue → did w.wake → ends did :=
      fun w a did run same entry freed unit queue effect => by
        obtain ⟨lines, stations, places, counter, credit, host, noIndication, begins⟩ := same.wake running
        exact State.then_of_exec run (same.running running) ⟨effect, (State.wake_entry w i).trans entry,
          (congrArg PayloadStore.freeQueue (State.wake_store w)).trans freed, (State.wake_ringUnit w r).trans unit, counter,
          places, credit, begins, (State.wake_queue w).trans queue, lines, host, noIndication⟩
    refine ⟨fun free => ?_, fun j a complete apart loads line own taking up => ?_⟩
    · obtain ⟨same, entry, entries, freed, stations, retire, unit, asked⟩ := failed broadcastStation
      rw [State.placeOther_of_returned returned free] at run
      exact concludes v broadcastStation _ run ((stored _).trans same) entry freed unit (congrArg RetireUnit.queue retire)
        ⟨fun j other => (State.wake_entry v j).trans (entries j other), returned.congr rfl (State.wake_ringUnit v _),
          (State.wake_asked v).trans asked, (State.wake_stations v).trans stations⟩
    · obtain ⟨same, entry, entries, freed, stations, retire, unit, asked⟩ := failed a
      have elsewhere := (stored a).trans same
      have unit' : v.ringUnit (otherRing r) = s.ringUnit (otherRing r) :=
        returned.same fun lacks waiting => HoldState.noConfusion (complete.symm.trans waiting)
      have complete' : (v.ringUnit (otherRing r)).hold.state = .loading j true := by rw [unit']; exact complete
      have second : v.entry j = s.entry j := entries j apart
      have record : v.station l a = s.station l a := congrArg (fun x => Table.get (Table.get x l) a) stations
      have engine : v.line l = s.line l := congrArg (Table.get · l) elsewhere.lines
      obtain ⟨places, same', left, kept, asked'⟩ := State.placeLoaded_complete (u := v) (l := l) (r := otherRing r) complete'
        (by rw [second]; exact loads) (by rw [second, line]) (by rw [second]; exact own) (by rw [engine]; exact taking)
        (by rw [record]; exact up) fun lacks => by
          rw [otherRing_otherRing, unit]
          exact fun k => by cases k
      rw [State.placeOther_of_complete complete'] at run
      rw [otherRing_otherRing] at kept
      rw [asked, State.leaveAsks_congr unit'] at asked'
      rw [second, record] at places
      have elsewhere' := elsewhere.trans same'
      generalize v.placeLoaded (otherRing r) j = w at *
      obtain ⟨placed, others, fifo, -, -⟩ := places.wake
      refine concludes w a _ run elsewhere' ((places.entries i apart.symm).trans entry)
        ((congrArg PayloadStore.freeQueue places.store).trans freed) (kept.trans unit) ?_
        ⟨placed, fun k first second => (others k second).trans (entries k first),
          (State.wake_ringUnit w _).trans (left.trans (congrArg RingUnit.leave unit')), (State.wake_asked w).trans asked', fifo,
          fun m c other => (State.wake_station w m c).trans (elsewhere'.stations m c other)⟩
      rw [places.queue, List.append_nil]
      exact congrArg RetireUnit.queue retire
  · obtain ⟨p, found, free⟩ := place.freePlace
    exact ⟨_, p, exec_readFailedCompletion running granted hold, free,
      State.completeReadFailed_wake running (by rw [hold]) found⟩
  · refine ⟨_, exec_readFailedCompletion running granted hold, ?_⟩
    have aside : s.completeReadFailed g b = s.setAside g [.immediatePlace] := by
      simp only [State.completeReadFailed, State.freePlace_of_not_hasPlace full]
    rw [aside]
    obtain ⟨unit, rest⟩ := State.setAside_wake_frame running (by rw [hold]) [.immediatePlace]
    exact ⟨by rw [unit, hold], rest⟩

end Sys2Proof.Machine

/-! A TRANSACT that passes its checks and lacks nothing (R117, R136, R137, R138). -/

namespace Sys2Proof.Machine

section
variable {s u v : State} {g : Grant} {b : List Byte} {i j : EntryIx} {l : Line} {a : Station}

/-- The entry, the segments, the number and the hold are taken, and the load is asked for (R137). -/
def State.transactLoading (s : State) (g : Grant) (b : List Byte) (i : EntryIx) : State :=
  let t := s.setEntry i (s.transactEntry g.ring b)
  let t' := { t with store := { t.store with freeQueue := t.store.freeQueue.drop (demand b) } }
  (t'.numbered.applied g).modHold g.ring fun h => { h with state := .loading i false }

theorem State.transactTake_eq (s : State) (g : Grant) (b : List Byte) (i : EntryIx) :
    s.transactTake g b i = if recRequestLength b = 0 then (s.transactLoading g b i).loadDone g.ring i
      else s.transactLoading g b i := rfl

theorem State.applyTransact_taken (checks : s.transactCheck g.ring b = none) (lowest : s.LowestFree i)
    (enough : demand b ≤ s.store.freeQueue.length) : s.applyTransact g b = s.transactTake g b i := by
  have lacks : s.transactLacks b = [] := by
    rw [State.transactLacks, lowest.freeEntry, if_neg (Nat.not_lt.2 enough)]
    rfl
  simp only [State.applyTransact, checks, lacks, lowest.freeEntry]

theorem recReplyLimit_eq (station : 1 ≤ recStationNumber b ∧ recStationNumber b ≤ 31) :
    recReplyLimit b = if recStationNumber b = 31 then 0 else min (recReplyLength b) 248 := by
  simp only [recReplyLimit, recStation_eq_broadcast_iff station]

/-- What stands when entry `i` has been taken and loads (R137). -/
structure State.TransactLoads (s u : State) (g : Grant) (b : List Byte) (i : EntryIx) : Prop where
  entry : u.entry i = s.transactEntry g.ring b
  entries : ∀ j, j ≠ i → u.entry j = s.entry j
  store : u.store = { s.store with freeQueue := s.store.freeQueue.drop (demand b) }
  counter : u.admission.counter = s.admission.counter + 1
  credit : u.admission.credit = creditApplied g s.admission.credit
  stage : u.admission.stage = none
  places : u.admission.places = s.admission.places
  asked : u.admission.asked = s.admission.asked ++ [.load g.ring]
  unit : u.ringUnit g.ring =
    { s.ringUnit g.ring with hold := { state := .loading i false, bytes := b, readFailed := false } }
  other : u.ringUnit (otherRing g.ring) = s.ringUnit (otherRing g.ring)
  retire : u.retire = s.retire
  lines : u.lines = s.lines
  stations : u.stations = s.stations
  host : s.SameHost u
  ind : u.ind = s.ind

theorem State.transactLoading_loads (hold : (s.ringUnit g.ring).hold = { state := .ready, bytes := b, readFailed := false })
    (i : EntryIx) : s.TransactLoads (s.transactLoading g b i) g b i := by
  let t := s.setEntry i (s.transactEntry g.ring b)
  let t' := ({ t with store := { t.store with freeQueue := t.store.freeQueue.drop (demand b) } } : State).numbered.applied g
  have unit : ∀ q, t'.ringUnit q = s.ringUnit q := fun q => by cases q <;> rfl
  obtain ⟨credit, counter, places, stage⟩ := t'.modRing_rest g.ring fun u => { u with hold := { u.hold with state := .loading i false } }
  refine ⟨Table.get_set_self _ _ _, fun j other => Table.get_set_ne _ _ other.symm, rfl, counter, credit, stage, places, ?_, ?_,
    (State.ringUnit_modRing_other t' g.ring _).trans (unit _), rfl, rfl, rfl,
    ⟨rfl, rfl, rfl, rfl, rfl, rfl, rfl, rfl, rfl⟩, rfl⟩
  · refine (State.modRing_asked t' g.ring _).trans (orderAsked_read_begins _ rfl ?_ rfl)
    rw [unit, hold]
    rfl
  · refine (State.ringUnit_modRing_self t' g.ring _).trans ?_
    rw [unit, hold]

/-- The state `v` differs from that of the taken entry's load in what its end may change. -/
theorem State.TransactLoads.frame (h : s.TransactLoads u g b i) (same : u.SameElsewhere v l a)
    (running : s.device.state = .running) :
    v.wake.admission.counter = s.admission.counter + 1 ∧ v.wake.admission.credit = creditApplied g s.admission.credit
      ∧ v.wake.admission.stage = v.wake.regrant ∧ s.PostingAfter v.wake
      ∧ v.wake.admission.places = s.admission.places ∧ v.wake.lines = s.lines ∧ s.SameHost v.wake
      ∧ s.NoIndication v.wake := by
  have host := h.host.trans same.host
  have runs : v.device.state = .running := (congrArg (·.state) host.device).trans running
  exact ⟨(State.wake_counter v).trans (same.counter.trans h.counter), (State.wake_credit v).trans (same.credit.trans h.credit),
    State.wake_stage_regrant runs (same.stage.trans h.stage),
    State.postingAfter_wake (same.posting.trans (congrArg RetireUnit.posting h.retire)) runs,
    (State.wake_places v).trans (same.places.trans h.places), (State.wake_lines v).trans (same.lines.trans h.lines),
    host.trans v.wake_sameHost, State.noIndication_wake (same.ind.trans h.ind) host⟩

theorem State.SameElsewhere.refl (s : State) (l : Line) (a : Station) : s.SameElsewhere s l a :=
  ⟨rfl, fun _ _ _ => rfl, rfl, rfl, rfl, rfl, State.SameHost.refl s, rfl, rfl⟩

end

/-- Settles O22: by the length of the request, and by what stands in the hold of the other ring. -/
theorem transactTaken : Obligations.TransactTaken := by
  intro s g b i hat hk passes lowest l a limit request reply taken other loading frame enough
  have checks := (State.transactCheck_eq_none_iff hk).2 passes
  obtain ⟨shape, -, -, going, -, up⟩ := passes
  have parts : demand b = request + reply := demand_eq shape.2.1
  have limit_eq : recReplyLimit b = limit := recReplyLimit_eq shape.2.1
  have takes : s.transactEntry g.ring b = taken := by
    simp only [State.transactEntry, limit_eq]
    rfl
  have run : exec .transact s = .next (s.transactTake g b i).wake := by
    rw [exec_transact_of_atApplication hat hk, State.applyTransact_taken checks lowest (by rw [parts]; exact enough)]
  obtain ⟨running, -, hold⟩ := hat
  rw [State.transactTake_eq] at run
  have loads := State.transactLoading_loads hold i
  generalize s.transactLoading g b i = u at *
  have own : u.entry i = taken := loads.entry.trans takes
  have frames : ∀ v, u.SameElsewhere v l a → (∀ j, j ≠ i → v.entry j = u.entry j) → v.store = u.store →
      v.retire.queue = u.retire.queue → frame v.wake := fun v same entries store queue => by
    obtain ⟨counter, credit, stage, posting, places, lines, host, noIndication⟩ := loads.frame same running
    refine ⟨fun j other => (State.wake_entry v j).trans ((entries j other).trans (loads.entries j other)),
      (State.wake_store v).trans (store.trans (loads.store.trans ?_)), counter, credit, stage, posting, places,
      (State.wake_queue v).trans (queue.trans (congrArg RetireUnit.queue loads.retire)), lines, host, noIndication⟩
    rw [parts]
  have held : (u.ringUnit g.ring).hold.state = .loading i false := by rw [loads.unit]
  have placedAfter : ∀ j, u.PlacedAfter i j → (s.entry j).state = .loading ∧ (s.entry j).line = l
      ∧ (s.entry j).station = some a ∧ (s.entry j).admission.toNat < s.admission.counter.toNat :=
    fun j ⟨state, line, station, number⟩ => by
      rw [own] at line station number
      by_cases same : j = i
      · rw [same, own] at number
        exact absurd number (Nat.lt_irrefl _)
      · rw [loads.entries j same] at state line station number
        exact ⟨state, line, station, number⟩
  have station : ∀ m c, u.station m c = s.station m c := fun m c =>
    congrArg (fun x => Table.get (Table.get x m) c) loads.stations
  refine ⟨fun some => ?_, fun none free => ?_, fun j c none complete state line own' number => ?_⟩
  · rw [if_neg some] at run
    exact ⟨_, run, frames u (State.SameElsewhere.refl u l a) (fun _ _ => rfl) rfl rfl,
      ⟨(State.wake_ringUnit u _).trans loads.unit, (State.wake_ringUnit u _).trans loads.other,
        (State.wake_entry u i).trans own, (State.wake_stations u).trans loads.stations⟩,
      (State.wake_asked u).trans loads.asked⟩
  · rw [if_pos none] at run
    obtain ⟨same, placed⟩ := State.placeEntry_queued (s := u) (i := i) (a := a) (by rw [own]) (by rw [own])
      (Or.inl (by rw [own, State.line, loads.lines]; exact going)) (by rw [own, station]; exact up)
    obtain ⟨done, leaves⟩ := State.loadDone_free held (fun j c k => by
      rw [loads.other] at k
      obtain ⟨incomplete, apart⟩ := free j c k
      refine ⟨incomplete, fun after => ?_⟩
      obtain ⟨state, line, station, number⟩ := placedAfter j after
      rcases apart with h | h | h | h
      · exact h state
      · exact h line
      · exact h station
      · omega) same
    rw [done, own] at run
    rw [own] at placed
    have both := placed.placeLoaded g.ring
    have elsewhere := both.sameElsewhere leaves
    have asks : u.leaveAsks g.ring = s.leaveAsks g.ring := by
      unfold State.leaveAsks
      rw [loads.unit]
    have order : u.admission.asked.filter (· != .load g.ring) ++ u.leaveAsks g.ring
        = s.admission.asked.filter (· != .load g.ring) ++ s.leaveAsks g.ring := by
      rw [loads.asked, asks]
      simp
    rw [order] at leaves
    generalize u.placeLoaded g.ring i = v at *
    obtain ⟨entry, -, fifo, -, -⟩ := both.wake
    obtain ⟨unit, returned, asked⟩ := leaves.wake
    rw [station] at fifo
    refine State.then_of_exec run ((congrArg (·.state) (loads.host.trans both.host).device).trans running)
      ⟨frames v elsewhere both.entries both.store (both.queue.trans (List.append_nil _)), entry, fifo, fun m c other => ?_, ?_,
        returned.congr loads.other.symm rfl, asked⟩
    · exact (State.wake_station v m c).trans ((both.stations m c other).trans (station m c))
    · rw [unit, loads.unit]
      rfl
  · rw [if_pos none] at run
    have apart : j ≠ i := fun same => by rw [same, lowest.1] at state; cases state
    obtain ⟨v, done, same, entries, stations, store, retire, unit, unit', asked⟩ :=
      State.loadDone_behind (l := l) (a := a) held (by rw [loads.other]; exact complete)
        (show u.PlacedAfter i j by
          unfold State.PlacedAfter
          rw [loads.entries j apart, own]
          exact ⟨state, line, own', number⟩)
    rw [done] at run
    refine ⟨_, run, frames v same (fun k _ => congrArg (Table.get · k) entries) store (congrArg RetireUnit.queue retire),
      ⟨(State.wake_ringUnit v _).trans (unit.trans ?_), (State.wake_ringUnit v _).trans (unit'.trans loads.other),
        (State.wake_entry v i).trans ((congrArg (Table.get · i) entries).trans own),
        (State.wake_stations v).trans (stations.trans loads.stations)⟩, (State.wake_asked v).trans (asked.trans ?_)⟩
    · rw [loads.unit]
    · rw [loads.asked]
      simp

end Sys2Proof.Machine

/-! STATION_CONTROL QUERY and TIME_READ: the two samples that change nothing (R30, R77). -/

namespace Sys2Proof.Machine

/-! ### The sample of a station record -/

/-- A byte below 8 is given by its three low bits, as the flags byte of the sample is laid out (R77). -/
theorem eq_byteOf_bits {v : Byte} {x y z : Bool} (low : v.getLsbD 0 = x) (middle : v.getLsbD 1 = y)
    (high : v.getLsbD 2 = z) (bound : v.toNat < 8) : v = byteOf (bit x + 2 * bit y + 4 * bit z) := by
  have bits : ∀ n : Fin 8, BitVec.ofNat 8 n.val
      = byteOf (bit ((BitVec.ofNat 8 n.val).getLsbD 0) + 2 * bit ((BitVec.ofNat 8 n.val).getLsbD 1)
        + 4 * bit ((BitVec.ofNat 8 n.val).getLsbD 2)) := by decide
  have own := bits ⟨v.toNat, bound⟩
  rwa [BitVec.ofNat_toNat, BitVec.setWidth_eq, low, middle, high] at own

section
variable {s : State} {l : Line} {a : Station}

theorem State.stationSample_broadcast : s.stationSample l broadcastStation
    = [2, 0, 0, 0, byteOf (s.station l broadcastStation).fifo.length, 0, 0, 0, 0, 0, 0, 0] := by
  rw [State.stationSample, if_pos rfl]
  rfl

/-- The sample of a station that is not address 31, its flags byte pinned by its bits (R77). -/
theorem State.stationSample_of_bits (own : a ≠ broadcastStation) {bits : Byte}
    (reported : bits.getLsbD 0 = true ↔ (s.station l a).statusWord ≠ none)
    (flushes : bits.getLsbD 1 = true ↔ (s.station l a).flushDue ≠ none)
    (flies : bits.getLsbD 2 = true ↔
      (s.line l).inFlight = true ∧ ∃ ex, (s.line l).current = some ex ∧ ex.station = a)
    (bound : bits.toNat < 8) :
    s.stationSample l a
      = [byteOf (s.station l a).state.code, byteOf (bit (s.station l a).seqBit),
          byteOf (s.station l a).failures, byteOf (bit (s.station l a).attention),
          byteOf (s.station l a).fifo.length, byteOf (s.station l a).deferred.length,
          byteOf (s.station l a).release.length, bits]
        ++ le16 ((s.station l a).statusWord.getD 0) ++ [0, 0] := by
  have flags := eq_byteOf_bits
    (Bool.eq_iff_iff.2 (reported.trans Option.isSome_iff_ne_none.symm))
    (Bool.eq_iff_iff.2 (flushes.trans Option.isSome_iff_ne_none.symm))
    (Bool.eq_iff_iff.2 (flies.trans State.exchangeWith_iff.symm)) bound
  rw [State.stationSample, if_neg own, ← flags]

end

/-! ### The two records -/

section
variable {s : State} {g : Grant} {b : List Byte}

/-- QUERY completes with the sample and changes nothing (R77). -/
theorem stationControlQuery_completes (hat : s.AtApplication g b) (hk : recKind b = 5) (hop : recOp b = 3)
    (shape : shapeOk b = true) (hp : s.HasPlace) : ∃ t, exec .stationControlQuery s = .next t
      ∧ s.OnlyCompleted t g b .ok (s.stationSample (recLine b) (recStation b)) :=
  ⟨_, congrArg Host.Outcome.next (State.stationControl_of_shape _ hat hk hop shape),
    State.completeNow_same (effect := fun t => (t, .ok, t.stationSample _ _)) hat hp rfl⟩

/-- TIME_READ completes with device time and the beacon numbers and changes nothing (R30). -/
theorem timeRead_completes (hat : s.AtApplication g b) (hk : recKind b = 6) (shape : shapeOk b = true)
    (hp : s.HasPlace) : ∃ t, exec .timeRead s = .next t ∧ s.OnlyCompleted t g b .ok s.timeSample := by
  refine ⟨_, exec_timeRead_of_atApplication hat hk, ?_⟩
  rw [State.applyTimeRead, if_pos shape]
  exact State.completeNow_same (effect := fun t => (t, .ok, t.timeSample)) hat hp rfl

end

/-- Settles O34: each record completes with its sample, and a QUERY's is read by its address. -/
theorem queryAndTimeRead : Obligations.QueryAndTimeRead := by
  intro s g b hat zero hp r word state inFlight
  refine ⟨fun hk hop line => ?_, fun hk => timeRead_completes hat hk ((shapeOk_timeRead_iff hk).2 zero) hp⟩
  have query (station : 1 ≤ recStationNumber b ∧ recStationNumber b ≤ 31) :=
    stationControlQuery_completes hat hk hop
      ((shapeOk_stationControl_iff hk).2 ⟨line, station, by omega, zero⟩) hp
  refine ⟨fun first last bits reported flushes flies bound => ?_, fun last => ?_⟩
  · have station : 1 ≤ recStationNumber b ∧ recStationNumber b ≤ 31 := ⟨first, by omega⟩
    have code : r.state.code = state := by
      simp only [state]
      cases r.state <;> rfl
    have completes := query station
    rw [State.stationSample_of_bits (recStation_ne_broadcast station last) reported flushes flies bound] at completes
    rw [← code]
    exact completes
  · have station : 1 ≤ recStationNumber b ∧ recStationNumber b ≤ 31 := by omega
    have broadcast : recStation b = broadcastStation := (recStation_eq_broadcast_iff station).2 last
    simpa only [r, broadcast, State.stationSample_broadcast] using query station

end Sys2Proof.Machine
